-- ==== Sys2Proof/Word.lean ====
section
/-! DEFINITION. The word types of the BX-3200: bytes, S words, L words and the 64-bit register word (R5, R6, R42, R47). -/

namespace Sys2Proof

/-- One byte of scratchpad, of a row or of a code section (R6). -/
abbrev Byte := BitVec 8

/-- A 64-bit register, doubleword or lane slice (R15, R85). -/
abbrev W64 := BitVec 64

/-- A mask of lanes, bit i for lane i (R127). -/
abbrev LMask := BitVec 32

/-- An S word (R42). -/
abbrev SWord := BitVec 32

/-- An L word (R47). -/
abbrev LWord := BitVec 96

/-- The lanes of a group, 0 to 31, in ascending order (R8). -/
def laneList : List Nat := List.range 32

end Sys2Proof
end

