-- ==== Sys2Proof/Config.lean ====
section
/-! DEFINITION. What an implementation fixes and the spec leaves open: free values without a body, the primitives that the
spec names by standard, and the figures of R11 and R14 that bound the machine. -/

namespace Sys2Proof

/-- The free values: the n-th number drawn. Nothing constrains it (log entry 2). -/
opaque Config.freeNat : Nat → Nat

/-- R345: KMAC256 of a key, an input, an output length in bits and a customisation string (log entry 11). -/
opaque Config.kmac256 (key input : List Byte) (bits : Nat) (custom : String) : Vector Byte (bits / 8)

/-- R345, R350: AES-256-GCM under a key and a nonce: the ciphertext and tag of a plaintext (log entry 11). -/
opaque Config.gcmSeal : List Byte → List Byte → List Byte → List Byte

/-- R347: AES-256-GCM of a flit under a key and a nonce: 240 bytes of ciphertext and a 16-byte tag (log entry 11). -/
opaque Config.flitSeal (key nonce : List Byte) (plain : Vector Byte 240) : Vector Byte 256

/-- R347: opens a flit under a key and a nonce; none where authentication fails (log entry 11). -/
opaque Config.flitOpen (key nonce : List Byte) (sent : Vector Byte 256) : Option (Vector Byte 240)

/-- R349: AES-256-XTS decryption of one data unit under a key pair and a tweak (log entry 11). -/
opaque Config.xtsOpen : List Byte → List Byte → List Byte → List Byte

/-- R349: AES-256-XTS encryption of one data unit under a key pair and a tweak (log entry 11). -/
opaque Config.xtsSeal : List Byte → List Byte → List Byte → List Byte

/-- R351: an SLH-DSA-SHAKE-256s signature of a message under the key pair of a seed (log entry 11). -/
opaque Config.slhSign : List Byte → List Byte → Vector Byte 29792

/-- R351: the public key of the key pair of a seed (log entry 11). -/
opaque Config.slhPublic : List Byte → Vector Byte 64

/-- R351: the Skovgan public key in ROM. -/
opaque Config.skovganKey : Vector Byte 64

/-- R351: whether a firmware image verifies against a public key (log entry 11). -/
opaque Config.slhVerify : Vector Byte 64 → List Byte → Bool

/-- R351: SHAKE256 (log entry 11). -/
opaque Config.shake256 : List Byte → List Byte

/-- R351, R369: Daybreak, the code in ROM. -/
opaque Config.daybreak : List Byte

/-- R369: the firmware image that the module finds at power-on. -/
opaque Config.firmware : List Byte

/-- R351: the fuse version. -/
opaque Config.fuseVersion : Nat

/-- R39: the native section that `llyn-fin` makes of a Vrelmufa section under a header; none where it cannot. -/
opaque Config.finalise : List Byte → List Byte → Option (List Byte)

/-- R347: the direction bit of the flits that this module sends on a link. -/
opaque Config.linkSide : Nat → Bool

/-- R371: the link that leads to a module. -/
opaque Config.linkTo : Nat → Nat

/-- R371: the virtual lane that the plaintext of a flit travels on. -/
opaque Config.flitLane : Vector Byte 240 → Nat

/-- R345: the module root, 256 bits fused at manufacture. -/
opaque Config.moduleRoot : Vector Byte 32

/-- R346: what a wrap key makes of a wrapped secret; none where it does not open (log entry 11). -/
opaque Config.unwrap : List Byte → List Byte → Option (List Byte)

/-- R119: the significand that a special function's value is rounded from where no working precision decided it, by function
and operand: a free value (log entry 10). -/
opaque Config.hardCase : Nat → Nat → Nat

/-- R176: the physical locator of a slab of a table version, by version and slab: opaque to programs. -/
opaque Config.slabPlace : Nat → Nat → BitVec 64

/-- R170: the hash of a key of a striped HASH table, keyed by the descriptor. -/
opaque Config.keyHash : BitVec 32 → BitVec 128 → Nat

/-- R14: cores of a module. -/
def Config.cores : Nat := 512

/-- R11: C-dies of a module. -/
def Config.dies : Nat := 32

/-- R11: all dies of a module: C-dies 0 to 31, then their U-dies, then the I-dies. -/
def Config.allDies : Nat := 68

/-- R371: Zhenan links of a module. -/
def Config.links : Nat := 48

/-- R225: engine job slots of a core. -/
def Config.jobSlots : Nat := 512

end Sys2Proof
end

