-- ==== Sys2Proof/Syntax.lean ====
section
/-! DEFINITION. The instructions of the BX-3200: one constructor per row of spec/opcode_table.json. S words carry their
fields, L words carry the fields of R47 with the sources already told apart (R50), and the events of the module carry the
names of what they act on. -/

namespace Sys2Proof

/-- The TY codes of R53, in code order. -/
inductive Ty where
  | i8 | i16 | i32 | i64 | n8 | n16 | n32 | n64 | f16 | bf16 | f32 | f64 | e4m3 | e5m2 | b64 | none
  deriving DecidableEq, Repr

/-- A 10-bit source field, told apart as R50 does; `imm` is code 0x200, `byte` an inline byte, `const` an entry of R52
(entry 0 is the zero code). -/
inductive Src where
  | reg (n : BitVec 8) | latch (y : BitVec 2) | uqPop | uqPeek | lane | gid | wgid | mask | split
  | w (n : BitVec 5) | imm | byte (n : BitVec 8) | const (k : BitVec 4)
  deriving DecidableEq, Repr

/-- The fields of an L word besides OP (R47). -/
structure LOp where
  ty  : Ty
  var : BitVec 4
  vd  : BitVec 8
  nw  : Bool
  pn  : Bool
  pg  : BitVec 3
  a   : Src
  b   : Src
  c   : Src
  aux : BitVec 5
  imm : BitVec 32
  deriving DecidableEq, Repr

/-- The conditions of `b` (R94), in code order. -/
inductive Cond where
  | al | eqz | nez | ltz | gez | lez | gtz
  deriving DecidableEq, Repr

/-- Orders, in the code order of R45. -/
inductive Order where
  | rlx | acq | rel | ar
  deriving DecidableEq, Repr

/-- Scopes, in the code order of R19. -/
inductive Scope where
  | grp | wg | clu | die | mod | dom
  deriving DecidableEq, Repr

/-- The specials of `rds`, in number order (R93). -/
inductive Special where
  | gid | wgid | ngroups | lvl2 | lvl3 | lvl4 | lvl5 | lvl6 | lvl7 | core | die | module | clock | gtime | alive | world
  deriving DecidableEq, Repr

/-- How the servicing of a service-fault list ended (R303). -/
inductive ServiceResult where
  | serviced | ownerEnded | stateUncorr
  deriving DecidableEq, Repr

/-- The two secrets that a tenant's authority sends (R346). -/
inductive SecretKind where
  | fabric | transfer
  deriving DecidableEq, Repr

/-- What the resident driver starts to migrate (R176, R343). -/
inductive Migration where
  | slab (table : BitVec 32) (slab : Nat)
  | window (index : Nat)
  deriving DecidableEq, Repr

/-- A Zhenan flit as received: the owner whose key it names, its counter, and its 256 bytes of ciphertext and tag (R347). -/
structure Flit where
  owner   : BitVec 64
  counter : BitVec 64
  bytes   : Vector Byte 256
  deriving DecidableEq, Repr

/-- A client message: the 32-byte header of R326 and the body. -/
structure Msg where
  session : Nat
  op      : BitVec 16
  status  : BitVec 16
  length  : BitVec 32
  req     : BitVec 64
  ctx     : BitVec 32
  resv    : BitVec 96
  body    : List Byte
  deriving DecidableEq, Repr

/-- The defined cause codes of R298, by name, in code order. -/
inductive Cause where
  | zeroWord -- 0x00
  | onesWord -- 0x01
  | illegalS -- 0x02
  | illegalFn -- 0x03
  | illegalL -- 0x04
  | illegalForm -- 0x05
  | reservedBits -- 0x06
  | privileged -- 0x07
  | fetchFault -- 0x08
  | latchInvalid -- 0x09
  | constRange -- 0x0A
  | paramRange -- 0x0B
  | csrValue -- 0x0C
  | frameBad -- 0x0D
  | fpInvalid -- 0x10
  | fpDivzero -- 0x11
  | fpOverflow -- 0x12
  | fpUnderflow -- 0x13
  | fpInexact -- 0x14
  | intDivzero -- 0x15
  | modeValue -- 0x16
  | accBusy -- 0x20
  | accType -- 0x21
  | accRange -- 0x22
  | blineRange -- 0x23
  | mmaPair -- 0x24
  | blineWorld -- 0x25
  | loopOverflow -- 0x30
  | loopUnderflow -- 0x31
  | loopOpenRet -- 0x32
  | splitOverflow -- 0x33
  | queueDeadlock -- 0x34
  | lrunTarget -- 0x35
  | loopNest -- 0x36
  | joinMismatch -- 0x37
  | barMismatch -- 0x38
  | scrRange -- 0x40
  | scrAlign -- 0x41
  | noTable -- 0x50
  | notOwner -- 0x51
  | staleRid -- 0x52
  | dupKey -- 0x53
  | keyRange -- 0x54
  | colRange -- 0x55
  | atomAlign -- 0x56
  | cursorBad -- 0x57
  | cursorFull -- 0x58
  | tableFull -- 0x59
  | indexFull -- 0x5A
  | kindMismatch -- 0x5B
  | slotReadonly -- 0x5C
  | keyAbsent -- 0x5D
  | windowRevoked -- 0x70
  | aregNest -- 0x80
  | aregIllegal -- 0x81
  | aregNone -- 0x82
  | elemFault -- 0x90
  | copyDesc -- 0x91
  | gatherDesc -- 0x92
  | bloadDesc -- 0x93
  | counterAlign -- 0x94
  | copySlice -- 0x95
  | counterLoc -- 0x96
  | timer -- 0xA0
  | breakpoint -- 0xA1
  | sstep -- 0xA2
  | watch -- 0xA3
  | userTrap -- 0xA4
  | spawnDesc -- 0xA5
  | doubleTrap -- 0xA6
  | halted -- 0xA7
  | debugStop -- 0xA8
  | timeLimit -- 0xA9
  | killed -- 0xAA
  | eccUncorr -- 0xB0
  | linkAuth -- 0xB1
  | worldViolation -- 0xB2
  | rowAbsent -- 0xB3
  | dirAbsent -- 0xB4
  | windowRepair -- 0xB5
  | eccCorr -- 0xB6
  | ownerEnded -- 0xB7
  | stateUncorr -- 0xB8
  | linkRetrain -- 0xB9
  deriving DecidableEq, Repr

/-- The instructions: words of the S-stream, words of the L-stream, and the steps of the module that no word encodes. The
comment on each constructor gives its row of spec/opcode_table.json and the rule that governs it. The compiler gives objects
at most 245 tags, so the words without fields and the events that only arrive from outside stand last. -/
inductive Instr where
  | add (d a b : BitVec 6) -- ADD (R88)
  | sub (d a b : BitVec 6) -- SUB (R88)
  | and (d a b : BitVec 6) -- AND (R88)
  | or (d a b : BitVec 6) -- OR (R88)
  | xor (d a b : BitVec 6) -- XOR (R88)
  | andn (d a b : BitVec 6) -- ANDN (R88)
  | shl (d a b : BitVec 6) -- SHL (R88)
  | shr (d a b : BitVec 6) -- SHR (R88)
  | sar (d a b : BitVec 6) -- SAR (R88)
  | mul (d a b : BitVec 6) -- MUL (R88)
  | mulh (d a b : BitVec 6) -- MULH (R88)
  | mulhn (d a b : BitVec 6) -- MULHN (R88)
  | div (d a b : BitVec 6) -- DIV (R89)
  | divn (d a b : BitVec 6) -- DIVN (R89)
  | rem (d a b : BitVec 6) -- REM (R89)
  | remn (d a b : BitVec 6) -- REMN (R89)
  | min (d a b : BitVec 6) -- MIN (R88)
  | max (d a b : BitVec 6) -- MAX (R88)
  | minn (d a b : BitVec 6) -- MINN (R88)
  | maxn (d a b : BitVec 6) -- MAXN (R88)
  | slt (d a b : BitVec 6) -- SLT (R88)
  | sltn (d a b : BitVec 6) -- SLTN (R88)
  | seq (d a b : BitVec 6) -- SEQ (R88)
  | sne (d a b : BitVec 6) -- SNE (R88)
  | clz (d a : BitVec 6) -- CLZ (R88)
  | ctz (d a : BitVec 6) -- CTZ (R88)
  | popc (d a : BitVec 6) -- POPC (R88)
  | brev (d a : BitVec 6) -- BREV (R88)
  | addw (d a b : BitVec 6) -- ADDW (R88)
  | subw (d a b : BitVec 6) -- SUBW (R88)
  | divT (d a b : BitVec 6) -- DIV_T (R89)
  | divnT (d a b : BitVec 6) -- DIVN_T (R89)
  | remT (d a b : BitVec 6) -- REM_T (R89)
  | remnT (d a b : BitVec 6) -- REMN_T (R89)
  | addi (d a : BitVec 6) (i : BitVec 14) -- ADDI (R90)
  | andi (d a : BitVec 6) (i : BitVec 14) -- ANDI (R90)
  | ori (d a : BitVec 6) (i : BitVec 14) -- ORI (R90)
  | xori (d a : BitVec 6) (i : BitVec 14) -- XORI (R90)
  | shli (d a i : BitVec 6) -- SHLI (R90)
  | shri (d a i : BitVec 6) -- SHRI (R90)
  | sari (d a i : BitVec 6) -- SARI (R90)
  | slti (d a : BitVec 6) (i : BitVec 14) -- SLTI (R90)
  | sltni (d a : BitVec 6) (i : BitVec 14) -- SLTNI (R90)
  | muli (d a : BitVec 6) (i : BitVec 14) -- MULI (R90)
  | movi (d : BitVec 6) (i : BitVec 20) -- MOVI (R91)
  | movh (d : BitVec 6) (i : BitVec 20) -- MOVH (R91)
  | ldk (d : BitVec 6) (n : BitVec 20) -- LDK (R92)
  | ldkx (d a : BitVec 6) (i : BitVec 14) -- LDKX (R92)
  | ldp (d : BitVec 6) (n : BitVec 9) -- LDP (R92)
  | b (c : Cond) (a : BitVec 6) (o : BitVec 16) -- B (R94)
  | j (o : BitVec 26) -- J (R94)
  | call (o : BitVec 26) -- CALL (R94)
  | jr (a : BitVec 6) -- JR (R94)
  | jalr (d a : BitVec 6) -- JALR (R94)
  | loop (a : BitVec 6) (o : BitVec 14) -- LOOP (R95)
  | loopi (c : BitVec 12) (o : BitVec 14) -- LOOPI (R95)
  | rds (d : BitVec 6) (n : Special) -- RDS (R93)
  | lrun (o : BitVec 26) -- LRUN (R100)
  | lrunr (a : BitVec 6) -- LRUNR (R100)
  | lwaitRelease (wg g : Nat) -- LWAIT_RELEASE (R102)
  | pushu (a : BitVec 6) -- PUSHU (R103)
  | popb (d : BitVec 6) -- POPB (R103)
  | queueDeadlock (wg g : Nat) -- QUEUE_DEADLOCK (R104)
  | skld (d a t : BitVec 6) (o : BitVec 8) -- SKLD (R106)
  | skst (d a t : BitVec 6) (o : BitVec 8) -- SKST (R106)
  | kswap (a t : BitVec 6) -- KSWAP (R107)
  | kswapComplete (wg g : Nat) -- KSWAP_COMPLETE (R107)
  | copy (d : BitVec 6) (tag : BitVec 8) -- COPY (R232)
  | gather (d : BitVec 6) (tag : BitVec 8) -- GATHER (R236)
  | bload (d : BitVec 6) -- BLOAD (R239)
  | cwait (a b : BitVec 6) (o : Order) (sc : Scope) -- CWAIT (R230)
  | cwaitWake (wg g : Nat) -- CWAIT_WAKE (R230)
  | fence (o : Order) (sc : Scope) -- FENCE (R269)
  | bar (id : BitVec 4) -- BAR (R271)
  | barDepart (wg g : Nat) -- BAR_DEPART (R271)
  | spawn (d a : BitVec 6) -- SPAWN (R336)
  | sleep (n : BitVec 20) -- SLEEP (R295)
  | sleepEnd (wg g : Nat) -- SLEEP_END (R295)
  | mark (n : BitVec 20) -- MARK (R295)
  | csrr (d : BitVec 6) (c : BitVec 12) -- CSRR (R293)
  | csrw (a : BitVec 6) (c : BitVec 12) -- CSRW (R293)
  | trap (n : BitVec 16) -- TRAP (R294)
  | lAdd (o : LOp) -- L_ADD (R113)
  | lSub (o : LOp) -- L_SUB (R113)
  | lMul (o : LOp) -- L_MUL (R113)
  | lMulh (o : LOp) -- L_MULH (R113)
  | mad (o : LOp) -- MAD (R113)
  | adds (o : LOp) -- ADDS (R113)
  | subs (o : LOp) -- SUBS (R113)
  | abs (o : LOp) -- ABS (R113)
  | neg (o : LOp) -- NEG (R113)
  | lMin (o : LOp) -- L_MIN (R113)
  | lMax (o : LOp) -- L_MAX (R113)
  | lAnd (o : LOp) -- L_AND (R113)
  | lOr (o : LOp) -- L_OR (R113)
  | lXor (o : LOp) -- L_XOR (R113)
  | not (o : LOp) -- NOT (R113)
  | lShl (o : LOp) -- L_SHL (R113)
  | lShr (o : LOp) -- L_SHR (R113)
  | lSar (o : LOp) -- L_SAR (R113)
  | lClz (o : LOp) -- L_CLZ (R113)
  | lPopc (o : LOp) -- L_POPC (R113)
  | lBrev (o : LOp) -- L_BREV (R113)
  | bfx (o : LOp) -- BFX (R113)
  | bfi (o : LOp) -- BFI (R113)
  | sel (o : LOp) -- SEL (R113)
  | cmp (o : LOp) -- CMP (R114)
  | mov (o : LOp) -- MOV (R113)
  | prm (o : LOp) -- PRM (R113)
  | dotb (o : LOp) -- DOTB (R115)
  | madw (o : LOp) -- MADW (R115)
  | fadd (o : LOp) -- FADD (R117)
  | fsub (o : LOp) -- FSUB (R117)
  | fmul (o : LOp) -- FMUL (R117)
  | fma (o : LOp) -- FMA (R117)
  | fnma (o : LOp) -- FNMA (R117)
  | fmin (o : LOp) -- FMIN (R118)
  | fmax (o : LOp) -- FMAX (R118)
  | fabs (o : LOp) -- FABS (R117)
  | fneg (o : LOp) -- FNEG (R117)
  | fcmp (o : LOp) -- FCMP (R118)
  | fcls (o : LOp) -- FCLS (R118)
  | frnd (o : LOp) -- FRND (R118)
  | fdiv (o : LOp) -- FDIV (R119)
  | fsqrt (o : LOp) -- FSQRT (R119)
  | rcp (o : LOp) -- RCP (R119)
  | rsq (o : LOp) -- RSQ (R119)
  | exp2 (o : LOp) -- EXP2 (R119)
  | log2 (o : LOp) -- LOG2 (R119)
  | sin (o : LOp) -- SIN (R119)
  | cos (o : LOp) -- COS (R119)
  | tanh (o : LOp) -- TANH (R119)
  | fscl (o : LOp) -- FSCL (R117)
  | fcvt (o : LOp) -- FCVT (R120)
  | icvt (o : LOp) -- ICVT (R120)
  | fcvti (o : LOp) -- FCVTI (R120)
  | qblk (o : LOp) -- QBLK (R121)
  | dqblk (o : LOp) -- DQBLK (R121)
  | pack (o : LOp) -- PACK (R122)
  | unpk (o : LOp) -- UNPK (R122)
  | shfl (o : LOp) -- SHFL (R146)
  | shfx (o : LOp) -- SHFX (R146)
  | bcst (o : LOp) -- BCST (R146)
  | ball (o : LOp) -- BALL (R147)
  | vote (o : LOp) -- VOTE (R148)
  | mbcnt (o : LOp) -- MBCNT (R149)
  | conf (o : LOp) -- CONF (R150)
  | red (o : LOp) -- RED (R151)
  | scan (o : LOp) -- SCAN (R151)
  | bra (o : LOp) -- BRA (R132)
  | jmp (o : LOp) -- JMP (R133)
  | joinAll (o : LOp) -- JOIN_ALL (R134)
  | joinAny (o : LOp) -- JOIN_ANY (R134)
  | lend (o : LOp) -- LEND (R136)
  | exitl (o : LOp) -- EXITL (R137)
  | yld (o : LOp) -- YLD (R138)
  | yldReturn (wg g e : Nat) -- YLD_RETURN (R138)
  | splitReload (wg g : Nat) -- SPLIT_RELOAD (R129)
  | movw (o : LOp) -- MOVW (R143)
  | pushb (o : LOp) -- PUSHB (R144)
  | setmd (o : LOp) -- SETMD (R123)
  | getmd (o : LOp) -- GETMD (R125)
  | rdfl (o : LOp) -- RDFL (R125)
  | clfl (o : LOp) -- CLFL (R125)
  | lds (o : LOp) -- LDS (R158)
  | sts (o : LOp) -- STS (R158)
  | ats (o : LOp) -- ATS (R159)
  | waitge (o : LOp) -- WAITGE (R160)
  | waitgeRecheck (wg g e : Nat) -- WAITGE_RECHECK (R160)
  | kfind (o : LOp) -- KFIND (R187)
  | kld (o : LOp) -- KLD (R188)
  | kst (o : LOp) -- KST (R189)
  | kins (o : LOp) -- KINS (R190)
  | kdel (o : LOp) -- KDEL (R191)
  | kseek (o : LOp) -- KSEEK (R193)
  | knext (o : LOp) -- KNEXT (R194)
  | kclose (o : LOp) -- KCLOSE (R195)
  | kat (o : LOp) -- KAT (R197)
  | scat (o : LOp) -- SCAT (R198)
  | reductionApply (red : Nat) -- REDUCTION_APPLY (R200)
  | abeg (o : LOp) -- ABEG (R214)
  | ald (o : LOp) -- ALD (R214)
  | ast (o : LOp) -- AST (R215)
  | acom (o : LOp) -- ACOM (R216)
  | commitResume (wg g e : Nat) -- COMMIT_RESUME (R223)
  | aabt (o : LOp) -- AABT (R220)
  | astat (o : LOp) -- ASTAT (R221)
  | mma (o : LOp) -- MMA (R254)
  | quarterOp (core k : Nat) -- QUARTER_OP (R255)
  | tileReady (core k : Nat) -- TILE_READY (R249)
  | mzero (o : LOp) -- MZERO (R257)
  | mdrn (o : LOp) -- MDRN (R259)
  | mrd (o : LOp) -- MRD (R258)
  | mwt (o : LOp) -- MWT (R260)
  | nop (o : LOp) -- NOP (R126)
  | fencel (o : LOp) -- FENCEL (R270)
  | trapl (o : LOp) -- TRAPL (R296)
  | markl (o : LOp) -- MARKL (R357)
  | blockStart (wg g : Nat) -- BLOCK_START (R101)
  | copyJobStart (job : Nat) -- COPY_JOB_START (R232)
  | copySector (job slice recv row sec : Nat) -- COPY_SECTOR (R233)
  | gatherElement (job i : Nat) -- GATHER_ELEMENT (R237)
  | bloadLine (job j : Nat) -- BLOAD_LINE (R240)
  | counterAdd (job slice recv n : Nat) -- COUNTER_ADD (R227)
  | jobComplete (job : Nat) -- JOB_COMPLETE (R225)
  | trapEntry (wg g : Nat) -- TRAP_ENTRY (R283)
  | timer (wg g : Nat) -- TIMER (R282)
  | timeLimit (launch : BitVec 32) -- TIME_LIMIT (R332)
  | bindStart (core : Nat) -- BIND_START (R335)
  | bindResume (core : Nat) -- BIND_RESUME (R335)
  | bindFill (core : Nat) -- BIND_FILL (R335)
  | bindSwap (core : Nat) -- BIND_SWAP (R335)
  | duskSwap (core : Nat) -- DUSK_SWAP (R307)
  | spillDrainDone (core : Nat) -- SPILL_DRAIN_DONE (R310)
  | spillFillDone (core : Nat) -- SPILL_FILL_DONE (R306)
  | childTaskStart (core : Nat) -- CHILD_TASK_START (R337)
  | workgroupComplete (wg : Nat) -- WORKGROUP_COMPLETE (R338)
  | contextCreate (m : Msg) -- CONTEXT_CREATE (R325)
  | contextEnd (m : Msg) -- CONTEXT_END (R325)
  | load (m : Msg) -- LOAD (R39)
  | unload (m : Msg) -- UNLOAD (R327)
  | levels (m : Msg) -- LEVELS (R38)
  | tableCreate (m : Msg) -- TABLE_CREATE (R164)
  | tableRetire (m : Msg) -- TABLE_RETIRE (R327)
  | rowsWrite (m : Msg) -- ROWS_WRITE (R327)
  | rowsRead (m : Msg) -- ROWS_READ (R327)
  | tableSwap (m : Msg) -- TABLE_SWAP (R107)
  | windowSet (m : Msg) -- WINDOW_SET (R343)
  | windowRevoke (m : Msg) -- WINDOW_REVOKE (R344)
  | launch (m : Msg) -- LAUNCH (R331)
  | wait (m : Msg) -- WAIT (R327)
  | debugGrantRight (m : Msg) -- DEBUG_GRANT_RIGHT (R327)
  | debugRevokeRight (m : Msg) -- DEBUG_REVOKE_RIGHT (R362)
  | debugWriteDbgctl (m : Msg) -- DEBUG_WRITE_DBGCTL (R292)
  | debugWriteBreakpoint (m : Msg) -- DEBUG_WRITE_BREAKPOINT (R360)
  | debugStopOrHold (m : Msg) -- DEBUG_STOP_OR_HOLD (R359)
  | debugStateAccess (m : Msg) -- DEBUG_STATE_ACCESS (R359)
  | debugTraceChannel (m : Msg) -- DEBUG_TRACE_CHANNEL (R354)
  | debugNoonTrigger (m : Msg) -- DEBUG_NOON_TRIGGER (R361)
  | attest (m : Msg) -- ATTEST (R351)
  | debugStop (wg g : Nat) -- DEBUG_STOP (R359)
  | splitHold (wg g e : Nat) -- SPLIT_HOLD (R359)
  | sync (die : Nat) -- SYNC (R355)
  | loss (die : Nat) -- LOSS (R355)
  | lbrk  -- LBRK (R98)
  | lwait  -- LWAIT (R102)
  | exit  -- EXIT (R338)
  | eret  -- ERET (R290)
  | halt  -- HALT (R294)
  | brk  -- BRK (R294)
  | yield  -- YIELD (R294)
  | serviceComplete (wg : Nat) (r : ServiceResult) -- SERVICE_COMPLETE (R303)
  | testLaunch (tenant : BitVec 64) (world : BitVec 16) (kernel : BitVec 32) -- TEST_LAUNCH (R33)
  | revocationNotice (notice : Nat) -- REVOCATION_NOTICE (R344)
  | boot  -- BOOT (R369)
  | undervoltagePowerDown  -- UNDERVOLTAGE_POWER_DOWN (R367)
  | firmwareImageReceive (image : List Byte) -- FIRMWARE_IMAGE_RECEIVE (R369)
  | thermalShutdown (die : Nat) -- THERMAL_SHUTDOWN (R368)
  | clockThrottle (lower : Bool) -- CLOCK_THROTTLE (R13)
  | stateUncorr (ctx : BitVec 32) -- STATE_UNCORR (R298)
  | tenantAdmission (tenant : BitVec 64) (record : List Byte) -- TENANT_ADMISSION (R345)
  | tenantRetirement (tenant : BitVec 64) -- TENANT_RETIREMENT (R325)
  | sessionOpen (session : Nat) (tenant : BitVec 64) -- SESSION_OPEN (R326)
  | grantAdmission (tenant : BitVec 64) (owner grantee : BitVec 16) (table : BitVec 32) -- GRANT_ADMISSION (R327)
  | noticeAcknowledgement (notice : Nat) -- NOTICE_ACKNOWLEDGEMENT (R344)
  | flitAck (link : Nat) (owner : BitVec 64) (counter : BitVec 64) -- FLIT_ACK (R348)
  | linkFailure (link : Nat) (windows : List Nat) -- LINK_FAILURE (R343)
  | slabMigration (m : Migration) -- SLAB_MIGRATION (R176)
  | zhenanFlitReceive (link : Nat) (f : Flit) -- ZHENAN_FLIT_RECEIVE (R348)
  | flitNak (link : Nat) (owner : BitVec 64) -- FLIT_NAK (R348)
  | linkRetrain (link : Nat) (peer : BitVec 32) -- LINK_RETRAIN (R348)
  | linkRekey (link : Nat) (owner : BitVec 64) -- LINK_REKEY (R348)
  | virtualLaneStop (link : Nat) (vl : BitVec 3) (on : Bool) -- VIRTUAL_LANE_STOP (R371)
  | secretDelivery (tenant : BitVec 64) (k : SecretKind) (wrapped : List Byte) -- SECRET_DELIVERY (R346)
  | periodAdvance (tenant : BitVec 64) -- PERIOD_ADVANCE (R345)
  | contextMigrate (ctx : BitVec 32) (handover : BitVec 32) -- CONTEXT_MIGRATE (R350)
  | migrationConfirm (ctx handover : BitVec 32) (here : Bool) -- MIGRATION_CONFIRM (R350)
  deriving DecidableEq, Repr

end Sys2Proof
end

