-- ==== Sys2Proof/Machine/Forms.lean ====
section
/-! DEFINITION. The codes of the fields and the fate of every L word: which TY, VAR, destination, source, guard, NW, AUX and
IMM32 each opcode accepts (R45 to R60 and the encoding tables of the class chapters), and the cause that a refused word
reports (R57). -/

namespace Sys2Proof.Machine

/-- The code of a cause (R297, R298). -/
def causeCode : Cause → BitVec 8
  | .zeroWord => 0x00
  | .onesWord => 0x01
  | .illegalS => 0x02
  | .illegalFn => 0x03
  | .illegalL => 0x04
  | .illegalForm => 0x05
  | .reservedBits => 0x06
  | .privileged => 0x07
  | .fetchFault => 0x08
  | .latchInvalid => 0x09
  | .constRange => 0x0A
  | .paramRange => 0x0B
  | .csrValue => 0x0C
  | .frameBad => 0x0D
  | .fpInvalid => 0x10
  | .fpDivzero => 0x11
  | .fpOverflow => 0x12
  | .fpUnderflow => 0x13
  | .fpInexact => 0x14
  | .intDivzero => 0x15
  | .modeValue => 0x16
  | .accBusy => 0x20
  | .accType => 0x21
  | .accRange => 0x22
  | .blineRange => 0x23
  | .mmaPair => 0x24
  | .blineWorld => 0x25
  | .loopOverflow => 0x30
  | .loopUnderflow => 0x31
  | .loopOpenRet => 0x32
  | .splitOverflow => 0x33
  | .queueDeadlock => 0x34
  | .lrunTarget => 0x35
  | .loopNest => 0x36
  | .joinMismatch => 0x37
  | .barMismatch => 0x38
  | .scrRange => 0x40
  | .scrAlign => 0x41
  | .noTable => 0x50
  | .notOwner => 0x51
  | .staleRid => 0x52
  | .dupKey => 0x53
  | .keyRange => 0x54
  | .colRange => 0x55
  | .atomAlign => 0x56
  | .cursorBad => 0x57
  | .cursorFull => 0x58
  | .tableFull => 0x59
  | .indexFull => 0x5A
  | .kindMismatch => 0x5B
  | .slotReadonly => 0x5C
  | .keyAbsent => 0x5D
  | .windowRevoked => 0x70
  | .aregNest => 0x80
  | .aregIllegal => 0x81
  | .aregNone => 0x82
  | .elemFault => 0x90
  | .copyDesc => 0x91
  | .gatherDesc => 0x92
  | .bloadDesc => 0x93
  | .counterAlign => 0x94
  | .copySlice => 0x95
  | .counterLoc => 0x96
  | .timer => 0xA0
  | .breakpoint => 0xA1
  | .sstep => 0xA2
  | .watch => 0xA3
  | .userTrap => 0xA4
  | .spawnDesc => 0xA5
  | .doubleTrap => 0xA6
  | .halted => 0xA7
  | .debugStop => 0xA8
  | .timeLimit => 0xA9
  | .killed => 0xAA
  | .eccUncorr => 0xB0
  | .linkAuth => 0xB1
  | .worldViolation => 0xB2
  | .rowAbsent => 0xB3
  | .dirAbsent => 0xB4
  | .windowRepair => 0xB5
  | .eccCorr => 0xB6
  | .ownerEnded => 0xB7
  | .stateUncorr => 0xB8
  | .linkRetrain => 0xB9

/-- Every defined cause, in code order (R298). -/
def allCauses : List Cause :=
  [.zeroWord, .onesWord, .illegalS, .illegalFn, .illegalL, .illegalForm, .reservedBits, .privileged, .fetchFault, .latchInvalid,
     .constRange, .paramRange, .csrValue, .frameBad, .fpInvalid, .fpDivzero, .fpOverflow, .fpUnderflow, .fpInexact, .intDivzero,
     .modeValue, .accBusy]
  ++ [.accType, .accRange, .blineRange, .mmaPair, .blineWorld, .loopOverflow, .loopUnderflow, .loopOpenRet, .splitOverflow,
     .queueDeadlock, .lrunTarget, .loopNest, .joinMismatch, .barMismatch, .scrRange, .scrAlign, .noTable, .notOwner, .staleRid, .dupKey,
     .keyRange, .colRange]
  ++ [.atomAlign, .cursorBad, .cursorFull, .tableFull, .indexFull, .kindMismatch, .slotReadonly, .keyAbsent, .windowRevoked,
     .aregNest, .aregIllegal, .aregNone, .elemFault, .copyDesc, .gatherDesc, .bloadDesc, .counterAlign, .copySlice, .counterLoc, .timer,
     .breakpoint, .sstep, .watch, .userTrap, .spawnDesc, .doubleTrap, .halted, .debugStop, .timeLimit, .killed, .eccUncorr, .linkAuth,
     .worldViolation, .rowAbsent, .dirAbsent, .windowRepair, .eccCorr, .ownerEnded, .stateUncorr, .linkRetrain]

/-- The cause of a code, if it is defined (R297). -/
def causeOfCode (n : BitVec 8) : Option Cause := allCauses.find? (fun c => causeCode c == n)

/-! ### Field codes -/

/-- R53: the TY code. -/
def tyCode : Ty → BitVec 4
  | .i8 => 0 | .i16 => 1 | .i32 => 2 | .i64 => 3 | .n8 => 4 | .n16 => 5 | .n32 => 6 | .n64 => 7
  | .f16 => 8 | .bf16 => 9 | .f32 => 10 | .f64 => 11 | .e4m3 => 12 | .e5m2 => 13 | .b64 => 14 | .none => 15

/-- R53: the type of a TY code; every code names one. -/
def tyOfCode (n : BitVec 4) : Ty :=
  match n.toNat with
  | 0 => .i8 | 1 => .i16 | 2 => .i32 | 3 => .i64 | 4 => .n8 | 5 => .n16 | 6 => .n32 | 7 => .n64
  | 8 => .f16 | 9 => .bf16 | 10 => .f32 | 11 => .f64 | 12 => .e4m3 | 13 => .e5m2 | 14 => .b64 | _ => .none

/-- R53: the width in bits of a type's sub-elements; 64 for the 64-bit pattern of TY 15 (R51). -/
def tyBits : Ty → Nat
  | .i8 | .n8 | .e4m3 | .e5m2 => 8
  | .i16 | .n16 | .f16 | .bf16 => 16
  | .i32 | .n32 | .f32 => 32
  | .i64 | .n64 | .f64 | .b64 | .none => 64

/-- R15: sub-elements of a type in one lane register. -/
def tyCount (t : Ty) : Nat := 64 / tyBits t

/-- The signed integer types (R64). -/
def tySigned : Ty → Bool
  | .i8 | .i16 | .i32 | .i64 => true
  | _ => false

/-- The integer types, I of R113. -/
def tyInt (t : Ty) : Bool := decide ((tyCode t).toNat ≤ 7)

/-- The float types of the lane float forms, f16, bf16, f32 and f64 (R117). -/
def tyFloat : Ty → Bool
  | .f16 | .bf16 | .f32 | .f64 => true
  | _ => false

/-- The float types of R120: those of R117, e4m3 and e5m2. -/
def tyFloat8 : Ty → Bool
  | .e4m3 | .e5m2 => true
  | t => tyFloat t

/-- A type that R51 treats as an integer source: I, b64, and the 64-bit pattern of TY 15. -/
def tyIntLike : Ty → Bool
  | .b64 | .none => true
  | t => tyInt t

/-- The unsigned integer type of a width (R146). -/
def nOfBits : Nat → Ty
  | 8 => .n8 | 16 => .n16 | 32 => .n32 | _ => .n64

/-- The signed integer type of a width (R117, `fscl`). -/
def iOfBits : Nat → Ty
  | 8 => .i8 | 16 => .i16 | 32 => .i32 | _ => .i64

/-- R45: order codes. -/
def orderCode : Order → BitVec 2
  | .rlx => 0 | .acq => 1 | .rel => 2 | .ar => 3

/-- R45: the order of a code. -/
def orderOfCode (n : BitVec 2) : Order :=
  match n.toNat with | 0 => .rlx | 1 => .acq | 2 => .rel | _ => .ar

/-- R19: scope codes. -/
def scopeCode : Scope → BitVec 3
  | .grp => 0 | .wg => 1 | .clu => 2 | .die => 3 | .mod => 4 | .dom => 5

/-- R19: the scope of a code; 6 and 7 name none. -/
def scopeOf (n : BitVec 3) : Option Scope :=
  match n.toNat with
  | 0 => some .grp | 1 => some .wg | 2 => some .clu | 3 => some .die | 4 => some .mod | 5 => some .dom | _ => none

/-- R94, R43: condition codes of `b`. -/
def condCode : Cond → BitVec 4
  | .al => 0 | .eqz => 1 | .nez => 2 | .ltz => 3 | .gez => 4 | .lez => 5 | .gtz => 6

/-- R43: the condition of a code; 7 to 15 name none. -/
def condOf (n : BitVec 4) : Option Cond :=
  match n.toNat with
  | 0 => some .al | 1 => some .eqz | 2 => some .nez | 3 => some .ltz | 4 => some .gez | 5 => some .lez | 6 => some .gtz
  | _ => none

/-- R93: special numbers. -/
def specialCode : Special → BitVec 4
  | .gid => 0 | .wgid => 1 | .ngroups => 2 | .lvl2 => 3 | .lvl3 => 4 | .lvl4 => 5 | .lvl5 => 6 | .lvl6 => 7 | .lvl7 => 8
  | .core => 9 | .die => 10 | .module => 11 | .clock => 12 | .gtime => 13 | .alive => 14 | .world => 15

/-- R93: the special of a number; all 16 name one. -/
def specialOf (n : BitVec 4) : Special :=
  match n.toNat with
  | 0 => .gid | 1 => .wgid | 2 => .ngroups | 3 => .lvl2 | 4 => .lvl3 | 5 => .lvl4 | 6 => .lvl5 | 7 => .lvl6 | 8 => .lvl7
  | 9 => .core | 10 => .die | 11 => .module | 12 => .clock | 13 => .gtime | 14 => .alive | _ => .world

/-- R50: the 10-bit code of a source. An inline byte of 0 has the code of IMM32, so it is not a source of its own. -/
def srcCode : Src → BitVec 10
  | .reg n => n.setWidth 10
  | .latch y => 0x100 + y.setWidth 10
  | .uqPop => 0x110 | .uqPeek => 0x111
  | .lane => 0x120 | .gid => 0x121 | .wgid => 0x122 | .mask => 0x123 | .split => 0x124
  | .w n => 0x140 + n.setWidth 10
  | .imm => 0x200
  | .byte n => 0x200 + n.setWidth 10
  | .const k => 0x300 + k.setWidth 10

/-- R50: the source of a code, or none where the code is not listed. -/
def srcOf (c : BitVec 10) : Option Src :=
  let n := c.toNat
  if n < 0x100 then some (.reg (c.setWidth 8))
  else if n < 0x104 then some (.latch (c.setWidth 2))
  else if n = 0x110 then some .uqPop
  else if n = 0x111 then some .uqPeek
  else if n = 0x120 then some .lane
  else if n = 0x121 then some .gid
  else if n = 0x122 then some .wgid
  else if n = 0x123 then some .mask
  else if n = 0x124 then some .split
  else if 0x140 ≤ n ∧ n < 0x160 then some (.w (c.setWidth 5))
  else if n = 0x200 then some .imm
  else if 0x201 ≤ n ∧ n < 0x300 then some (.byte (c.setWidth 8))
  else if 0x300 ≤ n ∧ n < 0x310 then some (.const (c.setWidth 4))
  else none

/-- The fields of an L word as they stand in its bits (R47). -/
structure LRaw where
  op  : BitVec 8
  ty  : BitVec 4
  var : BitVec 4
  vd  : BitVec 8
  nw  : Bool
  pn  : Bool
  pg  : BitVec 3
  a   : BitVec 10
  b   : BitVec 10
  c   : BitVec 10
  aux : BitVec 5
  imm : BitVec 32
  deriving DecidableEq, Repr

/-- R47: an L word taken apart. -/
def rawOfWord (w : LWord) : LRaw where
  op  := w.extractLsb' 88 8
  ty  := w.extractLsb' 84 4
  var := w.extractLsb' 80 4
  vd  := w.extractLsb' 72 8
  nw  := w.getLsbD 71
  pn  := w.getLsbD 70
  pg  := w.extractLsb' 67 3
  a   := w.extractLsb' 57 10
  b   := w.extractLsb' 47 10
  c   := w.extractLsb' 37 10
  aux := w.extractLsb' 32 5
  imm := w.extractLsb' 0 32

/-- R47: an L word put together. -/
def wordOfRaw (r : LRaw) : LWord :=
  r.op ++ r.ty ++ r.var ++ r.vd ++ BitVec.ofBool r.nw ++ BitVec.ofBool r.pn ++ r.pg ++ r.a ++ r.b ++ r.c ++ r.aux ++ r.imm

/-- The raw fields of an opcode and its operand record. -/
def rawOfOp (op : BitVec 8) (o : LOp) : LRaw where
  op := op
  ty := tyCode o.ty
  var := o.var
  vd := o.vd
  nw := o.nw
  pn := o.pn
  pg := o.pg
  a := srcCode o.a
  b := srcCode o.b
  c := srcCode o.c
  aux := o.aux
  imm := o.imm

/-! ### What each opcode accepts -/

/-- R48: how VD is read; a lane destination with its number of registers. -/
inductive DstKind where
  | lane (n : Nat) | pred | unif | none
  deriving DecidableEq, Repr

/-- What a source field may name: nothing (0x000), any source of R50 read as a type, lane registers upward, any source but
IMM32, or a lane register or the zero code. -/
inductive SrcRule where
  | unused | any (t : Ty) | lane (n : Nat) | noImm (t : Ty) | laneOrZero
  deriving DecidableEq, Repr

/-- What an opcode accepts, given the word's own TY, VAR and AUX. -/
structure Form where
  /-- TY and VAR are listed for the opcode (R53). -/
  tyVar : Bool
  dst : DstKind := .lane 1
  guardOk : Bool := true
  /-- R59: the opcode may suppress its write-back. -/
  nwOk : Bool := true
  a : SrcRule := .unused
  b : SrcRule := .unused
  c : SrcRule := .unused
  /-- Some other value that the entry refuses with ILLEGAL_FORM. -/
  bad : Bool := false
  /-- AUX bits that must be zero (R55). -/
  auxRes : BitVec 5 := 31
  /-- The word uses IMM32 itself. -/
  immUsed : Bool := false
  /-- IMM32 bits that must be zero although the word uses IMM32. -/
  immRes : BitVec 32 := 0
  deriving DecidableEq, Repr

/-- R45: an AUX field that carries an order and a scope names a scope. -/
def auxScopeBad (aux : BitVec 5) : Bool := (scopeOf (aux.extractLsb' 2 3)).isNone

/-- The integer or b64 forms of R113 with a one-register result. -/
def fInt (ok : Bool) (n : Nat) (t : Ty) (r : LRaw) : Form :=
  { tyVar := ok && r.var == 0,
    a := .any t, b := if 2 ≤ n then .any t else .unused, c := if 3 ≤ n then .any t else .unused }

/-- The float forms of R117 to R119. -/
def fFlt (n : Nat) (t : Ty) (vars : Nat) (r : LRaw) : Form :=
  { tyVar := tyFloat t && decide (r.var.toNat < vars),
    a := .any t, b := if 2 ≤ n then .any t else .unused, c := if 3 ≤ n then .any t else .unused }

/-- R120: the selector k is a multiple of n = min(ns, nd) below ns. -/
def cvtSelBad (td ts : Ty) (k : Nat) : Bool :=
  let n := min (tyCount ts) (tyCount td)
  !(k % n == 0 && decide (k < tyCount ts))

/-- The conversion forms of R120. -/
def fCvt (ok : Bool) (td ts : Ty) (r : LRaw) : Form :=
  { tyVar := ok, a := .any ts, auxRes := 0x18, bad := cvtSelBad td ts (r.aux.extractLsb' 0 3).toNat }

/-- A word with no type, no variant and no sources unless given. -/
def fNone (r : LRaw) : Form :=
  { tyVar := r.ty == 15 && r.var == 0, dst := .none, nwOk := false }

/-- R158: bytes per lane register of a scratchpad or table access of one register. -/
def wideTy : Ty → Bool
  | .i64 | .n64 | .b64 => true
  | _ => false

/-- R188: the types of the multi-register table forms. -/
def wideTabTy : Ty → Bool
  | .i64 | .n64 | .f64 | .b64 => true
  | _ => false

/-- R159: the kinds of an atomic and the types each takes. -/
def atomTyOk (var : Nat) (t : Ty) : Bool :=
  let i := t == .i32 || t == .i64 || t == .n32 || t == .n64
  if var ≤ 3 then i
  else if var ≤ 7 then i || t == .b64
  else if var = 8 then t == .i64 || t == .n64 || t == .b64
  else if var = 9 then t == .b64
  else if var = 10 then t == .f32 || t == .f64
  else false

/-- R198: the kinds of `scat` and the types each takes. -/
def scatTyOk (var : Nat) (t : Ty) : Bool :=
  let i := t == .i32 || t == .i64 || t == .n32 || t == .n64
  if var = 0 then t == .f32 || t == .f64
  else if var = 1 then i
  else if var ≤ 3 then i || t == .f32
  else if var = 4 then t == .f32
  else false

/-- R151: the kinds of `red` and `scan` and the types each takes. -/
def redTyOk (var : Nat) (t : Ty) : Bool :=
  if var ≤ 2 then tyInt t || tyFloat t
  else if var ≤ 5 then tyInt t || t == .b64
  else false

/-- R213: the types of `ald` and `ast`. -/
def areaTyOk (t : Ty) : Bool := tyInt t || t == .b64

/-- R250: an SX format code. -/
def isSx (n : BitVec 4) : Bool := decide (7 ≤ n.toNat) && decide (n.toNat ≤ 11)

/-- R250: the pair is one of the SX pairs. -/
def sxPair (a b : BitVec 4) : Bool := (a == 7 || a == 9) && isSx b

/-- R181: the reserved bits of the table fields of IMM32. -/
def tabRes : BitVec 32 := 0xFF800000

/-- R159: srcC of an atomic whose kind (VAR) takes no c must be 0x000. -/
def atomCBad (r : LRaw) : Bool := r.var != 8 && r.var != 9 && r.c != 0

/-- R45, R159, R197: the source rules of an atomic's b and c, and its destination. -/
def fAtom (t : Ty) (r : LRaw) : Form :=
  let v := r.var.toNat
  { tyVar := atomTyOk v t,
    dst := if v = 9 then .lane 2 else .lane 1,
    nwOk := false,
    b := if v = 9 then .lane 2 else .any t,
    c := if v = 8 then .any t else if v = 9 then .lane 2 else .unused,
    auxRes := 0, immUsed := true }

/-- R181, R190, R191: AUX of `kins` and `kdel` holds the predicate form in bit 3 and pd in bits 2:0: a pd of 7 in the predicate
form, or another than 0 outside it, is no value that the entry lists. Bit 4 is reserved. -/
def auxPredBad (aux : BitVec 5) : Bool := if aux.getLsbD 3 then aux.extractLsb' 0 3 == 7 else aux.extractLsb' 0 3 != 0

/-- What an opcode accepts (R54 and the class chapters), or none where the opcode is unassigned. An IMM32 source of a table `ALD` or
`AST`, or of an `AST` beside its displacement, is the same word's literal: DESIGN CHOICE (entry 12). -/
def formOf (r : LRaw) : Option Form :=
  let t := tyOfCode r.ty
  let v := r.var.toNat
  let vt := tyOfCode r.var
  let i := tyInt t
  let ib := i || t == .b64
  match r.op.toNat with
  | 0x01 | 0x02 | 0x03 | 0x04 => some (fInt i 2 t r)
  | 0x05 => some (fInt i 3 t r)
  | 0x06 | 0x07 => some (fInt i 2 t r)
  | 0x08 => some (fInt (tySigned t) 1 t r)
  | 0x09 => some (fInt i 1 t r)
  | 0x0A | 0x0B => some (fInt i 2 t r)
  | 0x0C | 0x0D | 0x0E => some (fInt ib 2 t r)
  | 0x0F => some (fInt ib 1 t r)
  | 0x10 | 0x11 | 0x12 => some (fInt i 2 t r)
  | 0x13 | 0x14 | 0x15 => some (fInt i 1 t r)
  | 0x16 => some (fInt (i && decide (32 ≤ tyBits t)) 2 t r)
  | 0x17 => some (fInt (i && decide (32 ≤ tyBits t)) 3 t r)
  | 0x18 => some { fInt ib 2 t r with auxRes := 0x18 }
  | 0x19 => some { tyVar := (i && decide (v ≤ 5)) || (t == .b64 && decide (v ≤ 1)), dst := .pred, nwOk := false,
                   a := .any t, b := .any t }
  | 0x1A => some (fInt ib 1 t r)
  | 0x1B => some { fInt (t == .b64) 2 t r with immUsed := true }
  | 0x1C => some { tyVar := t == .i32 && (v == 0 || v == 4), a := .any vt, b := .any vt, c := .any .i32 }
  | 0x1D => some { tyVar := i && tyInt vt && (tySigned t == tySigned vt) && decide (tyBits t = 2 * tyBits vt),
                   a := .any vt, b := .any vt, c := .any t }
  | 0x20 | 0x21 | 0x22 => some (fFlt 2 t 1 r)
  | 0x23 | 0x24 => some (fFlt 3 t 1 r)
  | 0x25 | 0x26 => some (fFlt 2 t 2 r)
  | 0x27 | 0x28 => some (fFlt 1 t 1 r)
  | 0x29 => some { fFlt 2 t 8 r with dst := .pred, nwOk := false }
  | 0x2A => some (fFlt 1 t 1 r)
  | 0x2B => some (fFlt 1 t 6 r)
  | 0x2C => some (fFlt 2 t 1 r)
  | 0x2D | 0x2E | 0x2F | 0x30 | 0x31 | 0x32 | 0x33 | 0x34 => some (fFlt 1 t 1 r)
  | 0x35 => some { fFlt 1 t 1 r with b := .any (iOfBits (tyBits t)) }
  | 0x36 => some (fCvt (tyFloat8 t && tyFloat8 vt && t != vt) t vt r)
  | 0x37 => some (fCvt (tyFloat t && tyInt vt) t vt r)
  | 0x38 => some (fCvt (i && tyFloat vt) t vt r)
  | 0x40 | 0x41 => some { tyVar := (t == .f16 || t == .bf16) && isSx r.var, a := .lane 1 }
  | 0x42 => some (fInt (i && decide (tyBits t ≤ 32)) 2 t r)
  | 0x43 => some { fInt (i && decide (tyBits t ≤ 32)) 1 t r with auxRes := 0x1E }
  | 0x48 | 0x49 | 0x4A => some { tyVar := t != .none && v == 0, a := .lane 1, b := .any (nOfBits (tyBits t)) }
  | 0x4B => some { fNone r with dst := .unif, auxRes := 0x18 }
  | 0x4C => some { tyVar := t == .none && decide (v ≤ 2), dst := .pred, nwOk := false,
                   a := if v = 2 then .any .b64 else .unused, auxRes := if v = 2 then 31 else 0x18 }
  | 0x4D => some (fInt (t == .n32 || t == .n64) 1 t r)
  | 0x4E => some (fInt (t == .i32 || t == .n32 || t == .i64 || t == .n64 || t == .b64) 1 t r)
  | 0x4F => some { tyVar := redTyOk v t, a := .any t }
  | 0x50 => some { tyVar := redTyOk v t, a := .any t, auxRes := 0x1E }
  | 0x58 => some { fNone r with immUsed := true }
  | 0x59 => some { fNone r with guardOk := false, immUsed := true }
  | 0x5A => some { fNone r with tyVar := t == .none && decide (v ≤ 1), guardOk := false }
  | 0x5B => some { fNone r with guardOk := false }
  | 0x5C => some (fNone r)
  | 0x5D => some { fNone r with guardOk := false }
  | 0x60 => some { fNone r with dst := .unif, a := .any .b64 }
  | 0x61 => some { fNone r with a := .any .b64 }
  | 0x68 => some { fNone r with a := .any .n16, b := .any .n16 }
  | 0x69 | 0x6A => some { fNone r with dst := .lane 1, nwOk := true }
  | 0x6B => some { fNone r with a := .any .b64 }
  | 0x70 => some { tyVar := ib && (v == 0 || (wideTy t && decide (v ≤ 3))), dst := .lane (v + 1), nwOk := false,
                   a := .lane 1, immUsed := true }
  | 0x71 => some { tyVar := ib && (v == 0 || (wideTy t && decide (v ≤ 3))), dst := .none, nwOk := false,
                   a := .lane 1, b := if v = 0 then .any t else .lane (v + 1), immUsed := true }
  | 0x72 => some { fAtom t r with
                   a := .lane 1
                   bad := atomCBad r || auxScopeBad r.aux || decide (1 < (r.aux.extractLsb' 2 3).toNat) }
  | 0x73 => some { tyVar := (t == .i32 || t == .i64 || t == .n32 || t == .n64) && v == 0, nwOk := false,
                   a := .lane 1, b := .any t, auxRes := 0, immUsed := true,
                   bad := r.c != 0 || decide (1 < (r.aux.extractLsb' 0 2).toNat) || decide (1 < (r.aux.extractLsb' 2 3).toNat) }
  | 0x80 => some { fNone r with
                   dst := .lane 1, a := .noImm .n64, auxRes := 0x18, immUsed := true,
                   immRes := tabRes ||| 0xFFFF, bad := r.imm.getLsbD 22 || r.aux.extractLsb' 0 3 == 7 }
  | 0x81 => some { tyVar := if v = 0 then t != .none else if v ≤ 3 then wideTabTy t else v == 4 && t == .f32,
                   dst := .lane (if v ≤ 3 then v + 1 else 1), nwOk := false, a := .noImm .n64, immUsed := true,
                   immRes := tabRes, bad := r.aux != 0 }
  | 0x82 => some { tyVar := if v = 0 then t != .none else decide (v ≤ 3) && wideTabTy t, dst := .none, nwOk := false,
                   a := .noImm .n64, b := if v = 0 then .noImm t else .lane (v + 1), immUsed := true, immRes := tabRes,
                   bad := r.aux != 0 }
  | 0x83 => some { tyVar := if v = 0 then true else decide (v ≤ 3) && wideTabTy t, nwOk := false, a := .noImm .n64,
                   b := if t == .none then .unused else if v = 0 then .noImm t else .lane (v + 1), immUsed := true,
                   immRes := tabRes ||| 0x400000 ||| (if t == .none then 0xFFFF else 0),
                   auxRes := 0x10, bad := auxPredBad r.aux }
  | 0x84 => some { fNone r with
                   a := .noImm .n64, immUsed := true, immRes := tabRes ||| 0xFFFF,
                   auxRes := 0x10, bad := auxPredBad r.aux }
  | 0x85 => some { fNone r with
                   a := .noImm .n64, b := .noImm .n64, immUsed := true,
                   immRes := tabRes ||| 0x40FFFF, auxRes := 0x1C }
  | 0x86 => some { tyVar := t == .none && decide (v ≤ 1), dst := .lane (v + 1), nwOk := false, auxRes := 0,
                   bad := r.aux.extractLsb' 2 3 == 7 }
  | 0x87 => some { fNone r with auxRes := 0x1C }
  | 0x88 => some (if v = 11 then
                    { tyVar := t == .f32, dst := .none, nwOk := false, a := .noImm .n64, b := .noImm .f32, auxRes := 0,
                      immUsed := true, immRes := tabRes, bad := auxScopeBad r.aux }
                  else { fAtom t r with
                         a := .noImm .n64, b := if v = 9 then .lane 2 else .noImm t,
                         c := if v = 8 then .noImm t else if v = 9 then .lane 2 else .unused,
                         immRes := tabRes, bad := atomCBad r || auxScopeBad r.aux })
  | 0x89 => some { tyVar := scatTyOk v t, dst := .none, nwOk := false, a := .noImm .n64, b := .noImm t, c := .noImm .n64,
                   immUsed := true, immRes := tabRes, bad := r.aux != 0 }
  | 0xA0 => some { fNone r with guardOk := false, immUsed := true, bad := r.c != 0 }
  | 0xA1 => some { tyVar := areaTyOk t && decide (v ≤ 1), nwOk := false, a := if v = 0 then .any .n64 else .lane 1,
                   immUsed := true, immRes := if v = 0 then tabRes else 0, bad := r.c != 0 }
  | 0xA2 => some { tyVar := areaTyOk t && decide (v ≤ 1), dst := .none, nwOk := false,
                   a := if v = 0 then .any .n64 else .lane 1, b := .any t,
                   immUsed := true, immRes := if v = 0 then tabRes else 0, bad := r.c != 0 }
  | 0xA3 => some { fNone r with guardOk := false, bad := r.c != 0 }
  | 0xA4 => some { fNone r with bad := r.c != 0 }
  | 0xA5 => some { fNone r with dst := .lane 1, bad := r.c != 0 }
  | 0xB0 => some { tyVar := decide (r.ty.toNat ≤ 11) && decide (v ≤ 11), dst := .none, nwOk := false, a := .lane 1,
                   b := .noImm .n64, c := if sxPair r.ty r.var then .lane 1 else .unused,
                   auxRes := if sxPair r.ty r.var then 0x10 else 0x17, immUsed := true, immRes := 0x80 }
  | 0xB1 => some { fNone r with immUsed := true, immRes := 0xFFFFFF80 }
  | 0xB2 => some { tyVar := (t == .bf16 || t == .f16 || t == .f32 || t == .e4m3) && v == 0, dst := .none, nwOk := false,
                   a := .lane 1, b := .noImm .f32, c := .laneOrZero, immUsed := true, immRes := 0x80 }
  | 0xB3 => some { tyVar := (t == .f32 || t == .i32) && v == 0, nwOk := false, a := .noImm .n64, immUsed := true,
                   immRes := 0xFFFFFF80 }
  | 0xB4 => some { fNone r with guardOk := false }
  | 0xC0 => some (fNone r)
  | 0xC1 => some { fNone r with
                   guardOk := false, auxRes := 0,
                   bad := r.aux.extractLsb' 0 2 == 0 || auxScopeBad r.aux }
  | 0xC2 => some { fNone r with immUsed := true, immRes := 0xFFFF0000 }
  | 0xC3 => some { fNone r with immUsed := true, immRes := 0xFFF00000 }
  | _ => none

/-- R48, R50 to R52: a source code that its rule refuses with ILLEGAL_FORM. An unused field is not a source (R55). -/
def srcIll (lregs : Nat) (rule : SrcRule) (code : BitVec 10) : Bool :=
  let lit (t : Ty) : Bool :=
    match srcOf code with
    | none => true
    | some (.reg n) => decide (lregs ≤ n.toNat)
    | some (.const k) => (tyIntLike t && k != 0) || (t == .e4m3 && k == 14)
    | some _ => false
  match rule with
  | .unused => false
  | .any t => lit t
  | .noImm t => lit t || code == 0x200
  | .lane n =>
    match srcOf code with
    | some (.reg k) => decide (lregs < k.toNat + n)
    | _ => true
  | .laneOrZero =>
    match srcOf code with
    | some (.reg k) => decide (lregs ≤ k.toNat)
    | some (.const k) => k != 0
    | _ => true

/-- A field is used as a source and carries the code. -/
def srcIs (rule : SrcRule) (code want : BitVec 10) : Bool := rule != .unused && code == want

/-- The source fields that name uq (pop). -/
def popCount (f : Form) (r : LRaw) : Nat :=
  (if srcIs f.a r.a 0x110 then 1 else 0) + (if srcIs f.b r.b 0x110 then 1 else 0) + (if srcIs f.c r.c 0x110 then 1 else 0)

/-- A literal source of the word uses IMM32 (R27, R55). -/
def immSource (f : Form) (r : LRaw) : Bool :=
  srcIs f.a r.a 0x200 || srcIs f.b r.b 0x200 || srcIs f.c r.c 0x200

/-- The word is refused with ILLEGAL_FORM (R45, R48 to R53, R59 and the class entries). -/
def lIllForm (lregs : Nat) (f : Form) (r : LRaw) : Bool :=
  !f.tyVar || f.bad
  || (r.pg == 7 && r.pn) || (!f.guardOk && !(r.pg == 7 && !r.pn))
  || (r.nw && (!f.nwOk || popCount f r != 0))
  || srcIll lregs f.a r.a || srcIll lregs f.b r.b || srcIll lregs f.c r.c
  || decide (1 < popCount f r)
  || (match f.dst with
      | .lane n => !r.nw && decide (lregs < r.vd.toNat + n)
      | .pred => r.vd.extractLsb' 0 3 == 7
      | _ => false)

/-- The word is refused with RESERVED_BITS (R48, R55). -/
def lResBits (f : Form) (r : LRaw) : Bool :=
  (match f.dst with
   | .lane _ => r.nw && r.vd != 0
   | .pred => r.vd.extractLsb' 3 5 != 0
   | .unif => r.vd.extractLsb' 5 3 != 0
   | .none => r.vd != 0)
  || (f.a == .unused && r.a != 0) || (f.b == .unused && r.b != 0) || (f.c == .unused && r.c != 0)
  || (r.aux &&& f.auxRes) != 0
  || (if f.immUsed then (r.imm &&& f.immRes) != 0 else !immSource f r && r.imm != 0)

/-- The word fault of an L word of an assigned opcode, R57 classes 5 and 6; none where it has none. -/
def lFault (lregs : Nat) (r : LRaw) : Option Cause :=
  match formOf r with
  | none => some .illegalL
  | some f =>
    if lIllForm lregs f r then some .illegalForm
    else if lResBits f r then some .reservedBits
    else none

/-- R291: the CSR numbers that exist. -/
def csrKnown (n : BitVec 12) : Bool :=
  decide (n.toNat ≤ 5) || (decide (8 ≤ n.toNat) && decide (n.toNat ≤ 0xB))
  || (decide (0x400 ≤ n.toNat) && decide (n.toNat ≤ 0x53C))

end Sys2Proof.Machine
end

