-- ==== Sys2Proof/Machine/Numbers.lean ====
section
/-! DEFINITION. Number formats and rounding (R64 to R74): formats, exact values, the one rounding function, and the sticky
flags it raises. -/

namespace Sys2Proof.Machine

/-! ### Formats -/

/-- R65: a floating-point format: exponent bits, fraction bits and bias; e4m3 has no infinity. -/
structure Fmt where
  ebits : Nat
  fbits : Nat
  bias  : Nat
  noInf : Bool
  deriving DecidableEq, Repr

/-- R65: the format of a type; only float types are asked for. -/
def fmtOf : Ty → Fmt
  | .f64 => { ebits := 11, fbits := 52, bias := 1023, noInf := false }
  | .f16 => { ebits := 5, fbits := 10, bias := 15, noInf := false }
  | .bf16 => { ebits := 8, fbits := 7, bias := 127, noInf := false }
  | .e4m3 => { ebits := 4, fbits := 3, bias := 7, noInf := true }
  | .e5m2 => { ebits := 5, fbits := 2, bias := 15, noInf := false }
  | _ => { ebits := 8, fbits := 23, bias := 127, noInf := false }

/-- Bits of a format. -/
def Fmt.bits (f : Fmt) : Nat := 1 + f.ebits + f.fbits

/-- R67: the canonical NaN. -/
def Fmt.nan (f : Fmt) : Nat := if f.noInf then 0x7F else (2 ^ f.ebits - 1) * 2 ^ f.fbits + 2 ^ (f.fbits - 1)

/-- A sign bit in its place. -/
def Fmt.signed (f : Fmt) (neg : Bool) (mag : Nat) : Nat := (if neg then 2 ^ (f.ebits + f.fbits) else 0) + mag

/-- R65: the largest finite magnitude. -/
def Fmt.maxMag (f : Fmt) : Nat := if f.noInf then 0x7E else (2 ^ f.ebits - 1) * 2 ^ f.fbits - 1

/-- R66: infinity. -/
def Fmt.inf (f : Fmt) (neg : Bool) : Nat := f.signed neg ((2 ^ f.ebits - 1) * 2 ^ f.fbits)

/-- The exponent of the least normal value. -/
def Fmt.emin (f : Fmt) : Int := 1 - f.bias

/-- The exponent of the largest finite value. -/
def Fmt.emax (f : Fmt) : Int := if f.noInf then 8 else f.bias

/-! ### Values -/

/-- An exact real number: sign, and m × 2^e; where `sticky` holds, the magnitude lies strictly between m × 2^e and
(m + 1) × 2^e. -/
structure Ex where
  neg    : Bool
  m      : Nat
  e      : Int
  sticky : Bool := false
  deriving DecidableEq, Repr

/-- What a pattern of a float type means (R66). -/
inductive FVal where
  | fin (x : Ex)
  | inf (neg : Bool)
  | nan (signalling : Bool)
  deriving DecidableEq, Repr

/-- R66: the value of a pattern. -/
def readF (f : Fmt) (v : Nat) : FVal :=
  let frac := v % 2 ^ f.fbits
  let ex := v / 2 ^ f.fbits % 2 ^ f.ebits
  let neg := v / 2 ^ (f.ebits + f.fbits) % 2 == 1
  if f.noInf && v % 128 == 0x7F then .nan false
  else if !f.noInf && ex == 2 ^ f.ebits - 1 then
    if frac = 0 then .inf neg else .nan (decide (frac < 2 ^ (f.fbits - 1)))
  else if ex = 0 then .fin { neg := neg, m := frac, e := f.emin - f.fbits }
  else .fin { neg := neg, m := 2 ^ f.fbits + frac, e := (ex : Int) - f.bias - f.fbits }

/-- An integer as an exact value. -/
def exOfInt (n : Int) : Ex := { neg := decide (n < 0), m := n.natAbs, e := 0 }

/-- m × 2^k as an integer, for k of either sign; the bits below the point go. -/
def shiftBy (m : Nat) (k : Int) : Nat := if 0 ≤ k then m * 2 ^ k.toNat else m / 2 ^ (-k).toNat

/-- The signed significand at a common exponent below both. -/
def Ex.at (x : Ex) (e : Int) : Int := if x.neg then -((shiftBy x.m (x.e - e) : Nat) : Int) else (shiftBy x.m (x.e - e) : Nat)

/-- The exact sum of two exact values that are not sticky; where it is zero, `zneg` gives its sign. -/
def Ex.add (x y : Ex) (zneg : Bool) : Ex :=
  if x.m = 0 then (if y.m = 0 then { x with neg := if x.neg == y.neg then x.neg else zneg } else y)
  else if y.m = 0 then x
  else
    let e := min x.e y.e
    let n := x.at e + y.at e
    if n = 0 then { neg := zneg, m := 0, e := 0 } else { neg := decide (n < 0), m := n.natAbs, e := e }

/-- The exact product. -/
def Ex.mul (x y : Ex) : Ex := { neg := x.neg != y.neg, m := x.m * y.m, e := x.e + y.e }

/-- x < y for exact values that are not sticky; zeros are equal. -/
def Ex.lt (x y : Ex) : Bool :=
  let e := min x.e y.e
  decide (x.at e < y.at e)

/-- A quotient to 160 bits and a sticky mark. -/
def Ex.div (x y : Ex) : Ex :=
  let k := 160 + y.m.log2
  let n := x.m * 2 ^ k
  { neg := x.neg != y.neg, m := n / y.m, e := x.e - y.e - k, sticky := n % y.m != 0 }

/-- The integer square root, bit by bit: `b` counts the bits still to try. -/
def isqrt (n : Nat) : Nat → Nat → Nat
  | 0, r => r
  | b + 1, r => if (r + 2 ^ b) * (r + 2 ^ b) ≤ n then isqrt n b (r + 2 ^ b) else isqrt n b r

/-- A square root to at least 160 bits and a sticky mark. -/
def Ex.sqrt (x : Ex) : Ex :=
  let k : Nat := if x.e % 2 = 0 then 320 else 321
  let n := x.m * 2 ^ k
  let r := isqrt n (n.log2 / 2 + 1) 0
  { neg := false, m := r, e := (x.e - k) / 2, sticky := r * r != n }

/-! ### Rounding -/

/-- R69: the rounding modes. -/
inductive Rnd where
  | rne | rtz | rup | rdn | rna
  deriving DecidableEq, Repr

/-- R69: the rounding mode of a code below 5. -/
def rndOf (n : Nat) : Rnd :=
  match n with | 1 => .rtz | 2 => .rup | 3 => .rdn | 4 => .rna | _ => .rne

/-- R68: the fields of MD that arithmetic reads. -/
structure FMode where
  rnd    : Rnd
  fluIn  : Bool
  fluRes : Bool
  sat8   : Bool
  deriving DecidableEq, Repr

/-- R68: the fields of a value of MD. -/
def modeOf (md : BitVec 16) : FMode where
  rnd := rndOf (md.extractLsb' 0 3).toNat
  fluIn := md.getLsbD 3
  fluRes := md.getLsbD 4
  sat8 := md.getLsbD 10

/-- R74: the mode of the operations that ignore MD. -/
def modePlain : FMode := { rnd := .rne, fluIn := false, fluRes := false, sat8 := false }

/-- R72: the flags. -/
def flagNV : BitVec 5 := 1
def flagDZ : BitVec 5 := 2
def flagOF : BitVec 5 := 4
def flagUF : BitVec 5 := 8
def flagNX : BitVec 5 := 16

/-- R69: the magnitude grows by one unit: the unit's parity, the rest against half a unit, and whether there is a rest. -/
def bumps (r : Rnd) (neg odd : Bool) (half : Ordering) (rest : Bool) : Bool :=
  match r with
  | .rtz => false
  | .rup => rest && !neg
  | .rdn => rest && neg
  | .rna => half != .lt
  | .rne => half == .gt || (half == .eq && odd)

/-- R69: the magnitude of an exact value in units of 2^g, rounded, and whether that is inexact. A sticky value needs
g above its own exponent. -/
def roundAt (r : Rnd) (x : Ex) (g : Int) : Nat × Bool :=
  if g ≤ x.e then (x.m * 2 ^ (x.e - g).toNat, x.sticky)
  else
    let k := min (g - x.e).toNat (x.m.log2 + 2)
    let q := x.m / 2 ^ k
    let rest := x.m % 2 ^ k
    let h := 2 ^ (k - 1)
    let half : Ordering := if rest < h then .lt else if rest = h && !x.sticky then .eq else .gt
    let inexact := rest != 0 || x.sticky
    (if bumps r x.neg (q % 2 == 1) half inexact then q + 1 else q, inexact)

/-- R69, R70: an overflowed result. -/
def overflowF (f : Fmt) (md : FMode) (neg : Bool) : Nat :=
  let toInf := match md.rnd with
    | .rne | .rna => true
    | .rtz => false
    | .rup => !neg
    | .rdn => neg
  if toInf then (if f.noInf then (if md.sat8 then f.signed neg f.maxMag else f.nan) else f.inf neg)
  else f.signed neg f.maxMag

/-- R69 to R72: rnd(x) into a format: the pattern and the flags. -/
def roundF (f : Fmt) (md : FMode) (x : Ex) : Nat × BitVec 5 :=
  if x.m = 0 then (f.signed x.neg 0, 0)
  else
    let top : Int := x.m.log2 + x.e
    let g := top - f.fbits
    let q := roundAt md.rnd x g
    let top' : Int := if q.1 = 2 ^ (f.fbits + 1) then top + 1 else top
    let sig := if q.1 = 2 ^ (f.fbits + 1) then 2 ^ f.fbits else q.1
    if top' < f.emin then
      if md.fluRes then (f.signed x.neg 0, flagUF ||| flagNX)
      else
        let z := roundAt md.rnd x (f.emin - f.fbits)
        (f.signed x.neg z.1, if z.2 then flagUF ||| flagNX else 0)
    else if f.emax < top' ∨ (top' = f.emax ∧ f.noInf ∧ sig = 2 ^ (f.fbits + 1) - 1) then
      (overflowF f md x.neg, flagOF ||| flagNX)
    else
      (f.signed x.neg ((top' + f.bias).toNat * 2 ^ f.fbits + (sig - 2 ^ f.fbits)), if q.2 then flagNX else 0)

/-- R70: an infinite value delivered in a format: e4m3 has none. -/
def infF (f : Fmt) (md : FMode) (neg : Bool) : Nat × BitVec 5 :=
  if f.noInf then (if md.sat8 then (f.signed neg f.maxMag, flagNX) else (f.nan, flagNV)) else (f.inf neg, 0)

/-- R71: a float source as an instruction reads it: under a flush-input setting a subnormal is a zero of its sign. -/
def sourceF (f : Fmt) (md : FMode) (v : Nat) : FVal :=
  match readF f v with
  | .fin x => if md.fluIn && v / 2 ^ f.fbits % 2 ^ f.ebits == 0 then .fin { x with m := 0 } else .fin x
  | r => r

/-- R72: the invalid flag where a test holds. -/
def nvIf (b : Bool) : BitVec 5 := if b then flagNV else 0

/-- A signalling NaN. -/
def FVal.snan : FVal → Bool
  | .nan s => s
  | _ => false

/-- A NaN. -/
def FVal.isNan : FVal → Bool
  | .nan _ => true
  | _ => false

/-- An infinity. -/
def FVal.isInf : FVal → Bool
  | .inf _ => true
  | _ => false

/-- A zero. -/
def FVal.isZero : FVal → Bool
  | .fin x => x.m == 0
  | _ => false

/-- The sign of a value that is no NaN. -/
def FVal.sign : FVal → Bool
  | .fin x => x.neg
  | .inf n => n
  | .nan _ => false

/-- The sign inverted. -/
def FVal.negate : FVal → FVal
  | .fin x => .fin { x with neg := !x.neg }
  | .inf n => .inf (!n)
  | .nan s => .nan s

/-- R67: the canonical NaN, with NV where a test holds. -/
def nanF (f : Fmt) (invalid : Bool) : Nat × BitVec 5 := (f.nan, nvIf invalid)

/-! ### Sums and products -/

/-- A sum of two values (R117): infinities, zeros and NaNs as IEEE 754 gives them. -/
def sumF (f : Fmt) (md : FMode) (a b : FVal) : Nat × BitVec 5 :=
  match a, b with
  | .nan s, b => nanF f (s || b.snan)
  | a, .nan s => nanF f (s || a.snan)
  | .inf x, .inf y => if x == y then (f.inf x, 0) else nanF f true
  | .inf x, _ => (f.inf x, 0)
  | _, .inf y => (f.inf y, 0)
  | .fin x, .fin y => roundF f md (x.add y (md.rnd == .rdn))

/-- A product as a value, with whether it is invalid: 0 × ∞, or a signalling NaN (R117). -/
def prodV (a b : FVal) : FVal × Bool :=
  match a, b with
  | .nan s, b => (.nan false, s || b.snan)
  | a, .nan s => (.nan false, s || a.snan)
  | .inf x, b => if b.isZero then (.nan false, true) else (.inf (x != b.sign), false)
  | a, .inf y => if a.isZero then (.nan false, true) else (.inf (y != a.sign), false)
  | .fin x, .fin y => (.fin (x.mul y), false)

/-- A product (R117). -/
def mulF (f : Fmt) (md : FMode) (a b : FVal) : Nat × BitVec 5 :=
  match prodV a b with
  | (.nan _, i) => nanF f i
  | (.inf n, _) => (f.inf n, 0)
  | (.fin x, _) => roundF f md x

/-- a × b + c, rounded once (R117); `neg` inverts the product. -/
def fmaF (f : Fmt) (md : FMode) (neg : Bool) (a b c : FVal) : Nat × BitVec 5 :=
  let p := prodV a b
  let r := sumF f md (if neg then p.1.negate else p.1) c
  (r.1, r.2 ||| nvIf p.2)

/-! ### Patterns -/

/-- The low n bits, read as two's complement. -/
def signedNat (n v : Nat) : Int :=
  let v := v % 2 ^ n
  if v < 2 ^ (n - 1) then v else (v : Int) - 2 ^ n

/-- An integer modulo 2^n. -/
def wrapInt (n : Nat) (v : Int) : Nat := (v % 2 ^ n).toNat

/-- R64: the integer that a pattern of an integer type means. -/
def intOf (t : Ty) (v : Nat) : Int := if tySigned t then signedNat (tyBits t) v else (v % 2 ^ tyBits t : Nat)

/-- R64: the least and the greatest value of an integer type. -/
def intMin (t : Ty) : Int := if tySigned t then -(2 ^ (tyBits t - 1)) else 0
def intMax (t : Ty) : Int := if tySigned t then 2 ^ (tyBits t - 1) - 1 else 2 ^ tyBits t - 1

/-- An integer clamped to a type's range. -/
def clampInt (t : Ty) (v : Int) : Int := max (intMin t) (min (intMax t) v)

/-- R15: sub-element j of w bits of a register. -/
def subElem (w : Nat) (v : W64) (j : Nat) : Nat := v.toNat / 2 ^ (w * j) % 2 ^ w

/-- R15: a register put together from sub-elements of w bits, the first lowest. -/
def joinElems (w : Nat) : List Nat → Nat
  | [] => 0
  | x :: xs => x % 2 ^ w + 2 ^ w * joinElems w xs

/-- R15: every sub-element of a register of a type. -/
def elems (t : Ty) (v : W64) : List Nat := (List.range (tyCount t)).map (subElem (tyBits t) v)

/-- A register of a type's sub-elements. -/
def ofElems (t : Ty) (xs : List Nat) : W64 := BitVec.ofNat 64 (joinElems (tyBits t) xs)

/-! ### Conversions -/

/-- A value of one format rounded into another (R120). -/
def convF (f : Fmt) (md : FMode) (v : FVal) : Nat × BitVec 5 :=
  match v with
  | .nan s => nanF f s
  | .inf n => infF f md n
  | .fin x => roundF f md x

/-- R69, R120: a value rounded to an integer of a type. -/
def toIntF (t : Ty) (r : Rnd) (v : FVal) : Nat × BitVec 5 :=
  let w := tyBits t
  match v with
  | .nan _ => (0, flagNV)
  | .inf n => (wrapInt w (if n then intMin t else intMax t), flagNV)
  | .fin x =>
    if 70 ≤ (x.m.log2 : Int) + x.e then (wrapInt w (if x.neg then intMin t else intMax t), flagNV)
    else
      let q := roundAt r x 0
      let n : Int := if x.neg then -(q.1 : Int) else q.1
      if n < intMin t ∨ intMax t < n then (wrapInt w (clampInt t n), flagNV)
      else (wrapInt w n, if q.2 then flagNX else 0)

/-! ### Literals -/

/-- R51: an inline byte read as a number. -/
def byteInt (n : BitVec 8) : Int := n.toInt

/-- R52: the value of an entry of the inline float constant table up to 13; the irrational ones to 128 bits. -/
def constVal (k : Nat) : Ex :=
  match k with
  | 1 => { neg := false, m := 1, e := 0 }
  | 2 => { neg := true, m := 1, e := 0 }
  | 3 => { neg := false, m := 1, e := -1 }
  | 4 => { neg := true, m := 1, e := -1 }
  | 5 => { neg := false, m := 2, e := 0 }
  | 6 => { neg := true, m := 2, e := 0 }
  | 7 => { neg := false, m := 4, e := 0 }
  | 8 => { neg := false, m := 1, e := -2 }
  | 9 => { neg := false, m := 3, e := 0 }
  | 10 => { neg := false, m := 10, e := 0 }
  | 11 => { neg := false, m := 0x171547652b82fe1777d0ffda0d23a7d11, e := -128, sticky := true }
  | 12 => { neg := false, m := 0xb17217f7d1cf79abc9e3b39803f2f6af, e := -128, sticky := true }
  | 13 => { neg := false, m := 0x3243f6a8885a308d313198a2e03707344, e := -128, sticky := true }
  | _ => { neg := false, m := 0, e := 0 }

/-- R52: an entry of the inline float constant table in a format. -/
def constF (f : Fmt) (k : Nat) : Nat :=
  if k = 14 then f.inf false else if k = 15 then f.maxMag else (roundF f modePlain (constVal k)).1

/-- The TY is one of the float types, those of 8 bits included. -/
def floatTy (t : Ty) : Bool := tyFloat8 t

/-- R51: the pattern that an inline byte gives each sub-element of a type. -/
def byteElem (t : Ty) (n : BitVec 8) : Nat :=
  if floatTy t then (roundF (fmtOf t) modePlain (exOfInt (byteInt n))).1 else wrapInt (tyBits t) (byteInt n)

/-- R51: the pattern that IMM32 gives each sub-element of a type. -/
def immElem (t : Ty) (imm : BitVec 32) : Nat :=
  match t with
  | .i64 => wrapInt 64 imm.toInt
  | .f64 => (convF (fmtOf .f64) modePlain (readF (fmtOf .f32) imm.toNat)).1
  | _ => imm.toNat % 2 ^ tyBits t

/-- R51: one pattern in every sub-element. -/
def splat (t : Ty) (v : Nat) : W64 := ofElems t (List.replicate (tyCount t) v)

end Sys2Proof.Machine
end

