-- ==== Sys2Proof/Decode.lean ====
section
/-! DEFINITION. The decoder: S words by R42 to R46, L words by R47 to R55, each refused with the cause that R57 puts first,
and client messages by R326 and R327. After it the encoder, written from the same tables. -/

namespace Sys2Proof

open Machine

/-! ### S words -/

/-- R44: the ALU operation of an fn value, on fields d, a and b. -/
def aluInstr (fn : Nat) (d a b : BitVec 6) : Option Instr :=
  match fn with
  | 0x00 => some (.add d a b)
  | 0x01 => some (.sub d a b)
  | 0x02 => some (.and d a b)
  | 0x03 => some (.or d a b)
  | 0x04 => some (.xor d a b)
  | 0x05 => some (.andn d a b)
  | 0x06 => some (.shl d a b)
  | 0x07 => some (.shr d a b)
  | 0x08 => some (.sar d a b)
  | 0x09 => some (.mul d a b)
  | 0x0A => some (.mulh d a b)
  | 0x0B => some (.mulhn d a b)
  | 0x0C => some (.div d a b)
  | 0x0D => some (.divn d a b)
  | 0x0E => some (.rem d a b)
  | 0x0F => some (.remn d a b)
  | 0x10 => some (.min d a b)
  | 0x11 => some (.max d a b)
  | 0x12 => some (.minn d a b)
  | 0x13 => some (.maxn d a b)
  | 0x14 => some (.slt d a b)
  | 0x15 => some (.sltn d a b)
  | 0x16 => some (.seq d a b)
  | 0x17 => some (.sne d a b)
  | 0x18 => some (.clz d a)
  | 0x19 => some (.ctz d a)
  | 0x1A => some (.popc d a)
  | 0x1B => some (.brev d a)
  | 0x1C => some (.addw d a b)
  | 0x1D => some (.subw d a b)
  | 0x8C => some (.divT d a b)
  | 0x8D => some (.divnT d a b)
  | 0x8E => some (.remT d a b)
  | 0x8F => some (.remnT d a b)
  | _ => none

/-- The end of an S word's decoding: ILLEGAL_FORM before RESERVED_BITS (R57). -/
def sPick (ill res : Bool) (i : Instr) : Except Cause Instr :=
  if ill then .error .illegalForm else if res then .error .reservedBits else .ok i

/-- R42 to R45: the S instruction of a word, or the cause of R57 classes 2 to 6. -/
def decodeS (w : SWord) : Except Cause Instr :=
  let op := (w.extractLsb' 26 6).toNat
  let low : BitVec 26 := w.extractLsb' 0 26
  let d : BitVec 6 := w.extractLsb' 20 6
  let a : BitVec 6 := w.extractLsb' 14 6
  let b : BitVec 6 := w.extractLsb' 8 6
  let fn : BitVec 8 := w.extractLsb' 0 8
  let i14 : BitVec 14 := w.extractLsb' 0 14
  let i20 : BitVec 20 := w.extractLsb' 0 20
  let ord := orderOfCode (w.extractLsb' 0 2)
  let sc := scopeOf (w.extractLsb' 2 3)
  match op with
  | 0x00 => .error (if low = 0 then .zeroWord else .illegalS)
  | 0x01 =>
    match aluInstr fn.toNat d a b with
    | none => .error .illegalFn
    | some i => sPick false (decide (0x18 ≤ fn.toNat) && decide (fn.toNat ≤ 0x1B) && b != 0) i
  | 0x02 => .ok (.addi d a i14)
  | 0x03 => .ok (.andi d a i14)
  | 0x04 => .ok (.ori d a i14)
  | 0x05 => .ok (.xori d a i14)
  | 0x06 => sPick false (w.extractLsb' 6 8 != 0) (.shli d a (w.extractLsb' 0 6))
  | 0x07 => sPick false (w.extractLsb' 6 8 != 0) (.shri d a (w.extractLsb' 0 6))
  | 0x08 => sPick false (w.extractLsb' 6 8 != 0) (.sari d a (w.extractLsb' 0 6))
  | 0x09 => .ok (.slti d a i14)
  | 0x0A => .ok (.sltni d a i14)
  | 0x0B => .ok (.muli d a i14)
  | 0x0C => .ok (.movi d i20)
  | 0x0D => .ok (.movh d i20)
  | 0x0E => .ok (.ldk d i20)
  | 0x0F => .ok (.ldkx d a i14)
  | 0x10 => sPick false (w.extractLsb' 9 11 != 0) (.ldp d (w.extractLsb' 0 9))
  | 0x11 =>
    let sa : BitVec 6 := w.extractLsb' 16 6
    match condOf (w.extractLsb' 22 4) with
    | none => .error .illegalForm
    | some c => sPick false (c == .al && sa != 0) (.b c sa (w.extractLsb' 0 16))
  | 0x12 => .ok (.j low)
  | 0x13 => .ok (.call low)
  | 0x14 =>
    if fn = 0 then sPick false (b != 0 || d != 0) (.jr a)
    else if fn = 1 then sPick false (b != 0) (.jalr d a)
    else .error .illegalFn
  | 0x15 => sPick (i14 == 0) (d != 0) (.loop a i14)
  | 0x16 => sPick (i14 == 0) false (.loopi (w.extractLsb' 14 12) i14)
  | 0x17 => sPick false (low != 0) .lbrk
  | 0x18 => sPick false (w.extractLsb' 4 16 != 0) (.rds d (specialOf (w.extractLsb' 0 4)))
  | 0x19 => .ok (.lrun low)
  | 0x1A => sPick false (d != 0 || i14 != 0) (.lrunr a)
  | 0x1B => sPick false (low != 0) .lwait
  | 0x1C => sPick false (d != 0 || i14 != 0) (.pushu a)
  | 0x1D => sPick false (a != 0 || i14 != 0) (.popb d)
  | 0x1E => .ok (.skld d a (w.extractLsb' 8 6) fn)
  | 0x1F => .ok (.skst d a (w.extractLsb' 8 6) fn)
  | 0x20 => sPick false (d != 0 || w.extractLsb' 6 8 != 0) (.kswap a (w.extractLsb' 0 6))
  | 0x21 => sPick (decide (60 < d.toNat)) (w.extractLsb' 8 12 != 0) (.copy d fn)
  | 0x22 => sPick (decide (60 < d.toNat)) (w.extractLsb' 8 12 != 0) (.gather d fn)
  | 0x23 => sPick (decide (60 < d.toNat)) (i20 != 0) (.bload d)
  | 0x24 =>
    match sc with
    | none => .error .illegalForm
    | some s => sPick (ord == .rel || ord == .ar) (d != 0 || w.extractLsb' 5 3 != 0) (.cwait a b ord s)
  | 0x25 =>
    match sc with
    | none => .error .illegalForm
    | some s => sPick (ord == .rlx) (d != 0 || a != 0 || b != 0 || w.extractLsb' 5 3 != 0) (.fence ord s)
  | 0x26 => sPick false (d != 0 || w.extractLsb' 4 16 != 0) (.bar (w.extractLsb' 0 4))
  | 0x27 => sPick false (i14 != 0) (.spawn d a)
  | 0x28 => sPick false (low != 0) .exit
  | 0x29 => sPick false (d != 0) (.sleep i20)
  | 0x2A => sPick false (d != 0) (.mark i20)
  | 0x3C => sPick (!csrKnown (w.extractLsb' 0 12)) (w.extractLsb' 12 8 != 0) (.csrr d (w.extractLsb' 0 12))
  | 0x3D => sPick (!csrKnown (w.extractLsb' 0 12)) (d != 0 || w.extractLsb' 12 2 != 0) (.csrw a (w.extractLsb' 0 12))
  | 0x3E =>
    let code : BitVec 16 := w.extractLsb' 0 16
    match (w.extractLsb' 16 4).toNat with
    | 0 => sPick false (d != 0) (.trap code)
    | 1 => sPick false (d != 0 || code != 0) .eret
    | 2 => sPick false (d != 0 || code != 0) .halt
    | 3 => sPick false (d != 0 || code != 0) .brk
    | 4 => sPick false (d != 0 || code != 0) .yield
    | _ => .error .illegalForm
  | 0x3F => .error (if low = BitVec.allOnes 26 then .onesWord else .illegalS)
  | _ => .error .illegalS

/-! ### L words -/

/-- R54: the L instruction of an opcode and its fields; `join` is told apart by its variant (R134). -/
def lInstr (op : Nat) (o : LOp) : Option Instr :=
  match op with
  | 0x01 => some (.lAdd o)
  | 0x02 => some (.lSub o)
  | 0x03 => some (.lMul o)
  | 0x04 => some (.lMulh o)
  | 0x05 => some (.mad o)
  | 0x06 => some (.adds o)
  | 0x07 => some (.subs o)
  | 0x08 => some (.abs o)
  | 0x09 => some (.neg o)
  | 0x0A => some (.lMin o)
  | 0x0B => some (.lMax o)
  | 0x0C => some (.lAnd o)
  | 0x0D => some (.lOr o)
  | 0x0E => some (.lXor o)
  | 0x0F => some (.not o)
  | 0x10 => some (.lShl o)
  | 0x11 => some (.lShr o)
  | 0x12 => some (.lSar o)
  | 0x13 => some (.lClz o)
  | 0x14 => some (.lPopc o)
  | 0x15 => some (.lBrev o)
  | 0x16 => some (.bfx o)
  | 0x17 => some (.bfi o)
  | 0x18 => some (.sel o)
  | 0x19 => some (.cmp o)
  | 0x1A => some (.mov o)
  | 0x1B => some (.prm o)
  | 0x1C => some (.dotb o)
  | 0x1D => some (.madw o)
  | 0x20 => some (.fadd o)
  | 0x21 => some (.fsub o)
  | 0x22 => some (.fmul o)
  | 0x23 => some (.fma o)
  | 0x24 => some (.fnma o)
  | 0x25 => some (.fmin o)
  | 0x26 => some (.fmax o)
  | 0x27 => some (.fabs o)
  | 0x28 => some (.fneg o)
  | 0x29 => some (.fcmp o)
  | 0x2A => some (.fcls o)
  | 0x2B => some (.frnd o)
  | 0x2C => some (.fdiv o)
  | 0x2D => some (.fsqrt o)
  | 0x2E => some (.rcp o)
  | 0x2F => some (.rsq o)
  | 0x30 => some (.exp2 o)
  | 0x31 => some (.log2 o)
  | 0x32 => some (.sin o)
  | 0x33 => some (.cos o)
  | 0x34 => some (.tanh o)
  | 0x35 => some (.fscl o)
  | 0x36 => some (.fcvt o)
  | 0x37 => some (.icvt o)
  | 0x38 => some (.fcvti o)
  | 0x40 => some (.qblk o)
  | 0x41 => some (.dqblk o)
  | 0x42 => some (.pack o)
  | 0x43 => some (.unpk o)
  | 0x48 => some (.shfl o)
  | 0x49 => some (.shfx o)
  | 0x4A => some (.bcst o)
  | 0x4B => some (.ball o)
  | 0x4C => some (.vote o)
  | 0x4D => some (.mbcnt o)
  | 0x4E => some (.conf o)
  | 0x4F => some (.red o)
  | 0x50 => some (.scan o)
  | 0x58 => some (.bra o)
  | 0x59 => some (.jmp o)
  | 0x5A => some (if o.var = 0 then .joinAll o else .joinAny o)
  | 0x5B => some (.lend o)
  | 0x5C => some (.exitl o)
  | 0x5D => some (.yld o)
  | 0x60 => some (.movw o)
  | 0x61 => some (.pushb o)
  | 0x68 => some (.setmd o)
  | 0x69 => some (.getmd o)
  | 0x6A => some (.rdfl o)
  | 0x6B => some (.clfl o)
  | 0x70 => some (.lds o)
  | 0x71 => some (.sts o)
  | 0x72 => some (.ats o)
  | 0x73 => some (.waitge o)
  | 0x80 => some (.kfind o)
  | 0x81 => some (.kld o)
  | 0x82 => some (.kst o)
  | 0x83 => some (.kins o)
  | 0x84 => some (.kdel o)
  | 0x85 => some (.kseek o)
  | 0x86 => some (.knext o)
  | 0x87 => some (.kclose o)
  | 0x88 => some (.kat o)
  | 0x89 => some (.scat o)
  | 0xA0 => some (.abeg o)
  | 0xA1 => some (.ald o)
  | 0xA2 => some (.ast o)
  | 0xA3 => some (.acom o)
  | 0xA4 => some (.aabt o)
  | 0xA5 => some (.astat o)
  | 0xB0 => some (.mma o)
  | 0xB1 => some (.mzero o)
  | 0xB2 => some (.mdrn o)
  | 0xB3 => some (.mrd o)
  | 0xB4 => some (.mwt o)
  | 0xC0 => some (.nop o)
  | 0xC1 => some (.fencel o)
  | 0xC2 => some (.trapl o)
  | 0xC3 => some (.markl o)
  | _ => none

/-- The operand record of a word whose fields are all listed (R50, R53). -/
def opOfRaw (r : LRaw) : Option LOp := do
  let a ← srcOf r.a
  let b ← srcOf r.b
  let c ← srcOf r.c
  pure { ty := tyOfCode r.ty, var := r.var, vd := r.vd, nw := r.nw, pn := r.pn, pg := r.pg,
         a := a, b := b, c := c, aux := r.aux, imm := r.imm }

/-- R54 to R57: the L instruction of a word taken apart, under the header's lregs, or the cause of classes 3 to 6. -/
def decodeRaw (lregs : Nat) (r : LRaw) : Except Cause Instr :=
  match lFault lregs r with
  | some c => .error c
  | none =>
    match opOfRaw r >>= lInstr r.op.toNat with
    | some i => .ok i
    | none => .error .illegalForm

/-- R47 to R57: the L instruction of a word, or the cause of R57 classes 2 to 6. -/
def decodeL (lregs : Nat) (w : LWord) : Except Cause Instr :=
  if w = 0 then .error .zeroWord
  else if w = BitVec.allOnes 96 then .error .onesWord
  else decodeRaw lregs (rawOfWord w)

/-! ### Client messages -/

/-- R326, R327: the request of a message, by its op and, for DEBUG, the subcode in the first body byte. -/
def decodeMsg (m : Msg) : Option Instr :=
  match m.op.toNat with
  | 0x0001 => some (.contextCreate m)
  | 0x0002 => some (.contextEnd m)
  | 0x0010 => some (.load m)
  | 0x0011 => some (.unload m)
  | 0x0012 => some (.levels m)
  | 0x0020 => some (.tableCreate m)
  | 0x0021 => some (.tableRetire m)
  | 0x0022 => some (.rowsWrite m)
  | 0x0023 => some (.rowsRead m)
  | 0x0024 => some (.tableSwap m)
  | 0x0030 => some (.windowSet m)
  | 0x0031 => some (.windowRevoke m)
  | 0x0040 => some (.launch m)
  | 0x0041 => some (.wait m)
  | 0x0050 =>
    match m.body with
    | [] => none
    | k :: _ =>
      match k.toNat with
      | 1 => some (.debugGrantRight m)
      | 2 => some (.debugRevokeRight m)
      | 3 => some (.debugWriteDbgctl m)
      | 4 => some (.debugWriteBreakpoint m)
      | 5 => some (.debugStopOrHold m)
      | 6 => some (.debugStateAccess m)
      | 7 => some (.debugTraceChannel m)
      | 8 => some (.debugNoonTrigger m)
      | _ => none
  | 0x0060 => some (.attest m)
  | _ => none

/-- Little-endian bytes to a number (R6). -/
def bytesToNat : List Byte → Nat
  | [] => 0
  | b :: bs => b.toNat + 256 * bytesToNat bs

/-- A number to n little-endian bytes (R6). -/
def natToBytes : Nat → Nat → List Byte
  | 0, _ => []
  | n + 1, v => BitVec.ofNat 8 v :: natToBytes n (v / 256)

/-- R326: a message of a session read from its bytes, header then body; none where bytes are missing. -/
def messageOf (session : Nat) (bytes : List Byte) : Option Msg :=
  if bytes.length < 32 then none
  else
    let f := fun (at_ n : Nat) => bytesToNat ((bytes.drop at_).take n)
    some { session := session, op := BitVec.ofNat 16 (f 0 2), status := BitVec.ofNat 16 (f 2 2),
           length := BitVec.ofNat 32 (f 4 4), req := BitVec.ofNat 64 (f 8 8), ctx := BitVec.ofNat 32 (f 16 4),
           resv := BitVec.ofNat 96 (f 20 12), body := bytes.drop 32 }

/-! ### The encoder -/

/-- R42: an SR word. -/
def encSR (op d a b : BitVec 6) (fn : BitVec 8) : SWord := op ++ d ++ a ++ b ++ fn

/-- R42: an SI word. -/
def encSI (op d a : BitVec 6) (i : BitVec 14) : SWord := op ++ d ++ a ++ i

/-- R42: an SW word. -/
def encSW (op d : BitVec 6) (i : BitVec 20) : SWord := op ++ d ++ i

/-- R42 to R46: the word of an S instruction; none for an instruction that no S word encodes. -/
def encodeS : Instr → Option SWord
  | .add d a b => some (encSR 0x01 d a b 0x00)
  | .sub d a b => some (encSR 0x01 d a b 0x01)
  | .and d a b => some (encSR 0x01 d a b 0x02)
  | .or d a b => some (encSR 0x01 d a b 0x03)
  | .xor d a b => some (encSR 0x01 d a b 0x04)
  | .andn d a b => some (encSR 0x01 d a b 0x05)
  | .shl d a b => some (encSR 0x01 d a b 0x06)
  | .shr d a b => some (encSR 0x01 d a b 0x07)
  | .sar d a b => some (encSR 0x01 d a b 0x08)
  | .mul d a b => some (encSR 0x01 d a b 0x09)
  | .mulh d a b => some (encSR 0x01 d a b 0x0A)
  | .mulhn d a b => some (encSR 0x01 d a b 0x0B)
  | .div d a b => some (encSR 0x01 d a b 0x0C)
  | .divn d a b => some (encSR 0x01 d a b 0x0D)
  | .rem d a b => some (encSR 0x01 d a b 0x0E)
  | .remn d a b => some (encSR 0x01 d a b 0x0F)
  | .min d a b => some (encSR 0x01 d a b 0x10)
  | .max d a b => some (encSR 0x01 d a b 0x11)
  | .minn d a b => some (encSR 0x01 d a b 0x12)
  | .maxn d a b => some (encSR 0x01 d a b 0x13)
  | .slt d a b => some (encSR 0x01 d a b 0x14)
  | .sltn d a b => some (encSR 0x01 d a b 0x15)
  | .seq d a b => some (encSR 0x01 d a b 0x16)
  | .sne d a b => some (encSR 0x01 d a b 0x17)
  | .clz d a => some (encSR 0x01 d a 0 0x18)
  | .ctz d a => some (encSR 0x01 d a 0 0x19)
  | .popc d a => some (encSR 0x01 d a 0 0x1A)
  | .brev d a => some (encSR 0x01 d a 0 0x1B)
  | .addw d a b => some (encSR 0x01 d a b 0x1C)
  | .subw d a b => some (encSR 0x01 d a b 0x1D)
  | .divT d a b => some (encSR 0x01 d a b 0x8C)
  | .divnT d a b => some (encSR 0x01 d a b 0x8D)
  | .remT d a b => some (encSR 0x01 d a b 0x8E)
  | .remnT d a b => some (encSR 0x01 d a b 0x8F)
  | .addi d a i => some (encSI 0x02 d a i)
  | .andi d a i => some (encSI 0x03 d a i)
  | .ori d a i => some (encSI 0x04 d a i)
  | .xori d a i => some (encSI 0x05 d a i)
  | .shli d a i => some (encSI 0x06 d a (0#8 ++ i))
  | .shri d a i => some (encSI 0x07 d a (0#8 ++ i))
  | .sari d a i => some (encSI 0x08 d a (0#8 ++ i))
  | .slti d a i => some (encSI 0x09 d a i)
  | .sltni d a i => some (encSI 0x0A d a i)
  | .muli d a i => some (encSI 0x0B d a i)
  | .movi d i => some (encSW 0x0C d i)
  | .movh d i => some (encSW 0x0D d i)
  | .ldk d n => some (encSW 0x0E d n)
  | .ldkx d a i => some (encSI 0x0F d a i)
  | .ldp d n => some (encSW 0x10 d (0#11 ++ n))
  | .b c a o => some (0x11#6 ++ condCode c ++ a ++ o)
  | .j o => some (0x12#6 ++ o)
  | .call o => some (0x13#6 ++ o)
  | .jr a => some (encSR 0x14 0 a 0 0)
  | .jalr d a => some (encSR 0x14 d a 0 1)
  | .loop a o => some (encSI 0x15 0 a o)
  | .loopi c o => some (0x16#6 ++ c ++ o)
  | .lbrk => some (0x17#6 ++ 0#26)
  | .rds d n => some (encSW 0x18 d (0#16 ++ specialCode n))
  | .lrun o => some (0x19#6 ++ o)
  | .lrunr a => some (encSR 0x1A 0 a 0 0)
  | .lwait => some (0x1B#6 ++ 0#26)
  | .pushu a => some (encSR 0x1C 0 a 0 0)
  | .popb d => some (encSR 0x1D d 0 0 0)
  | .skld d a t o => some (encSI 0x1E d a (t ++ o))
  | .skst d a t o => some (encSI 0x1F d a (t ++ o))
  | .kswap a t => some (encSI 0x20 0 a (0#8 ++ t))
  | .copy d t => some (encSW 0x21 d (0#12 ++ t))
  | .gather d t => some (encSW 0x22 d (0#12 ++ t))
  | .bload d => some (encSW 0x23 d 0)
  | .cwait a b o sc => some (encSR 0x24 0 a b (0#3 ++ scopeCode sc ++ orderCode o))
  | .fence o sc => some (encSR 0x25 0 0 0 (0#3 ++ scopeCode sc ++ orderCode o))
  | .bar i => some (encSW 0x26 0 (0#16 ++ i))
  | .spawn d a => some (encSR 0x27 d a 0 0)
  | .exit => some (0x28#6 ++ 0#26)
  | .sleep n => some (encSW 0x29 0 n)
  | .mark n => some (encSW 0x2A 0 n)
  | .csrr d c => some (encSW 0x3C d (0#8 ++ c))
  | .csrw a c => some (encSI 0x3D 0 a (0#2 ++ c))
  | .trap n => some (encSW 0x3E 0 (0#4 ++ n))
  | .eret => some (encSW 0x3E 0 0x10000)
  | .halt => some (encSW 0x3E 0 0x20000)
  | .brk => some (encSW 0x3E 0 0x30000)
  | .yield => some (encSW 0x3E 0 0x40000)
  | .lwaitRelease _ _ => none
  | .queueDeadlock _ _ => none
  | .kswapComplete _ _ => none
  | .cwaitWake _ _ => none
  | .barDepart _ _ => none
  | .sleepEnd _ _ => none
  | .lAdd _ => none
  | .lSub _ => none
  | .lMul _ => none
  | .lMulh _ => none
  | .mad _ => none
  | .adds _ => none
  | .subs _ => none
  | .abs _ => none
  | .neg _ => none
  | .lMin _ => none
  | .lMax _ => none
  | .lAnd _ => none
  | .lOr _ => none
  | .lXor _ => none
  | .not _ => none
  | .lShl _ => none
  | .lShr _ => none
  | .lSar _ => none
  | .lClz _ => none
  | .lPopc _ => none
  | .lBrev _ => none
  | .bfx _ => none
  | .bfi _ => none
  | .sel _ => none
  | .cmp _ => none
  | .mov _ => none
  | .prm _ => none
  | .dotb _ => none
  | .madw _ => none
  | .fadd _ => none
  | .fsub _ => none
  | .fmul _ => none
  | .fma _ => none
  | .fnma _ => none
  | .fmin _ => none
  | .fmax _ => none
  | .fabs _ => none
  | .fneg _ => none
  | .fcmp _ => none
  | .fcls _ => none
  | .frnd _ => none
  | .fdiv _ => none
  | .fsqrt _ => none
  | .rcp _ => none
  | .rsq _ => none
  | .exp2 _ => none
  | .log2 _ => none
  | .sin _ => none
  | .cos _ => none
  | .tanh _ => none
  | .fscl _ => none
  | .fcvt _ => none
  | .icvt _ => none
  | .fcvti _ => none
  | .qblk _ => none
  | .dqblk _ => none
  | .pack _ => none
  | .unpk _ => none
  | .shfl _ => none
  | .shfx _ => none
  | .bcst _ => none
  | .ball _ => none
  | .vote _ => none
  | .mbcnt _ => none
  | .conf _ => none
  | .red _ => none
  | .scan _ => none
  | .bra _ => none
  | .jmp _ => none
  | .joinAll _ => none
  | .joinAny _ => none
  | .lend _ => none
  | .exitl _ => none
  | .yld _ => none
  | .yldReturn _ _ _ => none
  | .splitReload _ _ => none
  | .movw _ => none
  | .pushb _ => none
  | .setmd _ => none
  | .getmd _ => none
  | .rdfl _ => none
  | .clfl _ => none
  | .lds _ => none
  | .sts _ => none
  | .ats _ => none
  | .waitge _ => none
  | .waitgeRecheck _ _ _ => none
  | .kfind _ => none
  | .kld _ => none
  | .kst _ => none
  | .kins _ => none
  | .kdel _ => none
  | .kseek _ => none
  | .knext _ => none
  | .kclose _ => none
  | .kat _ => none
  | .scat _ => none
  | .reductionApply _ => none
  | .abeg _ => none
  | .ald _ => none
  | .ast _ => none
  | .acom _ => none
  | .commitResume _ _ _ => none
  | .aabt _ => none
  | .astat _ => none
  | .mma _ => none
  | .quarterOp _ _ => none
  | .tileReady _ _ => none
  | .mzero _ => none
  | .mdrn _ => none
  | .mrd _ => none
  | .mwt _ => none
  | .nop _ => none
  | .fencel _ => none
  | .trapl _ => none
  | .markl _ => none
  | .blockStart _ _ => none
  | .copyJobStart _ => none
  | .copySector _ _ _ _ _ => none
  | .gatherElement _ _ => none
  | .bloadLine _ _ => none
  | .counterAdd _ _ _ _ => none
  | .jobComplete _ => none
  | .trapEntry _ _ => none
  | .timer _ _ => none
  | .timeLimit _ => none
  | .bindStart _ => none
  | .bindResume _ => none
  | .bindFill _ => none
  | .bindSwap _ => none
  | .duskSwap _ => none
  | .spillDrainDone _ => none
  | .spillFillDone _ => none
  | .childTaskStart _ => none
  | .workgroupComplete _ => none
  | .contextCreate _ => none
  | .contextEnd _ => none
  | .load _ => none
  | .unload _ => none
  | .levels _ => none
  | .tableCreate _ => none
  | .tableRetire _ => none
  | .rowsWrite _ => none
  | .rowsRead _ => none
  | .tableSwap _ => none
  | .windowSet _ => none
  | .windowRevoke _ => none
  | .launch _ => none
  | .wait _ => none
  | .debugGrantRight _ => none
  | .debugRevokeRight _ => none
  | .debugWriteDbgctl _ => none
  | .debugWriteBreakpoint _ => none
  | .debugStopOrHold _ => none
  | .debugStateAccess _ => none
  | .debugTraceChannel _ => none
  | .debugNoonTrigger _ => none
  | .attest _ => none
  | .debugStop _ _ => none
  | .splitHold _ _ _ => none
  | .sync _ => none
  | .loss _ => none
  | .serviceComplete _ _ => none
  | .testLaunch _ _ _ => none
  | .revocationNotice _ => none
  | .boot => none
  | .undervoltagePowerDown => none
  | .firmwareImageReceive _ => none
  | .thermalShutdown _ => none
  | .clockThrottle _ => none
  | .stateUncorr _ => none
  | .tenantAdmission _ _ => none
  | .tenantRetirement _ => none
  | .sessionOpen _ _ => none
  | .grantAdmission _ _ _ _ => none
  | .noticeAcknowledgement _ => none
  | .flitAck _ _ _ => none
  | .linkFailure _ _ => none
  | .slabMigration _ => none
  | .zhenanFlitReceive _ _ => none
  | .flitNak _ _ => none
  | .linkRetrain _ _ => none
  | .linkRekey _ _ => none
  | .virtualLaneStop _ _ _ => none
  | .secretDelivery _ _ _ => none
  | .periodAdvance _ => none
  | .contextMigrate _ _ => none
  | .migrationConfirm _ _ _ => none

/-- R54: the opcode of an L instruction, with its fields; none for an instruction that no L word encodes. -/
def lParts : Instr → Option (BitVec 8 × LOp)
  | .lAdd o => some (0x01, o)
  | .lSub o => some (0x02, o)
  | .lMul o => some (0x03, o)
  | .lMulh o => some (0x04, o)
  | .mad o => some (0x05, o)
  | .adds o => some (0x06, o)
  | .subs o => some (0x07, o)
  | .abs o => some (0x08, o)
  | .neg o => some (0x09, o)
  | .lMin o => some (0x0A, o)
  | .lMax o => some (0x0B, o)
  | .lAnd o => some (0x0C, o)
  | .lOr o => some (0x0D, o)
  | .lXor o => some (0x0E, o)
  | .not o => some (0x0F, o)
  | .lShl o => some (0x10, o)
  | .lShr o => some (0x11, o)
  | .lSar o => some (0x12, o)
  | .lClz o => some (0x13, o)
  | .lPopc o => some (0x14, o)
  | .lBrev o => some (0x15, o)
  | .bfx o => some (0x16, o)
  | .bfi o => some (0x17, o)
  | .sel o => some (0x18, o)
  | .cmp o => some (0x19, o)
  | .mov o => some (0x1A, o)
  | .prm o => some (0x1B, o)
  | .dotb o => some (0x1C, o)
  | .madw o => some (0x1D, o)
  | .fadd o => some (0x20, o)
  | .fsub o => some (0x21, o)
  | .fmul o => some (0x22, o)
  | .fma o => some (0x23, o)
  | .fnma o => some (0x24, o)
  | .fmin o => some (0x25, o)
  | .fmax o => some (0x26, o)
  | .fabs o => some (0x27, o)
  | .fneg o => some (0x28, o)
  | .fcmp o => some (0x29, o)
  | .fcls o => some (0x2A, o)
  | .frnd o => some (0x2B, o)
  | .fdiv o => some (0x2C, o)
  | .fsqrt o => some (0x2D, o)
  | .rcp o => some (0x2E, o)
  | .rsq o => some (0x2F, o)
  | .exp2 o => some (0x30, o)
  | .log2 o => some (0x31, o)
  | .sin o => some (0x32, o)
  | .cos o => some (0x33, o)
  | .tanh o => some (0x34, o)
  | .fscl o => some (0x35, o)
  | .fcvt o => some (0x36, o)
  | .icvt o => some (0x37, o)
  | .fcvti o => some (0x38, o)
  | .qblk o => some (0x40, o)
  | .dqblk o => some (0x41, o)
  | .pack o => some (0x42, o)
  | .unpk o => some (0x43, o)
  | .shfl o => some (0x48, o)
  | .shfx o => some (0x49, o)
  | .bcst o => some (0x4A, o)
  | .ball o => some (0x4B, o)
  | .vote o => some (0x4C, o)
  | .mbcnt o => some (0x4D, o)
  | .conf o => some (0x4E, o)
  | .red o => some (0x4F, o)
  | .scan o => some (0x50, o)
  | .bra o => some (0x58, o)
  | .jmp o => some (0x59, o)
  | .joinAll o => some (0x5A, o)
  | .joinAny o => some (0x5A, o)
  | .lend o => some (0x5B, o)
  | .exitl o => some (0x5C, o)
  | .yld o => some (0x5D, o)
  | .movw o => some (0x60, o)
  | .pushb o => some (0x61, o)
  | .setmd o => some (0x68, o)
  | .getmd o => some (0x69, o)
  | .rdfl o => some (0x6A, o)
  | .clfl o => some (0x6B, o)
  | .lds o => some (0x70, o)
  | .sts o => some (0x71, o)
  | .ats o => some (0x72, o)
  | .waitge o => some (0x73, o)
  | .kfind o => some (0x80, o)
  | .kld o => some (0x81, o)
  | .kst o => some (0x82, o)
  | .kins o => some (0x83, o)
  | .kdel o => some (0x84, o)
  | .kseek o => some (0x85, o)
  | .knext o => some (0x86, o)
  | .kclose o => some (0x87, o)
  | .kat o => some (0x88, o)
  | .scat o => some (0x89, o)
  | .abeg o => some (0xA0, o)
  | .ald o => some (0xA1, o)
  | .ast o => some (0xA2, o)
  | .acom o => some (0xA3, o)
  | .aabt o => some (0xA4, o)
  | .astat o => some (0xA5, o)
  | .mma o => some (0xB0, o)
  | .mzero o => some (0xB1, o)
  | .mdrn o => some (0xB2, o)
  | .mrd o => some (0xB3, o)
  | .mwt o => some (0xB4, o)
  | .nop o => some (0xC0, o)
  | .fencel o => some (0xC1, o)
  | .trapl o => some (0xC2, o)
  | .markl o => some (0xC3, o)
  | .add _ _ _ => none
  | .sub _ _ _ => none
  | .and _ _ _ => none
  | .or _ _ _ => none
  | .xor _ _ _ => none
  | .andn _ _ _ => none
  | .shl _ _ _ => none
  | .shr _ _ _ => none
  | .sar _ _ _ => none
  | .mul _ _ _ => none
  | .mulh _ _ _ => none
  | .mulhn _ _ _ => none
  | .div _ _ _ => none
  | .divn _ _ _ => none
  | .rem _ _ _ => none
  | .remn _ _ _ => none
  | .min _ _ _ => none
  | .max _ _ _ => none
  | .minn _ _ _ => none
  | .maxn _ _ _ => none
  | .slt _ _ _ => none
  | .sltn _ _ _ => none
  | .seq _ _ _ => none
  | .sne _ _ _ => none
  | .clz _ _ => none
  | .ctz _ _ => none
  | .popc _ _ => none
  | .brev _ _ => none
  | .addw _ _ _ => none
  | .subw _ _ _ => none
  | .divT _ _ _ => none
  | .divnT _ _ _ => none
  | .remT _ _ _ => none
  | .remnT _ _ _ => none
  | .addi _ _ _ => none
  | .andi _ _ _ => none
  | .ori _ _ _ => none
  | .xori _ _ _ => none
  | .shli _ _ _ => none
  | .shri _ _ _ => none
  | .sari _ _ _ => none
  | .slti _ _ _ => none
  | .sltni _ _ _ => none
  | .muli _ _ _ => none
  | .movi _ _ => none
  | .movh _ _ => none
  | .ldk _ _ => none
  | .ldkx _ _ _ => none
  | .ldp _ _ => none
  | .b _ _ _ => none
  | .j _ => none
  | .call _ => none
  | .jr _ => none
  | .jalr _ _ => none
  | .loop _ _ => none
  | .loopi _ _ => none
  | .rds _ _ => none
  | .lrun _ => none
  | .lrunr _ => none
  | .lwaitRelease _ _ => none
  | .pushu _ => none
  | .popb _ => none
  | .queueDeadlock _ _ => none
  | .skld _ _ _ _ => none
  | .skst _ _ _ _ => none
  | .kswap _ _ => none
  | .kswapComplete _ _ => none
  | .copy _ _ => none
  | .gather _ _ => none
  | .bload _ => none
  | .cwait _ _ _ _ => none
  | .cwaitWake _ _ => none
  | .fence _ _ => none
  | .bar _ => none
  | .barDepart _ _ => none
  | .spawn _ _ => none
  | .sleep _ => none
  | .sleepEnd _ _ => none
  | .mark _ => none
  | .csrr _ _ => none
  | .csrw _ _ => none
  | .trap _ => none
  | .yldReturn _ _ _ => none
  | .splitReload _ _ => none
  | .waitgeRecheck _ _ _ => none
  | .reductionApply _ => none
  | .commitResume _ _ _ => none
  | .quarterOp _ _ => none
  | .tileReady _ _ => none
  | .blockStart _ _ => none
  | .copyJobStart _ => none
  | .copySector _ _ _ _ _ => none
  | .gatherElement _ _ => none
  | .bloadLine _ _ => none
  | .counterAdd _ _ _ _ => none
  | .jobComplete _ => none
  | .trapEntry _ _ => none
  | .timer _ _ => none
  | .timeLimit _ => none
  | .bindStart _ => none
  | .bindResume _ => none
  | .bindFill _ => none
  | .bindSwap _ => none
  | .duskSwap _ => none
  | .spillDrainDone _ => none
  | .spillFillDone _ => none
  | .childTaskStart _ => none
  | .workgroupComplete _ => none
  | .contextCreate _ => none
  | .contextEnd _ => none
  | .load _ => none
  | .unload _ => none
  | .levels _ => none
  | .tableCreate _ => none
  | .tableRetire _ => none
  | .rowsWrite _ => none
  | .rowsRead _ => none
  | .tableSwap _ => none
  | .windowSet _ => none
  | .windowRevoke _ => none
  | .launch _ => none
  | .wait _ => none
  | .debugGrantRight _ => none
  | .debugRevokeRight _ => none
  | .debugWriteDbgctl _ => none
  | .debugWriteBreakpoint _ => none
  | .debugStopOrHold _ => none
  | .debugStateAccess _ => none
  | .debugTraceChannel _ => none
  | .debugNoonTrigger _ => none
  | .attest _ => none
  | .debugStop _ _ => none
  | .splitHold _ _ _ => none
  | .sync _ => none
  | .loss _ => none
  | .lbrk => none
  | .lwait => none
  | .exit => none
  | .eret => none
  | .halt => none
  | .brk => none
  | .yield => none
  | .serviceComplete _ _ => none
  | .testLaunch _ _ _ => none
  | .revocationNotice _ => none
  | .boot => none
  | .undervoltagePowerDown => none
  | .firmwareImageReceive _ => none
  | .thermalShutdown _ => none
  | .clockThrottle _ => none
  | .stateUncorr _ => none
  | .tenantAdmission _ _ => none
  | .tenantRetirement _ => none
  | .sessionOpen _ _ => none
  | .grantAdmission _ _ _ _ => none
  | .noticeAcknowledgement _ => none
  | .flitAck _ _ _ => none
  | .linkFailure _ _ => none
  | .slabMigration _ => none
  | .zhenanFlitReceive _ _ => none
  | .flitNak _ _ => none
  | .linkRetrain _ _ => none
  | .linkRekey _ _ => none
  | .virtualLaneStop _ _ _ => none
  | .secretDelivery _ _ _ => none
  | .periodAdvance _ => none
  | .contextMigrate _ _ => none
  | .migrationConfirm _ _ _ => none

/-- R47 to R54: the word of an L instruction; none for an instruction that no L word encodes. -/
def encodeL (i : Instr) : Option LWord :=
  (lParts i).map fun p => wordOfRaw (rawOfOp p.1 p.2)

/-- The words of an instruction: how many bits, and the bits; none for an event of the module, which has no encoding. -/
def encode (i : Instr) : Option (Nat × Nat) :=
  match encodeS i with
  | some w => some (32, w.toNat)
  | none =>
    match encodeL i with
    | some w => some (96, w.toNat)
    | none => none

/-- The instruction of a word of the opcode table, by its number of bits: an S word up to 32 bits, an L word above. -/
def decodeTableWord (nbits w : Nat) : Option Instr :=
  if nbits ≤ 32 then (decodeS (BitVec.ofNat 32 w)).toOption
  else (decodeL 256 (BitVec.ofNat 96 w)).toOption

end Sys2Proof
end

