-- ==== Sys2Proof/Machine/State.lean ====
section
/-! DEFINITION. The state of a BX-3200 module as plain data: groups and their two streams, workgroups, cores, dies, table
memory, the driver's records and the fabric (R85, R127 to R129, R141 to R144, R164 to R176, R192, R207, R221, R246 to R249,
R285 to R292, R300, R306, R325 to R336, R343 to R351, R354 to R361), and the state after power-on (R369). -/

namespace Sys2Proof.Machine

/-- Bytes that are not zero, by address, rising: every allotment, every unwritten row byte, every B-line and every buffer
reads zero where nothing is listed (R153, R166, R171). -/
abbrev Mem := List Host.Cell

/-- A key of a table: n64 keys are below 2^64, a k128 key holds its high word above its low word (R167, R168). -/
abbrev Key := BitVec 128

/-! ### A split, a lane and a group -/

/-- R61, R127: the replay record: up to three words, oldest first, with their NW bits; the register and the active lanes of
the producer of each window entry y0 to y3. -/
structure ReplayRec where
  words : List (BitVec 26 × Bool)
  wreg  : List (Option (BitVec 8))
  wact  : List LMask
  deriving DecidableEq, Repr

/-- R127: an empty record. -/
def ReplayRec.empty : ReplayRec := { words := [], wreg := [none, none, none, none], wact := [0, 0, 0, 0] }

/-- R281: the reported-state kinds that a handler sees, in the order of their codes in the frame (R286). -/
inductive TrapKind where
  | word | lane | partial_ | after | deferred | event
  deriving DecidableEq, Repr

/-- What a trap reports (R281, R286, R289). -/
structure TrapInfo where
  cause   : Cause
  kind    : TrapKind
  lStream : Bool := false
  lanes   : LMask := 0
  done    : LMask := 0
  split   : Option Nat := none
  fpc     : W64 := 0
  d0      : W64 := 0
  d1      : W64 := 0
  deriving DecidableEq, Repr

/-- R128: the states of a split-table entry. -/
inductive SplitState where
  | free | ready | joinPark | endPark | yielded | held
  deriving DecidableEq, Repr

/-- R160: one active lane of a `WAITGE`: where it looks, how it reads it, its bound, the value that satisfied it, and how many
writes had been made by then (R264). -/
structure WaitLane where
  lane   : Nat
  addr   : Nat
  bytes  : Nat
  signed : Bool
  bound  : W64
  seen   : Option W64
  after  : Nat
  deriving DecidableEq, Repr

/-- What a split's next word waits for: nothing; a queue, at issue (R104); a `WAITGE` that has issued (R160); room in the matrix
queue, at issue (R255); the quarter operations that an issued `MWT` covers (R260); the serving of an absent slab that an issued
`ACOM` needs (R223), or its turn (R224); the reductions that a `FENCEL` covers (R202); the trap of an issued word whose flags are
about to be known (R112). A `WAITGE` or such a word that named uq (pop) keeps the entry it took at its issue, which it gives back
where it is stopped unfinished (log entries 57 and 66). -/
inductive SplitWait where
  | none | queue
  | waitge (lanes : List WaitLane) (popped : Option W64)
  | array | mwt | commit | fence
  | flags (t : TrapInfo) (popped : Option W64)
  deriving DecidableEq, Repr

/-- One entry of the split table (R127), with the model's own marks: the stamp of its last issue (R130), the last word it
retired (R286), what it waits for, the siblings that a `YLD` still waits for (R138), the issue slots of its group that have
passed it over while it was ready (R130), the cause that its hold reports (R359, R360), and the record that it goes back to where
every word that has issued and is not complete is stopped unfinished (R161), with the stamps of the words that shifted its window
entries y0 to y3. -/
structure Split where
  st    : SplitState
  lpc   : W64
  mask  : LMask
  rep   : ReplayRec
  stamp : Nat
  flast : BitVec 26
  wait  : SplitWait
  yield : BitVec 8
  passed : Nat
  why   : Option Cause
  past  : ReplayRec := ReplayRec.empty
  pastAt : List Nat := [0, 0, 0, 0]
  deriving DecidableEq, Repr

/-- R128: a free entry. -/
def Split.freeEntry : Split :=
  { st := .free, lpc := 0, mask := 0, rep := ReplayRec.empty, stamp := 0, flast := 0, wait := .none, yield := 0,
    passed := 0, why := none }

/-- A place that a region reads or writes: a scratchpad offset, or a byte of a row of a table version, with the slot that
named it. The row is the byte address of its first byte in the table's row space, with its row id where it has one. -/
inductive Loc where
  | scratch (off : Nat)
  | table (slot : BitVec 6) (version : Nat) (rid : W64) (addr : Nat)
  deriving DecidableEq, Repr

/-- R207: one input of a region. -/
structure RegionIn where
  loc    : Loc
  bytes  : Nat
  signed : Bool
  value  : W64
  deriving DecidableEq, Repr

/-- R210: one constraint of a region. -/
structure Constraint where
  input   : Nat
  offset  : W64
  cond    : BitVec 4
  signed  : Bool
  tagLeft : Bool
  other   : W64
  outcome : Bool
  deriving DecidableEq, Repr

/-- R209: a tag: an input and a constant. -/
structure Tag where
  input  : Nat
  offset : W64
  deriving DecidableEq, Repr

/-- R215: a buffered store: untagged data, or an input and a constant. -/
structure RegionStore where
  loc   : Loc
  bytes : Nat
  tag   : Option Nat
  value : W64
  deriving DecidableEq, Repr

/-- R207, R209: an open region of a lane. -/
structure Region where
  fallback : W64
  inputs   : List RegionIn
  pins     : BitVec 8
  cons     : List Constraint
  stores   : List RegionStore
  count    : Nat
  rtags    : List (Nat × Tag)
  ltags    : List (Option Tag)
  deriving DecidableEq, Repr

/-- R192: an open cursor: the slot it was opened through (R289) and the version it resolved, its bounds, and the last (key, rid)
it returned. -/
structure Cursor where
  slot    : BitVec 6
  version : Nat
  lo      : Key
  hi      : Key
  last    : Option (Key × W64)
  deriving DecidableEq, Repr

/-- One lane of a group: registers (R14), predicates p0 to p6 (R141), sticky flags (R72), pending matrix flags (R254), the
latch window y0 to y3 (R59), cursors (R192), region (R207) and region status (R221). -/
structure Lane where
  regs   : List W64
  preds  : BitVec 7
  flags  : BitVec 5
  pend   : BitVec 5
  win    : List (Option W64)
  cur    : List (Option Cursor)
  region : Option Region
  rstat  : BitVec 8
  deriving DecidableEq, Repr

/-- R85, R335: a lane of a group that starts. -/
def Lane.reset (lregs : Nat) : Lane :=
  { regs := List.replicate lregs 0, preds := 0, flags := 0, pend := 0, win := [none, none, none, none],
    cur := [none, none, none, none], region := none, rstat := 0 }

/-- R248: the type tag of an accumulator tile. -/
inductive TileTag where
  | clear | f32 | i32
  deriving DecidableEq, Repr

/-- R248: an accumulator tile: 8 rows of 128 cells, row after row. -/
structure Tile where
  tag   : TileTag
  cells : List (BitVec 32)
  deriving DecidableEq, Repr

/-- R248: a tile as a group starts with it. -/
def Tile.zero : Tile := { tag := .clear, cells := List.replicate 1024 0 }

/-- R95: an entry of the loop stack; its addresses are kept whole (R46). -/
structure LoopEntry where
  start : W64
  stop  : W64
  count : W64
  depth : BitVec 16
  deriving DecidableEq, Repr

/-- R288: an entry of the deferred element fault record, as its three doublewords. -/
structure ElemEntry where
  d0 : W64
  d1 : W64
  d2 : W64
  deriving DecidableEq, Repr

/-- What holds the S-stream: nothing; a queue, at issue (R100, R103); `LWAIT` (R102); the implied `LWAIT` of `EXIT`, `BAR`
or `ERET`; a sleeping `CWAIT` with its counter and target (R230); an arrival at a barrier (R271); `SLEEP`, with the clk count
at which it ends (R295); a `KSWAP` that is being applied (R107); the reductions a fence point covers (R202); a job slot
(R225); the started jobs that the release half of a `FENCE` covers, once its fence point has passed (R269). -/
inductive Stall where
  | none | queue | lwait | implied
  | cwait (locator target : W64)
  | bar (id : BitVec 4)
  | sleep (until_ : Nat)
  | kswap | fence | job
  | release (jobs : List Nat)
  deriving DecidableEq, Repr

/-- R287: the done mask in force at the next issue of the word at `fpc` by a split. -/
structure SkipMask where
  entry : Nat
  fpc   : W64
  lanes : LMask
  deriving DecidableEq, Repr

/-- How a group ended (R338, R332). -/
inductive GroupEnd where
  | running | exited | killed
  deriving DecidableEq, Repr

/-- A pending asynchronous event of a group (R282): the deadline of TIMER. -/
inductive PendEvent where
  | timer (deadline : W64)
  deriving DecidableEq, Repr

/-- R140, R283: what a trap saves and empties besides the words of its frame: the overflow area; and the model's marks of the
splits and the block that the frame's layout does not hold. -/
structure Saved where
  ovf        : List Split
  ohead      : Nat
  splits     : List Split
  blockStart : BitVec 26
  blockSeq   : Nat
  deriving DecidableEq, Repr

/-- The scalar stream and the queues of a group (R85, R17). -/
structure SStream where
  s     : List W64
  pc    : W64
  loops : List LoopEntry
  depth : BitVec 16
  slast : BitVec 26
  stall : Stall
  uq    : List W64
  bq    : List W64
  dq    : List (BitVec 26)
  stamp : Nat
  deriving DecidableEq, Repr

/-- The lane stream of a group: the running block, the split table and its overflow area (R101, R127, R129), the uniform
registers (R142), MD (R68) and %alive (R93); the model's own counts of blocks started and blocks that an `LWAIT` has waited
for (R202). -/
structure LStream where
  running    : Bool
  blockStart : BitVec 26
  blockSeq   : Nat
  covered    : Nat
  splits     : List Split
  ovf        : List Split
  ohead      : Nat
  w          : List W64
  md         : BitVec 16
  alive      : LMask
  deriving DecidableEq, Repr

/-- The trap state and CSRs of a group (R282 to R292), with the deferred element fault record (R201, R288); `entry` is a trap
that waits for words of the group that have issued (R279). -/
structure TrapState where
  trapbase : BitVec 26
  cause    : BitVec 9
  traps    : BitVec 32
  frameId  : BitVec 32
  timer    : W64
  hsave    : List W64
  handler  : Bool
  frame    : List W64
  saved    : Saved
  skip     : Option SkipMask
  pending  : Option PendEvent
  entry    : Option TrapInfo
  elems    : List ElemEntry
  lost     : BitVec 32
  deriving DecidableEq, Repr

/-- A group: its streams, lanes, tiles and traps; the ns it has been resident up to `since` (R93); the `COPY` words it has
issued by tag (R232); how it ended; the cause of the debug stop that holds it (R359). -/
structure Group where
  S      : SStream
  L      : LStream
  lanes  : List Lane
  tiles  : List Tile
  T      : TrapState
  gtime  : W64
  copies : List (BitVec 8 × Nat)
  fin    : GroupEnd
  stopped : Option Cause
  deriving DecidableEq, Repr

/-! ### Workgroups, cores, engines -/

/-- Where a workgroup is (R300, R304, R306, R338); `leaving`: stopped by a service fault, its image not yet whole (R301). -/
inductive Place where
  | active | leaving | shadow | incoming | image | serviced | resumable | completed
  deriving DecidableEq, Repr

/-- What a service fault needs (R301): a slab of a table version, a descriptor, or a window. -/
inductive Need where
  | slab (version slab : Nat)
  | descriptor (id : BitVec 32)
  | window (index : Nat)
  deriving DecidableEq, Repr

/-- R301: an entry of a workgroup's service-fault list; `served`: it has been serviced, and its word has yet to issue again (R303). -/
structure ServiceEntry where
  group  : Nat
  split  : Option Nat
  pc     : W64
  cause  : Cause
  needs  : List Need
  served : Bool := false
  deriving DecidableEq, Repr

/-- R271: one of the 16 barriers: the groups that have arrived at its current instance, and those of the instance before
that have not departed yet. -/
structure Barrier where
  arrived : List Nat
  leaving : List Nat
  deriving DecidableEq, Repr

/-- R341: the resources of a workgroup that carry a world tag. -/
inductive TagKind where
  | regs | tiles | allot
  deriving DecidableEq, Repr

/-- R341: the world tags of a workgroup's lane registers, accumulator tiles and allotment, of their copies in the shadow bank, and of
what its image holds of them. -/
structure Tags where
  regs  : BitVec 16
  tiles : BitVec 16
  allot : BitVec 16
  deriving DecidableEq, Repr

/-- R341: one world's tag on everything. -/
def Tags.all (world : BitVec 16) : Tags := { regs := world, tiles := world, allot := world }

/-- R345: the purposes of derived keys. -/
inductive Purpose where
  | sealing | image | wrap | fabric | transfer | identity
  deriving DecidableEq, Repr

/-- R345: the name of a derived key: its tenant, period, purpose and context number. The key itself never leaves the key unit. -/
structure KeyName where
  tenant  : BitVec 64
  period  : BitVec 32
  purpose : Purpose
  context : Nat
  deriving DecidableEq, Repr

/-- A workgroup: its launch and linear index, level indices idx_1 to idx_7, whether it is a child task (R337), where it is
and what it holds there (R334), its allotment and its barriers. -/
structure Wg where
  launch : BitVec 32
  w      : Nat
  idx    : List (BitVec 32)
  child  : Bool
  place  : Place
  die    : Nat
  core   : Nat
  wslot  : BitVec 4
  gslots : BitVec 48
  sbase  : Nat
  size   : Nat
  scratch : Mem
  bars   : List Barrier
  groups : List Group
  faults : List ServiceEntry
  /-- R303: what stays held present until the faulting words have re-issued. -/
  holds  : List Need
  /-- R311: the core it last ran on; none after a service fault. -/
  ranOn  : Option Nat
  /-- R341: the world tags of its registers, tiles and allotment. -/
  tags   : Tags
  /-- R300, R345, R350: the key that its image is sealed under; none while it has no image. -/
  sealedBy : Option KeyName
  deriving DecidableEq, Repr

/-- R228: a counter as a locator names it: an offset in a workgroup's allotment, or a doubleword of a row of a table
version. -/
inductive Counter where
  | scratch (off : Nat)
  | table (slot : BitVec 6) (version : Nat) (addr : Nat)
  deriving DecidableEq, Repr

/-- R231, R236, R239: what one engine word brings to its job: the group that issued it, its place in the order of all engine
words, its descriptor, and its counter, resolved when the job starts. -/
structure Slice where
  group : Nat
  seq   : Nat
  d     : List W64
  ctr   : Counter
  deriving DecidableEq, Repr

/-- The kind of an engine job. -/
inductive JobKind where
  | copy (tag : BitVec 8) (n : Nat)
  | gather (tag : BitVec 8)
  | bload
  deriving DecidableEq, Repr

/-- Where a job stands (R225, R232, R242): issued and not started, started, complete. -/
inductive JobState where
  | forming | started | complete
  deriving DecidableEq, Repr

/-- A unit of a job that has been handled: a sector of a `COPY` by slice, receiver, row and sector; an element of a `GATHER` or a
line of a `BLOAD` by its number in `row`. -/
structure JobUnit where
  slice  : Nat
  recv   : Nat
  row    : Nat
  sec    : Nat
  deriving DecidableEq, Repr

/-- R227: sectors delivered for a counter of a job and not yet added. -/
structure Owed where
  slice : Nat
  recv  : Nat
  n     : Nat
  deriving DecidableEq, Repr

/-- An engine job (R225 to R245): its core, its workgroup, its slices (one but for `COPY`), the table version it resolved at its
start (R178), the index vector it read (R237), the units it has handled, what its counters are owed, and the entries it has written
into fault records (R241). -/
structure Job where
  core    : Nat
  wg      : Nat
  kind    : JobKind
  state   : JobState
  slices  : List Slice
  version : Option Nat
  keys    : List Key
  done    : List JobUnit
  owed    : List Owed
  bad     : List ElemEntry
  deriving DecidableEq, Repr

/-- R199, R200: a reduction in flight: who sent it, from which word, and what it does where. -/
structure Reduction where
  wg      : Nat
  group   : Nat
  blockSeq : Nat
  lanes   : LMask
  issuer  : LMask
  split   : Nat
  leader  : Nat
  lpc     : BitVec 26
  slot    : BitVec 6
  byRid   : Bool
  version : Nat
  key     : Key
  off     : Nat
  kind    : BitVec 4
  ty      : Ty
  value   : List Byte
  deriving DecidableEq, Repr

/-- R254: an active row of a quarter operation: its A base and its A exponent. -/
structure ARow where
  addr : Nat
  exp  : Nat
  deriving DecidableEq, Repr

/-- R254, R255: a quarter operation: whose it is, its split and word, its place in the group's issue order, the clk of its issue,
its tile, its quarter, its formats, its first B-line and its eight rows. -/
structure Quarter where
  wg    : Nat
  group : Nat
  split : Nat
  lpc   : BitVec 26
  stamp : Nat
  clk   : Nat
  tile  : Nat
  q     : Nat
  fa    : Nat
  fb    : Nat
  ow    : Bool
  line  : Nat
  rows  : List (Option ARow)
  deriving DecidableEq, Repr

/-- R336: an entry of a core's task queue. -/
structure TaskEntry where
  entry  : BitVec 26
  arg    : BitVec 38
  launch : BitVec 32
  idx    : List (BitVec 32)
  deriving DecidableEq, Repr

/-- R306: the states of a shadow bank. -/
inductive ShadowState where
  | empty | filling | ready | draining
  deriving DecidableEq, Repr

/-- A line of a row cache (R180): the 64-byte line of a version's row space as fetched, with the slot generations and live
bits fetched with it (R182). -/
structure CacheLine where
  version : Nat
  line    : Nat
  bytes   : List Byte
  slots   : List (Nat × BitVec 16 × Bool)
  deriving DecidableEq, Repr

/-- R246: a B-line with its world tag; lines not listed are zero with tag 0. -/
structure BLine where
  line  : Nat
  world : BitVec 16
  bytes : List Byte
  deriving DecidableEq, Repr

/-- R255: the pass that the array is taking: its first B-line, its B format, the clk of its first operation, and how many operations
have entered with it. -/
structure Pass where
  line  : Nat
  fb    : Nat
  clk   : Nat
  count : Nat
  deriving DecidableEq, Repr

/-- A core (R14): its row cache, matrix queue and pass (R255), operations that have entered the array and whose tiles are still busy
(R249), task queue (R336), slot table (R334) with whether dispatch has stopped reading it (R335), shadow bank (R306), a swap
asked for, stationary store (R246), the `ACOM` words that Equinox has taken or that wait for their turn, oldest first, by
workgroup, group and entry (R224), the ids whose next resolution on this core acquires (R278), the record that dispatch has refused
and reported to the scheduling core (R335). -/
structure Core where
  cache    : List CacheLine
  mq       : List Quarter
  pass     : Option Pass
  arr      : List Quarter
  tasks    : List TaskEntry
  slots    : List (List W64)
  slotStop : Bool
  shadow   : ShadowState
  swapReq  : Bool
  lines    : List BLine
  acoms    : List (Nat × Nat × Nat)
  due      : List (BitVec 32)
  refused  : Option (List W64)
  deriving DecidableEq, Repr

/-- A core at power-on (R369; DESIGN CHOICE, entry 16). -/
def Core.reset : Core :=
  { cache := [], mq := [], pass := none, arr := [], tasks := [], slots := [], slotStop := false, shadow := .empty, swapReq := false,
    lines := [], acoms := [], due := [], refused := none }

/-! ### Tables -/

/-- R164, R174: a descriptor. -/
structure Desc where
  id     : BitVec 32
  kind   : BitVec 3
  k128   : Bool
  multi  : Bool
  leaf   : BitVec 3
  homed  : Bool
  home   : BitVec 5
  width  : Nat
  owner  : BitVec 16
  nranges : Nat
  size   : Nat
  root   : W64
  nslabs : Nat
  slab0  : Nat
  ranges : List (BitVec 32)
  deriving DecidableEq, Repr

/-- R169: a row slot: generation and live bit. -/
structure RowSlot where
  gen  : BitVec 16
  live : Bool
  deriving DecidableEq, Repr

/-- R168, R173: a leaf: the lowest key that belongs to it (none for the first leaf), and its entries, rising. -/
structure Leaf where
  low     : Option (Key × W64)
  entries : List (Key × W64)
  deriving DecidableEq, Repr

/-- R349: what the key unit records of a sealed table: the seal period and the serial. -/
structure SealRec where
  period : BitVec 32
  serial : W64
  deriving DecidableEq, Repr

/-- A table version: descriptor and everything that stays with it at a `KSWAP` (R107, R178): row bytes by address in its row
space, row slots used so far with their generations (R169), the index (a HASH index or the leaves of an ORDERED one, and the
child counts of the inner levels above, lowest first), the free nodes (R171), slabs marked absent (R176), slabs whose owner
differs from the table's, the seal (R349), granules that cannot be corrected, and granules whose error the next access corrects
(R372). -/
structure Table where
  desc    : Desc
  rows    : Mem
  slots   : List (Nat × RowSlot)
  hash    : List (Key × W64)
  leaves  : List Leaf
  inner   : List (List Nat)
  pool    : Nat
  absent  : List Nat
  owners  : List (Nat × BitVec 16)
  /-- R176: the physical locators of slabs that have moved; a slab that has not has the locator of `Config.slabPlace`. -/
  moves   : List (Nat × W64)
  sealed  : Option SealRec
  bad     : List Nat
  weak    : List Nat
  retired : Bool
  deriving DecidableEq, Repr

/-! ### Kernels, launches, contexts, tenants -/

/-- R36: a kernel header. -/
structure Header where
  scratch : Nat
  accs    : Nat
  groups  : Nat
  nbind   : Nat
  lregs   : Nat
  lsize   : Nat
  ssize   : Nat
  psize   : Nat
  csize   : Nat
  deriving DecidableEq, Repr

/-- R165: a binding template. -/
structure Template where
  slot  : BitVec 6
  ro    : Bool
  id    : BitVec 32
  width : Nat
  kind  : Nat
  ktype : Nat
  deriving DecidableEq, Repr

/-- A loaded kernel (R36 to R39): its sections, the words of its two streams, and who loaded it. -/
structure Kernel where
  handle : BitVec 32
  world  : BitVec 16
  tenant : BitVec 64
  name   : List Byte
  header : Header
  scode  : List SWord
  lcode  : List LWord
  consts : List Byte
  temps  : List Template
  levels : List Byte
  test   : List Byte
  unloaded : Bool
  deriving DecidableEq, Repr

/-- R330: a binding of a launch: slot, table id, read-only. -/
structure Binding where
  slot : BitVec 6
  id   : BitVec 32
  ro   : Bool
  deriving DecidableEq, Repr

/-- R330: a dependence of a launch; `known`: of a producer that stayed behind when the launch's context moved, the last tile and the
tiles that were ready (R333, R350). -/
structure Dependence where
  producer : BitVec 32
  tile     : Bool
  cshift   : Nat
  base     : Nat
  known    : Option (Nat × List Nat) := none
  deriving DecidableEq, Repr

/-- R332: how a launch ended. -/
structure LaunchStatus where
  frame : BitVec 32
  err   : Bool
  inner : BitVec 8
  cause : BitVec 8
  deriving DecidableEq, Repr

/-- R353: the time-accounting record of eight doublewords. -/
structure Accounting where
  fields : List W64
  deriving DecidableEq, Repr

/-- A launch (R328 to R333): its record and entries, the copy of its parameter block, the workgroups started, the completed
ones, how many the counter has been moved by, and its end. -/
structure Launch where
  handle  : BitVec 32
  queue   : Nat
  prio    : Nat
  ctx     : BitVec 32
  kernel  : BitVec 32
  world   : BitVec 16
  extents : List Nat
  doms    : List Nat
  params  : List Byte
  counter : W64
  binds   : List Binding
  deps    : List Dependence
  tlimit  : Nat
  tshift  : Nat
  started : Option W64
  begun   : List Nat
  done    : List Nat
  counted : Nat
  status  : Option LaunchStatus
  acct    : Accounting
  test    : Bool
  /-- R353, R370: it waits on a storage or network transfer that the driver serves. -/
  io      : Bool
  deriving DecidableEq, Repr

/-- R325: a context: its tenant, world, bank key (R154), debug right (R362), DBGCTL (R292), breakpoints and watches (R360). -/
structure Context where
  handle  : BitVec 32
  tenant  : BitVec 64
  world   : BitVec 16
  bankKey : BitVec 32
  right   : Option Nat
  dbgctl  : BitVec 6
  breaks  : List (Nat × List W64)
  watches : List (Nat × List W64)
  ended   : Option LaunchStatus
  deriving DecidableEq, Repr

/-- R361: whom a count belongs to: a context, or, on a link, a tenant. -/
inductive MeterOf where
  | ctx (c : BitVec 32)
  | tenant (t : BitVec 64)
  deriving DecidableEq, Repr

/-- R361: the issue, stall and occupancy counters of a unit. -/
structure Meter where
  issued   : Nat
  stalled  : Nat
  resident : Nat
  deriving DecidableEq, Repr

/-- R345, R346: a tenant: its admission record, current period, the two secrets that its authority has delivered, and whether
it is retired. -/
structure Tenant where
  id       : BitVec 64
  record   : List Byte
  period   : BitVec 32
  fabric   : Option (List Byte)
  transfer : Option (List Byte)
  retired  : Bool
  deriving DecidableEq, Repr

/-- R327: a request that another module serves through this one comes from a link, on a virtual lane, under a number of its own. -/
structure Caller where
  link : Nat
  lane : Nat
  id   : Nat
  deriving DecidableEq, Repr

/-- R326: a session: the tenant it acts for, whether it is open, and the module that a request was passed on by (R327). -/
structure Session where
  id     : Nat
  tenant : BitVec 64
  isOpen : Bool
  caller : Option Caller := none
  deriving DecidableEq, Repr

/-- R343: the states of a window. -/
inductive WinState where
  | active | repair | revoked
  deriving DecidableEq, Repr

/-- R343: a window entry. -/
structure Window where
  owner   : BitVec 16
  grantee : BitVec 16
  table   : BitVec 32
  st      : WinState
  at_     : Bool
  wr      : Bool
  rd      : Bool
  lo      : W64
  hi      : W64
  deriving DecidableEq, Repr

/-- R344: a revocation notice sent to a module with accesses in flight under a window, on a link and a virtual lane. -/
structure Notice where
  id     : Nat
  window : Nat
  link   : Nat
  lane   : Nat
  acked  : Bool
  deriving DecidableEq, Repr

/-- R298, R301, R347: an entry of the module's event log: cause, the context or owner, a table id, and a detail; the workgroup
whose service time it still lacks. -/
structure LogEntry where
  cause  : Cause
  ctx    : BitVec 64
  table  : BitVec 32
  detail : W64
  wg     : Option Nat := none
  deriving DecidableEq, Repr

/-- R326: a reply sent to a client. -/
structure Reply where
  session : Nat
  op      : BitVec 16
  status  : BitVec 16
  req     : BitVec 64
  ctx     : BitVec 32
  body    : List Byte
  deriving DecidableEq, Repr

/-- R327: what a reply waits for. -/
inductive ReplyWait where
  | ready
  | ctxEnd (ctx : BitVec 32)
  | unload (kernel : BitVec 32)
  | retire (table : BitVec 32)
  | revoke (window : Nat)
  | grant (w : Window)
  | launchDone (launch : BitVec 32)
  | remote (link id : Nat)
  deriving DecidableEq, Repr

/-- R350: a sealed context image that has left (`sent`) or is to enter the module: what the transfer key makes of its heading, the
context, its launches with their kernels, its workgroups, and its unformed `COPY` jobs and queued tasks, which name workgroups by their
place here. -/
structure Transit where
  ctx      : BitVec 32
  handover : BitVec 32
  sent     : Bool
  sealing  : List Byte
  context  : Context
  launches : List Launch
  kernels  : List Kernel
  wgs      : List Wg
  jobs     : List Job
  tasks    : List (Nat × TaskEntry)
  confirmed : Bool
  deriving DecidableEq, Repr

/-- The resident driver's records (R325 to R344, R350, R361): module number (R93), kernels, queues (priority, and the tenant
a queue is opened to: none for every tenant), launches, contexts, tenants, the worlds that have been
given out with the tenants they were given to (R325), sessions, admitted window grants, notices, event log, replies sent and
replies held, the CLOCK value of the last Noon trigger and the snapshot registers that do not hold 0 (R361), images in transit, the
trap frames it keeps (R332), the running firmware image (R351), and what `llyn-fin` made of Vrelmufa sections, by check value
(R39). -/
structure Driver where
  module    : BitVec 13
  kernels   : List Kernel
  queues    : List (Nat × Nat × Option (BitVec 64))
  launches  : List Launch
  contexts  : List Context
  tenants   : List Tenant
  worlds    : List (BitVec 16 × BitVec 64)
  sessions  : List Session
  grants    : List (BitVec 64 × BitVec 16 × BitVec 16 × BitVec 32)
  notices   : List Notice
  log       : List LogEntry
  replies   : List Reply
  pend      : List (ReplyWait × Reply)
  noon      : Option W64
  snaps     : List (Nat × List (MeterOf × W64))
  transit   : List Transit
  frames    : List (BitVec 32 × List W64)
  firmware  : List Byte
  finals    : List (BitVec 32 × Option (List Byte))
  deriving DecidableEq, Repr

/-- Table memory of the module and what it reaches of other modules: the versions, the directory from ids to versions
(R163, R107), the ids of other modules whose descriptors have been fetched (R305), and the windows (R343). -/
structure TableMem where
  tables  : List Table
  dir     : List (BitVec 32 × Nat)
  held    : List (BitVec 32)
  windows : List (Nat × Window)
  deriving DecidableEq, Repr

/-- R355, R356: a packet that waits for the end of its clk: its type, gref, context and group, the split and the L-PC that the filter
rules test, and the bytes that follow its header; whether its word changes the split table, and, once the step that made it is over
(`noted`), what a SYNC would have said of the group before (R364). -/
structure Packet where
  ty     : Nat
  gref   : Nat
  ctx    : BitVec 32
  wg     : Option (Nat × Nat)
  split  : Option Nat
  lpc    : Option Nat
  body   : List Byte
  moves  : Bool
  before : Option (List (Nat × W64 × LMask))
  noted  : Bool
  deriving DecidableEq, Repr

/-- R354 to R358: a trace channel: its registers and ring buffer; the clk of the previous packet, the packets since the last
SYNC, the packets dropped, whether the SYNC that follows binding is still due, and the packets of this clk. -/
structure Trace where
  world   : BitVec 16
  base    : W64
  lg      : BitVec 5
  wr      : BitVec 32
  rd      : BitVec 32
  rules   : List (W64 × W64)
  buf     : Mem
  last    : Nat
  since   : Nat
  dropped : Nat
  first   : Bool
  pend    : List Packet
  deriving DecidableEq, Repr

/-- R354: the trace unit after power-on. -/
def Trace.reset : Trace :=
  { world := 0, base := 0, lg := 8, wr := 0, rd := 0, rules := List.replicate 16 (0, 0), buf := [], last := 0, since := 0,
    dropped := 0, first := false, pend := [] }

/-- A die: its resume queue (R304) and its trace unit (R354). -/
structure Die where
  resume : List Nat
  tr     : Trace
  deriving DecidableEq, Repr

/-- A die at power-on. -/
def Die.reset : Die := { resume := [], tr := Trace.reset }

/-- R347, R348: a flit that has been sent: its owner, its counter, its plaintext, its 256 bytes as sent, and its place in the order of
the link's first transmissions. -/
structure SentFlit where
  owner   : BitVec 64
  counter : W64
  plain   : Vector Byte 240
  bytes   : Vector Byte 256
  place   : Nat
  deriving DecidableEq, Repr

/-- R347, R348: one owner's traffic on a link: the next counter it sends, the next it expects, and the flits sent and not acknowledged. -/
structure LinkOwner where
  owner  : BitVec 64
  send   : W64
  expect : W64
  retry  : List SentFlit
  deriving DecidableEq, Repr

/-- R371: what an access to a table of another module does there, in one step: it reads bytes, writes them, adds to a doubleword, takes
the step of a `KAT` of a kind and type, or applies a reduction. -/
inductive FabOp where
  | load
  | store (data : List Byte)
  | add (n : Nat)
  | atomic (kind : Nat) (ty : Ty) (b c : Nat)
  | reduce (kind : Nat) (ty : Ty) (value : List Byte)
  deriving DecidableEq, Repr

/-- R371: an access to n bytes of a table of another module: of the row that a row id (true) or a key names, from an offset, or of its row
space, from a byte. -/
structure FabAccess where
  table : BitVec 32
  row   : Option (Bool × Key)
  at_   : Nat
  len   : Nat
  op    : FabOp
  deriving DecidableEq, Repr

/-- R344, R371: what one flit says: an access of a world; the reply, with a cause code, 0 for none, and bytes; a window fault; a
revocation notice; its acknowledgement; a client's request that the module of its table serves (R327), and the answer. Accesses and
replies, requests and answers are matched by a number of the issuer's. -/
inductive FabMsg where
  | request (id : Nat) (world : BitVec 16) (a : FabAccess)
  | reply (id : Nat) (code : BitVec 8) (data : List Byte)
  | windowFault (id : Nat)
  | notice (id window : Nat)
  | ack (id : Nat)
  | client (id : Nat) (m : Msg)
  | answer (id : Nat) (status : BitVec 16) (body : List Byte)
  deriving DecidableEq, Repr

/-- R344, R371: who waits for the reply to an access: the S word or the L word at a place, an event of an engine or a reduction, or
nobody. -/
inductive Asker where
  | stream (wg g : Nat) (pc : W64)
  | split (wg g e : Nat) (pc : W64)
  | unit (i : Instr)
  | nobody
  deriving DecidableEq, Repr

/-- R344, R371: an access that has gone out: its number, its owner and world, who waits for it, for which lane, where its bytes lie in
the version that stands for the table here, and the reply once it has come. -/
structure Ask where
  id    : Nat
  owner : BitVec 64
  world : BitVec 16
  who   : Asker
  lane  : Nat
  ver   : Nat
  addr  : Nat
  a     : FabAccess
  reply : Option (BitVec 8 × List Byte)
  deriving DecidableEq, Repr

/-- R347, R348, R371: a link: its owners, its fabric period, the authentication failures since the last accepted flit, the
virtual lanes that the peer's stop signals hold and those on which this end asserts one, whether it retrains, whether it has
failed, the messages that wait for their first transmission, by owner and virtual lane, the flits that wait to be sent again, the
flits put on the wire, how many flits it has sent for the first time, the plaintexts of the flits accepted, the NAKs sent, and the
accesses that nobody has yet taken the reply of. -/
structure Link where
  owners  : List LinkOwner
  period  : BitVec 32
  fails   : Nat
  stopped : BitVec 8
  full    : BitVec 8
  retrain : Bool
  failed  : Bool
  queue   : List (BitVec 64 × Nat × FabMsg)
  again   : List SentFlit
  wire    : List (BitVec 64 × W64 × Vector Byte 256)
  sent    : Nat
  took    : List (BitVec 64 × Vector Byte 240)
  naks    : Nat
  asks    : List Ask
  deriving DecidableEq, Repr

/-- A link at power-on. -/
def Link.reset : Link :=
  { owners := [], period := 0, fails := 0, stopped := 0, full := 0, retrain := false, failed := false, queue := [], again := [],
    wire := [], sent := 0, took := [], naks := 0, asks := [] }

/-- R367, R369: how far the module has come; `off`: powered down, or a boot that has stopped. -/
inductive BootState where
  | powerOn | refused | running | off
  deriving DecidableEq, Repr

/-- R13, R356: the clk count since boot, the part of a nanosecond that the clk count leaves (13 clk are 10 ns at full speed),
CLOCK, whether the arithmetic clock is lowered, the boot state, and the model's count of steps. -/
structure Clocks where
  clk   : Nat
  phase : Nat
  clock : W64
  slow  : Bool
  boot  : BootState
  steps : Nat
  deriving DecidableEq, Repr

/-! ### Writes that others may not see yet -/

/-- R263: a place that effects are made in: an allotment, the row space of a table version, the stationary store of a core. -/
inductive LateSpace where
  | scratch (wg : Nat)
  | rows (version : Nat)
  | lines (core : Nat)
  deriving DecidableEq, Repr

/-- R263 to R267: what may be ordered after a write: the S-stream of a group, the lanes of a split, a slice of a job, a quarter
operation by the stamp of its word, the reductions of a split and a block; and what carries order on: an entry of the dispatch queue
or of uq (or bq) by its place in the queue, a write, a unit of a space, the arrivals at a barrier and a departure from it, a
workgroup of a launch that has completed, the launch, a task of a core by its place, the exchange that installed an id, a fence that
waits for jobs, and an agent of another module. -/
inductive Holder where
  | stream (wg g : Nat)
  | lanes (wg g : Nat) (mask : LMask)
  | slice (job k : Nat)
  | quarter (wg g stamp : Nat)
  | reds (wg g seq : Nat) (mask : LMask)
  | block (wg g place : Nat)
  | entry (wg g : Nat) (up : Bool) (place : Nat)
  | write (id : Nat)
  | unit (space : LateSpace) (n : Nat)
  | bar (wg n : Nat)
  | depart (wg n g : Nat)
  | tile (launch : BitVec 32) (w : Nat)
  | launch (h : BitVec 32)
  | task (core place : Nat)
  | swap (id : BitVec 32)
  | fence (wg g : Nat)
  | foreign
  deriving DecidableEq, Repr

/-- R263: who makes an effect, and the core it is on. -/
structure Party where
  who  : Holder
  core : Nat
  deriving DecidableEq, Repr

/-- R265: a scope with the instance of it: its code, and the numbers that tell the instance from others. -/
structure ScopeAt where
  code : Nat
  inst : List Nat
  deriving DecidableEq, Repr

/-- R265 to R267, R269: how a write is known: it is ordered before, by local order alone or by a chain of pairs at one scope; its
value, or a later one of its granule, has been read; it was released at a scope to a write that has been read, which a fence may
acquire; or a fence has released it at a scope, to what is written later. -/
inductive How where
  | order (via : Option ScopeAt)
  | read
  | got (at_ : ScopeAt)
  | later (at_ : ScopeAt)
  deriving DecidableEq, Repr

/-- Who knows of a write, and how. -/
structure Known where
  who : Holder
  how : How
  deriving DecidableEq, Repr

/-- R265 to R267: a write to a granule (a sector, in the stationary store) while some party may still miss it: its number in the
order of writes, the bytes before it, and who knows of it. The writes of a granule stand in its total order (R157, R175). -/
structure Late where
  space : LateSpace
  unit  : Nat
  id    : Nat
  old   : List Byte
  known : List Known
  deriving DecidableEq, Repr

/-- One thing that the machine does in a step: the next S word of a group, the next L word of a split, an event, the trap of a word
whose flags are now known (R112), the last write to the image of a workgroup that a service fault has stopped (R301), the first
transmission of a message on a link (R348), the rekey that an owner's counter starts (R348), or room again in the buffer of a virtual
lane (R371). -/
inductive Turn where
  | sWord (wg g : Nat)
  | lWord (wg g e : Nat)
  | event (i : Instr)
  | flags (wg g : Nat)
  | imaged (wg : Nat)
  | transmit (link : Nat)
  | rekey (link : Nat) (owner : BitVec 64)
  | drain (link lane : Nat)
  deriving DecidableEq, Repr

/-- What arrives from outside: an event, the bytes of a client's message, a bind record that a scheduling core writes, a sealed
context image (R350), a table of another module as that module holds it, with its windows by
their numbers there (R343, R371; log entry 58); what the driver's firmware does on its own: it
sets a queue's priority and opens it to a tenant, or to all (R328), seals a table (R349), begins or ends a storage transfer that a
launch waits on (R370); and what faults do: a workgroup's resources under another world's tag (R341), a soft error in a granule of
a table, which can be corrected or not, one that can be corrected in another store, with the context whose state it is (R372). -/
inductive Input where
  | queue (q prio : Nat) (tenant : Option (BitVec 64))
  | sealing (table : BitVec 32)
  | storage (launch : BitVec 32) (on : Bool)
  | tag (wg : Nat) (t : Tags)
  | soft (table : BitVec 32) (granule : Nat) (corrected : Bool)
  | softState (ctx : BitVec 32)
  | remote (t : Table) (ws : List (Nat × Window))
  | image (t : Transit)
  | event (i : Instr)
  | msg (session : Nat) (bytes : List Byte)
  | record (core : Nat) (dws : List W64)
  deriving DecidableEq, Repr

/-- The agent whose word is executed: workgroup, group and split entry. -/
structure Who where
  wg : Nat
  g  : Nat
  e  : Nat
  deriving DecidableEq, Repr

/-- The model's own bookkeeping: inputs that have arrived, debug stops and holds that have been asked for (R359), turns that come
next whatever else could, the agent whose word is executed, the count of free values drawn, and of writes made (R267). -/
structure Ctl where
  inbox  : List Input
  asked  : List Instr
  agenda : List Turn
  who    : Who
  fresh  : Nat
  writes : Nat
  deriving DecidableEq, Repr

/-- The machine: one module. Workgroups, jobs, tables, launches, contexts and kernels are numbered by their place in their
list and stay there when they end. Cores (0 to 511, die times 16 plus core) and dies not listed are at reset. -/
structure State where
  time  : Clocks
  mem   : TableMem
  drv   : Driver
  wgs   : List Wg
  cores : List (Nat × Core)
  dies  : List (Nat × Die)
  jobs  : List Job
  reds  : List Reduction
  late  : List Late
  links : List (Nat × Link)
  meters : List (Nat × List (MeterOf × Meter))
  ctl   : Ctl
  deriving DecidableEq, Repr

/-- The reasons a step stops the machine. -/
inductive Fault where
  /-- Raised by every S or L word whose agent (workgroup, group, split) does not exist or does not run: no such word can be
  issued. Safe: the machine never issues one. -/
  | noAgent
  /-- Raised by `step` once the module has powered down (R367): nothing happens until power returns. Safe. -/
  | poweredDown
  deriving DecidableEq, Repr

/-- The reasons an instruction has no meaning here. -/
inductive Refusal where
  /-- Raised by an arm of the dispatch that has no meaning yet. Safe: nothing is claimed of it. -/
  | notModelled (mnemonic : String)
  deriving DecidableEq, Repr

/-- R369: the module at power-on, before Daybreak runs. Queue priorities and openings are the model's choice (entry 16). -/
def State.reset : State :=
  { time := { clk := 0, phase := 0, clock := 0, slow := false, boot := .powerOn, steps := 0 }
    mem := { tables := [], dir := [], held := [], windows := [] }
    drv := { module := 0, kernels := [], queues := [], launches := [], contexts := [], tenants := [], worlds := [],
             sessions := [], grants := [], notices := [], log := [], replies := [], pend := [], noon := none, snaps := [],
             transit := [], frames := [], firmware := [], finals := [] }
    wgs := []
    cores := []
    dies := []
    jobs := []
    reds := []
    late := []
    links := []
    meters := []
    ctl := { inbox := [], asked := [], agenda := [], who := { wg := 0, g := 0, e := 0 }, fresh := 0, writes := 0 } }

end Sys2Proof.Machine
end

