-- ==== Sys2Proof/Machine/Mem.lean ====
section
/-! DEFINITION. Byte memories in canonical form: reading, writing and clearing, little-endian (R6, R153, R157, R175). -/

namespace Sys2Proof.Machine

/-- The byte at an address; zero where nothing is listed (R153, R166, R171). -/
def memGet : Mem → Nat → Byte
  | [], _ => 0
  | (k, v) :: m, a => if a < k then 0 else if a = k then v else memGet m a

/-- Writes one byte, keeping addresses rising and no zero listed. -/
def memSet : Mem → Nat → Byte → Mem
  | [], a, b => if b = 0 then [] else [(a, b)]
  | (k, v) :: m, a, b =>
    if a < k then (if b = 0 then (k, v) :: m else (a, b) :: (k, v) :: m)
    else if a = k then (if b = 0 then m else (a, b) :: m)
    else (k, v) :: memSet m a b

/-- n bytes from an address. -/
def memRead (m : Mem) (a : Nat) : Nat → List Byte
  | 0 => []
  | n + 1 => memGet m a :: memRead m (a + 1) n

/-- Writes bytes from an address. -/
def memWrite (m : Mem) (a : Nat) : List Byte → Mem
  | [] => m
  | b :: bs => memWrite (memSet m a b) (a + 1) bs

/-- Zeroes n bytes from an address. -/
def memClear (m : Mem) (a n : Nat) : Mem := m.filter fun c => !(decide (a ≤ c.1) && decide (c.1 < a + n))

/-- The little-endian number of n bytes (R6). -/
def memNat (m : Mem) (a n : Nat) : Nat := bytesToNat (memRead m a n)

/-- The canonical form: addresses strictly rising, and no entry equal to what an unlisted address reads as. -/
def memWf : Mem → Bool
  | [] => true
  | [(_, v)] => v != 0
  | (k, v) :: (k', v') :: m => v != 0 && decide (k < k') && memWf ((k', v') :: m)

/-- Bytes as one 64-bit word. -/
def bytesToWord (bs : List Byte) : W64 := BitVec.ofNat 64 (bytesToNat bs)

/-- A word as n little-endian bytes. -/
def wordToBytes (n : Nat) (v : W64) : List Byte := natToBytes n v.toNat

/-- Doublewords from bytes, eight bytes each. -/
def bytesToWords : Nat → List Byte → List W64
  | 0, _ => []
  | n + 1, bs => bytesToWord (bs.take 8) :: bytesToWords n (bs.drop 8)

/-- The doubleword at an offset of a byte list. -/
def dwAt (bs : List Byte) (n : Nat) : W64 := bytesToWord ((bs.drop (8 * n)).take 8)

/-- Bits hi down to lo of a doubleword, as a number. -/
def bitsOf (v : W64) (hi lo : Nat) : Nat := (v.toNat / 2 ^ lo) % 2 ^ (hi + 1 - lo)

end Sys2Proof.Machine
end

