-- ==== Sys2Proof/Machine/Access.lean ====
section
/-! DEFINITION. Reading and writing the parts of the state: free values, list records by number, the agent of a word with its
group, workgroup, launch, kernel and context, scalar and lane registers, predicates, splits. -/

namespace Sys2Proof.Machine

/-! ### Free values -/

/-- The next free number, and the state with one more drawn. -/
def State.draw (s : State) : Nat × State :=
  (Config.freeNat s.ctl.fresh, { s with ctl := { s.ctl with fresh := s.ctl.fresh + 1 } })

/-- The first number not in use at or after `k`, cyclically between `lo` and `hi`; `k` itself where none is found. -/
def firstFree (used : List Nat) (lo hi : Nat) : Nat → Nat → Nat
  | 0, k => k
  | fuel + 1, k => if used.contains k then firstFree used lo hi fuel (if k < hi then k + 1 else lo) else k

/-- A free number between `lo` and `hi` that is not in use. -/
def State.drawUnused (s : State) (used : List Nat) (lo hi : Nat) : Nat × State :=
  let d := s.draw
  (firstFree used lo hi (used.length + 1) (lo + d.1 % (hi + 1 - lo)), d.2)

/-! ### Records by number -/

/-- The entry of a key in an association list. -/
def lookupNat {α : Type} (k : Nat) : List (Nat × α) → Option α
  | [] => none
  | (j, v) :: l => if j = k then some v else lookupNat k l

/-- Sets the entry of a key in an association list whose keys rise. -/
def insertNat {α : Type} (k : Nat) (v : α) : List (Nat × α) → List (Nat × α)
  | [] => [(k, v)]
  | (j, u) :: l => if k < j then (k, v) :: (j, u) :: l else if j = k then (k, v) :: l else (j, u) :: insertNat k v l

/-- A core, by die times 16 plus core number. -/
def State.core (s : State) (c : Nat) : Core := (lookupNat c s.cores).getD Core.reset

/-- Sets a core. -/
def State.setCore (s : State) (c : Nat) (v : Core) : State := { s with cores := insertNat c v s.cores }

/-- A die. -/
def State.die (s : State) (d : Nat) : Die := (lookupNat d s.dies).getD Die.reset

/-- Sets a die. -/
def State.setDie (s : State) (d : Nat) (v : Die) : State := { s with dies := insertNat d v s.dies }

/-- A link. -/
def State.link (s : State) (l : Nat) : Link := (lookupNat l s.links).getD Link.reset

/-- Sets a link. -/
def State.setLink (s : State) (l : Nat) (v : Link) : State := { s with links := insertNat l v s.links }

/-- Sets a workgroup. -/
def State.setWg (s : State) (w : Nat) (v : Wg) : State := { s with wgs := s.wgs.set w v }

/-- Changes a workgroup. -/
def State.modWg (s : State) (w : Nat) (f : Wg → Wg) : State := { s with wgs := s.wgs.modify w f }

/-- Changes a group of a workgroup. -/
def State.modGroup (s : State) (w g : Nat) (f : Group → Group) : State :=
  s.modWg w fun W => { W with groups := W.groups.modify g f }

/-- A group. -/
def State.group? (s : State) (w g : Nat) : Option Group := (s.wgs[w]?).bind fun W => W.groups[g]?

/-- Sets a group. -/
def State.setGroup (s : State) (w g : Nat) (v : Group) : State := s.modGroup w g fun _ => v

/-- A table version. -/
def State.table? (s : State) (v : Nat) : Option Table := s.mem.tables[v]?

/-- Changes a table version. -/
def State.modTable (s : State) (v : Nat) (f : Table → Table) : State :=
  { s with mem := { s.mem with tables := s.mem.tables.modify v f } }

/-- The version that an id names (R163, R178). -/
def State.versionOf (s : State) (id : BitVec 32) : Option Nat :=
  (s.mem.dir.find? fun p => p.1 == id).map (·.2)

/-- Changes a job. -/
def State.modJob (s : State) (j : Nat) (f : Job → Job) : State := { s with jobs := s.jobs.modify j f }

/-- A launch by its handle. -/
def State.launch? (s : State) (h : BitVec 32) : Option Launch := s.drv.launches.find? fun l => l.handle == h

/-- Changes a launch. -/
def State.modLaunch (s : State) (h : BitVec 32) (f : Launch → Launch) : State :=
  { s with drv := { s.drv with launches := s.drv.launches.map fun l => if l.handle == h then f l else l } }

/-- A context by its handle. -/
def State.context? (s : State) (h : BitVec 32) : Option Context := s.drv.contexts.find? fun c => c.handle == h

/-- Changes a context. -/
def State.modContext (s : State) (h : BitVec 32) (f : Context → Context) : State :=
  { s with drv := { s.drv with contexts := s.drv.contexts.map fun c => if c.handle == h then f c else c } }

/-- A kernel by its handle. -/
def State.kernel? (s : State) (h : BitVec 32) : Option Kernel := s.drv.kernels.find? fun k => k.handle == h

/-- Writes an entry of the module's event log (R298, R301). -/
def State.logEvent (s : State) (e : LogEntry) : State := { s with drv := { s.drv with log := s.drv.log ++ [e] } }

/-! ### The agent of a word -/

/-- A group with everything its words look up: its numbers, its workgroup, launch, kernel and context. -/
structure Env where
  w  : Nat
  g  : Nat
  W  : Wg
  G  : Group
  La : Launch
  K  : Kernel
  C  : Context
  deriving DecidableEq, Repr

/-- A group's environment, wherever its workgroup is. -/
def envAt (s : State) (w g : Nat) : Option Env := do
  let W ← s.wgs[w]?
  let G ← W.groups[g]?
  let La ← s.launch? W.launch
  let K ← s.kernel? La.kernel
  let C ← s.context? La.ctx
  pure { w := w, g := g, W := W, G := G, La := La, K := K, C := C }

/-- R279, R299, R338, R359: the group may issue: it is in the active bank, has not ended, no debug stop holds it, and no trap
waits to be entered. -/
def Env.issues (E : Env) : Bool :=
  E.W.place == .active && E.G.fin == .running && E.G.stopped.isNone && E.G.T.entry.isNone

/-- The environment of the word being executed, if its group may issue. -/
def envOf (s : State) : Option Env :=
  match envAt s s.ctl.who.wg s.ctl.who.g with
  | some E => if E.issues then some E else none
  | none => none

/-- The group as the state now holds it. -/
def Env.now (E : Env) (s : State) : Group := (s.group? E.w E.g).getD E.G

/-- The number of the core the workgroup is on. -/
def Wg.coreNo (W : Wg) : Nat := W.die * 16 + W.core

/-- %world (R93, R340). -/
def Env.world (E : Env) : BitVec 16 := E.La.world

/-- The group slot of a group: the g-th bit set in gslots (R334). -/
def Wg.slotOf (W : Wg) (g : Nat) : Nat :=
  ((List.range 48).filter fun i => W.gslots.getLsbD i).getD g 0

/-! ### Scalar registers -/

/-- R85: a scalar register; s0 reads as zero. -/
def Group.rS (G : Group) (n : BitVec 6) : W64 := if n = 0 then 0 else G.S.s.getD n.toNat 0

/-- R85: writes a scalar register; writes to s0 are discarded. -/
def Group.wS (G : Group) (n : BitVec 6) (v : W64) : Group :=
  if n = 0 then G else { G with S := { G.S with s := G.S.s.set n.toNat v } }

/-! ### Lanes -/

/-- A lane of a group. -/
def Group.lane (G : Group) (i : Nat) : Lane := G.lanes.getD i (Lane.reset 0)

/-- Changes every lane by number. -/
def Group.mapLanes (G : Group) (f : Nat → Lane → Lane) : Group := { G with lanes := G.lanes.mapIdx f }

/-- Lane i is in a mask. -/
def inMask (m : LMask) (i : Nat) : Bool := m.getLsbD i

/-- The mask of the lanes that a test holds on. -/
def maskOf (p : Nat → Bool) : LMask := BitVec.ofNat 32 (laneList.foldl (fun a i => if p i then a + 2 ^ i else a) 0)

/-- The lanes of a mask, ascending. -/
def lanesOf (m : LMask) : List Nat := laneList.filter (inMask m)

/-- The lowest lane of a mask. -/
def lowestLane (m : LMask) : Option Nat := laneList.find? (inMask m)

/-- A lane register. -/
def Lane.r (L : Lane) (n : Nat) : W64 := L.regs.getD n 0

/-- Writes a lane register. -/
def Lane.w (L : Lane) (n : Nat) (v : W64) : Lane := { L with regs := L.regs.set n v }

/-- R141: a predicate; p7 reads true. -/
def Lane.p (L : Lane) (n : BitVec 3) : Bool := if n = 7 then true else L.preds.getLsbD n.toNat

/-- R141: writes a predicate; p7 is never a destination (R48). -/
def Lane.wp (L : Lane) (n : BitVec 3) (v : Bool) : Lane :=
  if n = 7 then L
  else { L with preds := if v then L.preds ||| (1#7 <<< n.toNat) else L.preds &&& ~~~ (1#7 <<< n.toNat) }

/-- R60, R62: the latch window emptied. -/
def Lane.clearWin (L : Lane) : Lane := { L with win := [none, none, none, none] }

/-- R60: every window of the group emptied. -/
def Group.clearWins (G : Group) : Group := G.mapLanes fun _ L => L.clearWin

/-! ### Splits -/

/-- An entry of the split table. -/
def Group.split (G : Group) (e : Nat) : Split := G.L.splits.getD e Split.freeEntry

/-- Changes an entry of the split table. -/
def Group.modSplit (G : Group) (e : Nat) (f : Split → Split) : Group :=
  { G with L := { G.L with splits := G.L.splits.modify e f } }

/-- Changes every entry of the split table. -/
def Group.mapSplits (G : Group) (f : Nat → Split → Split) : Group :=
  { G with L := { G.L with splits := G.L.splits.mapIdx f } }

/-- R128: a split is live while its mask is nonzero. -/
def Split.live (p : Split) : Bool := p.mask != 0

/-- The entries of the split table, 0 to 7. -/
def entryList : List Nat := List.range 8

/-- The live entries of the table. -/
def Group.liveEntries (G : Group) : List Nat := entryList.filter fun e => (G.split e).live

/-- R129: the lowest free entry. -/
def Group.freeEntry? (G : Group) : Option Nat := entryList.find? fun e => (G.split e).st == .free

/-- R102: the L-stream is idle and the dispatch queue empty. -/
def Group.lanesDone (G : Group) : Bool := !G.L.running && G.S.dq.isEmpty

/-- The open region of a split: its lanes share one region state (R207), so the first that is open tells. -/
def Group.regionOf (G : Group) (m : LMask) : Option Region := (lanesOf m).findSome? fun i => (G.lane i).region

/-- A word that has issued and is not complete holds the split (R160, R223, R260). -/
def SplitWait.holds : SplitWait → Bool
  | .waitge _ _ | .commit | .mwt | .flags _ _ => true
  | .none | .queue | .array | .fence => false

/-- R128: an entry is in state 1 with live lanes, and no word that has issued holds it. -/
def Split.mayIssue (p : Split) : Bool := p.st == .ready && p.live && !p.wait.holds

/-- R279, R302: a word that has issued and that a stop waits for. -/
def SplitWait.finishes : SplitWait → Bool
  | .commit | .mwt => true
  | _ => false

/-- R112: a word that has issued and will trap. -/
def SplitWait.trapDue : SplitWait → Bool
  | .flags _ _ => true
  | _ => false

/-- R17, R112, R160: the uq entry that a word which has issued and is not complete has taken. -/
def SplitWait.took : SplitWait → Option W64
  | .waitge _ v | .flags _ v => v
  | _ => Option.none

/-- R17, R103: the uq entries that words which are not complete have taken, in the order of their issue; each keeps its place in
the queue until its word completes (log entry 57). -/
def Group.taken (G : Group) : List W64 :=
  let qs := G.L.splits.filterMap fun p => p.wait.took.map fun v => (p.stamp, v)
  (qs.foldl (fun l q => insertNat q.1 q.2 l) []).map (·.2)

/-- R279: words of the group have issued and have yet to complete. -/
def Group.inFlight (G : Group) : Bool := G.L.splits.any fun p => p.wait.finishes

/-! ### Scratchpad -/

/-- n bytes of a workgroup's allotment (R157). -/
def Wg.bytes (W : Wg) (a n : Nat) : List Byte := memRead W.scratch a n

/-- R64: an n-byte value widened to 64 bits by the signedness of its type. -/
def widen (signed : Bool) (n : Nat) (v : Nat) : W64 :=
  if signed && decide (2 ^ (8 * n - 1) ≤ v % 2 ^ (8 * n)) then BitVec.ofInt 64 ((v % 2 ^ (8 * n) : Nat) - 2 ^ (8 * n))
  else BitVec.ofNat 64 (v % 2 ^ (8 * n))

/-- R160: a waiting lane after write n - 1: satisfied where what it now finds is at or above its bound. -/
def WaitLane.look (n : Nat) (m : Mem) (q : WaitLane) : WaitLane :=
  match q.seen with
  | some _ => q
  | none =>
    let x := widen q.signed q.bytes (memNat m q.addr q.bytes)
    if (if q.signed then !x.slt q.bound else !x.ult q.bound) then { q with seen := some x, after := n } else q

/-- R160: what a split waits for, after a write. -/
def Split.look (n : Nat) (m : Mem) (p : Split) : Split :=
  match p.wait with
  | .waitge qs v => { p with wait := .waitge (qs.map (WaitLane.look n m)) v }
  | _ => p

/-- R157, R160: writes bytes of a workgroup's allotment, as write n - 1; every `WAITGE` of the workgroup that waits looks again. -/
def Wg.write (W : Wg) (n a : Nat) (bs : List Byte) : Wg :=
  let m := memWrite W.scratch a bs
  { W with scratch := m,
           groups := W.groups.map fun G => { G with L := { G.L with splits := G.L.splits.map (Split.look n m) } } }

end Sys2Proof.Machine
end

