-- ==== Sys2Proof/Machine/Keys.lean ====
section
/-! DEFINITION. The key tree (R345) and who holds a world (R325). -/

namespace Sys2Proof.Machine

/-! ### The key tree -/

/-- R345: the code of a purpose, and the bits of its keys. -/
def Purpose.code : Purpose → Nat × Nat
  | .sealing => (0x01, 512) | .image => (0x02, 256) | .wrap => (0x03, 256) | .fabric => (0x04, 256) | .transfer => (0x05, 256)
  | .identity => (0x10, 1024)

/-- R345: derives a key from a parent, for a tenant, a period, a purpose and a context number. -/
def deriveKey (parent : List Byte) (tenant : BitVec 64) (period : BitVec 32) (p : Purpose) (context : Nat) : List Byte :=
  let t := Config.kmac256 parent (natToBytes 8 tenant.toNat) 256 "BX3200 KDF tenant"
  let q := Config.kmac256 t.toList (natToBytes 4 period.toNat) 256 "BX3200 KDF period"
  (Config.kmac256 q.toList (natToBytes 1 p.code.1 ++ natToBytes 8 context) p.code.2 "BX3200 KDF purpose").toList

/-- R345: a key of the trees that grow from the module root. -/
def rootKey (tenant : BitVec 64) (period : BitVec 32) (p : Purpose) (context : Nat) : List Byte :=
  deriveKey Config.moduleRoot.toList tenant period p context

/-- An admitted tenant that has not been retired. -/
def State.tenant? (s : State) (id : BitVec 64) : Option Tenant := s.drv.tenants.find? fun t => t.id == id && !t.retired

/-- R345: a tenant's current period. -/
def State.periodOf (s : State) (tenant : BitVec 64) : BitVec 32 := ((s.tenant? tenant).map (·.period)).getD 0

/-- R300, R345: the key of a context's images under its tenant's current period. -/
def imageKey (s : State) (C : Context) : KeyName :=
  { tenant := C.tenant, period := s.periodOf C.tenant, purpose := .image, context := C.handle.toNat }

/-- R345, R350: the context number of a transfer key: the context id, then the handover number, 32 bits each. -/
def transferContext (ctx handover : BitVec 32) : Nat := ctx.toNat + 2 ^ 32 * handover.toNat

/-- R345, R350: the name of the transfer key of a context for a handover. -/
def transferName (T : Tenant) (ctx handover : BitVec 32) : KeyName :=
  { tenant := T.id, period := T.period, purpose := .transfer, context := transferContext ctx handover }

/-- R345, R350: what the transfer key of a context for a handover makes of the heading of its image, which AES-256-GCM authenticates,
where the tenant's transfer secret is at hand: the key opens what it has sealed. The rest of the ciphertext is not modelled
(log entry 33). -/
def transferSeal (T : Tenant) (ctx handover : BitVec 32) : Option (List Byte) :=
  T.transfer.map fun x =>
    Config.gcmSeal (deriveKey x T.id T.period .transfer (transferContext ctx handover)) []
      (natToBytes 4 ctx.toNat ++ natToBytes 4 handover.toNat)

/-! ### Worlds -/

/-- R325, R350: something keeps a world held: a context that runs in it here, a context that has left with it and has not been opened
yet, or a table that it owns. -/
def worldInUse (s : State) (w : BitVec 16) : Bool :=
  s.drv.contexts.any (fun c => c.world == w && c.ended.isNone) || s.mem.tables.any (fun t => t.desc.owner == w && !t.retired)
  || s.drv.transit.any fun t => t.sent && !t.confirmed && t.context.world == w

/-- R325: the tenant that holds a world. -/
def worldHolder (s : State) (w : BitVec 16) : Option (BitVec 64) :=
  if worldInUse s w then (s.drv.worlds.find? fun p => p.1 == w).map (·.2) else none

/-- R326: a tenant holds a world. -/
def holdsWorld (s : State) (tenant : BitVec 64) (w : BitVec 16) : Bool := worldHolder s w == some tenant

/-- R325: the worlds that are held. -/
def heldWorlds (s : State) : List Nat := ((s.drv.worlds.filter fun p => worldInUse s p.1).map (·.1)).map (·.toNat)

/-- R325: a world is given to a tenant. -/
def State.giveWorld (s : State) (w : BitVec 16) (tenant : BitVec 64) : State :=
  { s with drv := { s.drv with worlds := (w, tenant) :: s.drv.worlds.filter fun p => p.1 != w } }

/-- R345, R349: the seal pair of a table of a world: its owner's tenant, the seal period and the serial. -/
def sealKey (s : State) (owner : BitVec 16) (r : SealRec) : List Byte :=
  rootKey ((worldHolder s owner).getD 0) r.period .sealing r.serial.toNat

/-- R349: the tweak of a data unit: the serial, then the number of the unit. -/
def sealTweak (r : SealRec) (unit : Nat) : List Byte := natToBytes 8 r.serial.toNat ++ natToBytes 8 unit

end Sys2Proof.Machine
end

