-- ==== Sys2Proof/Machine/Late.lean ====
section
/-! DEFINITION. Which writes a party may miss: a read chooses freely among the values that its granule has had, back to the last write
that is ordered before it at some scope or that its stream has read before (R157, R240, R243, R256, R263 to R267; log entry 56). -/

namespace Sys2Proof.Machine

/-! ### Scopes -/

/-- R205, R269: an order has an acquire half. -/
def acquires : Order → Bool
  | .acq | .ar => true
  | _ => false

/-- R205, R269: an order has a release half. -/
def releases : Order → Bool
  | .rel | .ar => true
  | _ => false

/-- R19, R329: the widest level bound to the cluster. -/
def Launch.clusterLevel (La : Launch) : Option Nat :=
  ((List.range 6).reverse.find? fun j => La.doms.getD j 0 == 2 && decide (j + 2 < La.extents.length)).map (· + 2)

/-- R331: the workgroups in one instance of a level. -/
def Launch.instSize (La : Launch) (level : Nat) : Nat := ((La.extents.take level).drop 1).foldl (· * ·) 1

/-- R331: the linear index of the first workgroup of the instance that a workgroup lies in. -/
def instBase (La : Launch) (W : Wg) (level : Nat) : Nat :=
  ((List.range La.extents.length).filter fun i => decide (level ≤ i)).foldl
    (fun a i => a + (W.idx.getD (i - 1) 0).toNat * La.instSize i) 0

/-- R19, R265: the instance of a scope that holds a group; without a cluster level, a workgroup is its own cluster. -/
def Env.scopeAt (E : Env) (code : Nat) : ScopeAt :=
  { code := code
    inst := match code with
      | 0 => [E.w, E.g]
      | 1 => [E.w]
      | 2 => match E.La.clusterLevel with
             | some l => [E.La.handle.toNat, 0, instBase E.La E.W l]
             | none => [E.La.handle.toNat, 1, E.w]
      | 3 => [E.W.die]
      | _ => [] }

/-- R264: the scope `.dom`, which has one instance. -/
def domAll : ScopeAt := { code := 5, inst := [] }

/-! ### Parties -/

/-- R263: the S-stream of a group. -/
def Env.who (E : Env) : Holder := .stream E.w E.g

/-- R263: the S-stream of a group, on its core. -/
def Env.party (E : Env) : Party := { who := E.who, core := E.W.coreNo }

/-- R127: all lanes of a group. -/
def Env.allLanes (E : Env) : Holder := .lanes E.w E.g 0xFFFFFFFF

/-- R263: slice k of job n, on the job's core. -/
def Job.party (j : Job) (n k : Nat) : Party := { who := .slice n k, core := j.core }

/-- What one holder knows is known to the other: they are the same, or splits with a lane in common. -/
def Holder.meets : Holder → Holder → Bool
  | .lanes w g m, .lanes w' g' m' => w == w' && g == g' && m &&& m' != 0
  | .reds w g k m, .reds w' g' k' m' => w == w' && g == g' && k == k' && m &&& m' != 0
  | a, b => a == b

/-- The workgroup that a holder is part of. -/
def Holder.wg? : Holder → Option Nat
  | .stream w _ | .lanes w _ _ | .quarter w _ _ | .reds w _ _ _ | .block w _ _ | .entry w _ _ _ | .bar w _ | .depart w _ _
  | .fence w _ => some w
  | _ => none

/-! ### How order travels -/

/-- R266: order travels on by local order. -/
def How.ordered : How → Option How
  | .order v => some (.order v)
  | _ => none

/-- R105, R269: order, and what a later fence may acquire, travel to what comes after. -/
def How.past : How → Option How
  | .order v => some (.order v)
  | .got c => some (.got c)
  | _ => none

/-- R105, R269: order, and what an earlier fence has released, travel to blocks and jobs that are asked for. -/
def How.onward : How → Option How
  | .order v => some (.order v)
  | .later c => some (.later c)
  | _ => none

/-- R266: order travels through a pair at one scope and instance only. -/
def How.through (c : ScopeAt) : How → Option How
  | .order v => if v.all (· == c) then some (.order (some c)) else none
  | _ => none

/-- R269: a release of a fence holds for what is written later. -/
def How.release (c : ScopeAt) (h : How) : Option How := (h.through c).map fun _ => .later c

/-- R269: an acquire of a fence holds for what has been read. -/
def How.acquire (c : ScopeAt) : How → Option How
  | .got d => if d == c then some (.order (some c)) else none
  | _ => none

/-- R269: a write carries what a fence has released. -/
def How.carried : How → Option How
  | .later c => some (.order (some c))
  | _ => none

/-- R269: what a write carries is there for a fence after its read. -/
def How.offered : How → Option How
  | .order (some c) => some (.got c)
  | _ => none

/-- R267: a read that knows of a write in this way sees it. -/
def How.sees : How → Bool
  | .order _ | .read => true
  | _ => false

/-! ### Knowing of writes -/

/-- One more that knows of a write. -/
def Late.learn (l : Late) (k : Known) : Late := if l.known.contains k then l else { l with known := k :: l.known }

/-- What the holders of `p` know of a write, `b` knows as `f` turns it. -/
def Late.pass (p : Holder → Bool) (b : Holder) (f : How → Option How) (l : Late) : Late :=
  (l.known.filterMap fun k => if p k.who then (f k.how).map (Known.mk b) else none).foldl Late.learn l

/-- What the holders of `p` know, `b` knows as `f` turns it. -/
def State.passIf (s : State) (p : Holder → Bool) (b : Holder) (f : How → Option How) : State :=
  { s with late := s.late.map (Late.pass p b f) }

/-- What `a` knows, `b` knows as `f` turns it. -/
def State.pass (s : State) (a b : Holder) (f : How → Option How) : State := s.passIf (fun h => h.meets a) b f

/-- Holders change, or are no more. -/
def State.rename (s : State) (f : Holder → Option Holder) : State :=
  { s with late := s.late.map fun l => { l with known := l.known.filterMap fun k => (f k.who).map fun h => { k with who := h } } }

/-- A holder is no more. -/
def State.forgets (s : State) (a : Holder) : State := s.rename fun h => if h == a then none else some h

/-! ### Units -/

/-- R157, R175, R240: the bytes that are read and written indivisibly: a granule, or a sector of a B-line. -/
def LateSpace.unitBytes : LateSpace → Nat
  | .lines _ => 32
  | _ => 8

/-- The units that n bytes from `a` touch. -/
def LateSpace.units (sp : LateSpace) (a n : Nat) : List Nat :=
  (List.range ((a + n + sp.unitBytes - 1) / sp.unitBytes - a / sp.unitBytes)).map (· + a / sp.unitBytes)

/-- The write touches n bytes from `a` of a space. -/
def Late.touches (l : Late) (sp : LateSpace) (a n : Nat) : Bool :=
  l.space == sp && decide (a / sp.unitBytes ≤ l.unit) && decide (l.unit * sp.unitBytes < a + n)

/-- R265: the scope that an acquiring or a releasing half of an order names. -/
def Env.half (E : Env) (p : Order → Bool) (o : Order) (code : Nat) : Option ScopeAt := if p o then some (E.scopeAt code) else none

/-! ### Writes -/

/-- R263 to R267: a party is about to write n bytes from `a` of a space, whose bytes now are `was`; `rmw`: in one step with a read of
them (R265); `rel`: the scope at which the write releases. -/
def State.note (s : State) (p : Party) (sp : LateSpace) (a n : Nat) (was : Nat → Byte) (rmw : Bool := false)
    (rel : Option ScopeAt := none) : State :=
  if n = 0 then s else
  let z := sp.unitBytes
  let id := s.ctl.writes
  let us := sp.units a n
  let new := us.map fun u =>
    ({ space := sp, unit := u, id := id, old := (List.range z).map fun k => was (u * z + k)
       known := [{ who := p.who, how := .order none }] } : Late)
  let s : State := { s with late := s.late ++ new, ctl := { s.ctl with writes := id + 1 } }
  let s := s.pass p.who (.write id) How.carried
  let s := match rel with | some c => s.pass p.who (.write id) (How.through c) | none => s
  let s := if rmw then us.foldl (fun s u => s.pass (.unit sp u) (.write id) How.ordered) s else s
  us.foldl (fun s u => s.pass (.write id) (.unit sp u) How.ordered) s

/-- Everybody sees n bytes from `a` of a space from now on. -/
def State.sure (s : State) (sp : LateSpace) (a n : Nat) : State :=
  { s with late := s.late.filter fun l => !l.touches sp a n }

/-! ### Reads -/

/-- R265, R267: a party has read a unit as it was before write n; `acq`: the scope at which the read acquires. -/
def State.readAt (s : State) (p : Party) (sp : LateSpace) (n : Nat) (acq : Option ScopeAt) (u : Nat) : State :=
  match (s.late.filter fun l => l.space == sp && l.unit == u && decide (l.id < n)).getLast? with
  | none => s
  | some w =>
    let seen := fun (l : Late) =>
      if l.space == sp && l.unit == u && l.id == w.id then l.learn { who := p.who, how := .read } else l
    let s := ({ s with late := s.late.map seen } : State).pass (.write w.id) p.who How.offered
    match acq with
    | some c => s.pass (.write w.id) p.who (How.through c)
    | none => s

/-- R265: a party reads n bytes from `a` as they now are. -/
def State.readNow (s : State) (p : Party) (sp : LateSpace) (a n : Nat) (acq : Option ScopeAt := none) : State :=
  (sp.units a n).foldl (State.readAt · p sp s.ctl.writes acq) s

/-- R267: the writes to z bytes from `a` that a party may miss, the last first: those after the last that it must see. -/
def State.misses (s : State) (p : Party) (sp : LateSpace) (a z : Nat) : List Nat :=
  let ls := s.late.filter fun l => l.touches sp a z
  ((ls.map (·.id)).eraseDups.reverse).takeWhile fun i =>
    ls.all fun l => l.id != i || l.known.all fun k => !(k.who.meets p.who && k.how.sees)

/-- A byte of a unit as it was before write n; `now` as it is. -/
def State.byteAt (s : State) (sp : LateSpace) (n a : Nat) (now : Byte) : Byte :=
  match s.late.find? fun l => l.space == sp && l.unit == a / sp.unitBytes && decide (n ≤ l.id) with
  | some l => l.old.getD (a % sp.unitBytes) 0
  | none => now

/-- R267: a party reads piece g, of z bytes, of bytes from `a`, which now are `bs`: before a free choice of the writes that it may miss,
or as they are. -/
def State.lookAt (p : Party) (sp : LateSpace) (z a : Nat) (q : List Byte × State) (g : Nat) : List Byte × State :=
  let s := q.2
  let ids := s.misses p sp (g * z) z
  let d := if ids.isEmpty then (0, s) else s.draw
  let n := match d.1 % (ids.length + 1) with
    | 0 => s.ctl.writes
    | k + 1 => ids.getD k 0
  (q.1.mapIdx fun i b => if (a + i) / z = g then s.byteAt sp n (a + i) b else b,
   (sp.units (g * z) z).foldl (State.readAt · p sp n none) d.2)

/-- R267: a party reads bytes from `a`, which now are `bs`, in pieces of z bytes that are each read at one point of the order. -/
def State.look (s : State) (p : Party) (sp : LateSpace) (a : Nat) (bs : List Byte) (z : Nat := sp.unitBytes) : List Byte × State :=
  if s.late.any fun l => l.touches sp (a / z * z) (bs.length + z) then
    ((List.range ((a + bs.length + z - 1) / z - a / z)).map (· + a / z)).foldl (State.lookAt p sp z a) (bs, s)
  else (bs, s)

/-! ### Fences -/

/-- R269, R270: what the two halves of a fence of a holder order. -/
def State.fenced (s : State) (h : Holder) (acq rel : Option ScopeAt) : State :=
  let s := match acq with | some c => s.pass h h (How.acquire c) | none => s
  match rel with
  | some c => s.pass h h (How.release c)
  | none => s

/-! ### Streams -/

/-- R131: the splits of some lanes of a group have merged: what each knows, all know. -/
def State.mergeLate (s : State) (w g : Nat) (m : LMask) : State :=
  s.rename fun h => some (match h with
    | .lanes w' g' k => if w' = w ∧ g' = g ∧ k &&& m ≠ 0 then .lanes w g (k ||| m) else h
    | .reds w' g' q k => if w' = w ∧ g' = g ∧ k &&& m ≠ 0 then .reds w g q (k ||| m) else h
    | _ => h)

/-- R105: a block is asked for: it comes after what the S-stream has done. -/
def State.askBlock (s : State) (w g place : Nat) : State := s.pass (.stream w g) (.block w g place) How.onward

/-- R101, R105, R136: the block at the head of the dispatch queue begins, after the blocks before and after what it was asked for
behind. -/
def State.blockLate (s : State) (w g : Nat) : State :=
  ((s.mergeLate w g 0xFFFFFFFF).pass (.block w g 0) (.lanes w g 0xFFFFFFFF) How.onward).rename fun h =>
    match h with
    | .block w' g' k => if w' = w ∧ g' = g then (if k = 0 then none else some (.block w g (k - 1))) else some h
    | _ => some h

/-- R105: an `LWAIT` is over: what the blocks have done comes before what the S-stream does next. -/
def State.joinLanes (s : State) (w g : Nat) : State := s.pass (.lanes w g 0xFFFFFFFF) (.stream w g) How.past

/-- R105: the entry at a place of uq (or bq) has left. -/
def State.leaveEntry (s : State) (w g : Nat) (up : Bool) (place : Nat) : State :=
  s.rename fun h => match h with
    | .entry w' g' up' k =>
      if w' = w ∧ g' = g ∧ up' = up then (if k = place then none else some (.entry w g up (if place < k then k - 1 else k))) else some h
    | _ => some h

/-- R284: the queues of a group are emptied into its trap frame: the places of what they held are out of the way. -/
def State.shelveQueues (s : State) (w g : Nat) : State :=
  s.rename fun h => some (match h with
    | .block w' g' k => if w' = w ∧ g' = g then .block w g (k + 64) else h
    | .entry w' g' up k => if w' = w ∧ g' = g then .entry w g up (k + 64) else h
    | _ => h)

/-- R290: the queues of a group are as its trap frame gives them. -/
def State.unshelveQueues (s : State) (w g : Nat) : State :=
  s.rename fun h => match h with
    | .block w' g' k => if w' = w ∧ g' = g then (if k < 64 then none else some (.block w g (k - 64))) else some h
    | .entry w' g' up k => if w' = w ∧ g' = g then (if k < 64 then none else some (.entry w g up (k - 64))) else some h
    | _ => some h

/-! ### Workgroups -/

/-- R264, R275, R332: a workgroup of a launch has completed: everything that it has done comes before its flag and before the counter
of the launch. -/
def State.setTile (s : State) (w : Nat) (launch : BitVec 32) (tile : Option Nat) : State :=
  let mine := fun (h : Holder) => match h with
    | .slice n _ => (s.jobs[n]?).any fun j => j.wg == w
    | _ => h.wg? == some w
  let s := match tile with
    | some k => s.passIf mine (.tile launch k) (How.through domAll)
    | none => s
  s.passIf mine (.launch launch) How.ordered

/-- R338: a workgroup is gone, with its allotment. -/
def State.endLate (s : State) (w : Nat) : State :=
  ({ s with late := s.late.filter fun l => l.space != .scratch w } : State).rename fun h => if h.wg? == some w then none else some h

end Sys2Proof.Machine
end

