-- ==== Sys2Proof/Machine/Tables.lean ====
section
/-! DEFINITION. Table memory: slots and descriptors, rows and row ids, ownership and windows, the index engine, the row cache
(R163 to R184, R343). -/

namespace Sys2Proof.Machine

/-! ### Descriptors -/

/-- R164: kinds. -/
def kindArray : BitVec 3 := 0
def kindHash : BitVec 3 := 1
def kindOrdered : BitVec 3 := 2

/-- R166: rows of an ARRAY table, or capacity of another. -/
def Desc.rows (d : Desc) : Nat := d.size + 1

/-- R166: an ARRAY table. -/
def Desc.isArray (d : Desc) : Bool := d.kind == kindArray

/-- R168: the leaf capacity L. -/
def Desc.leafCap (d : Desc) : Nat := 8 * 2 ^ d.leaf.toNat

/-- R170: whole rows in a slab. -/
def Desc.perSlab (d : Desc) : Nat := 65536 / d.width

/-- R168: a key must be unique in the index. -/
def Desc.unique (d : Desc) : Bool := !(d.kind == kindOrdered && d.multi)

/-- R174: the format of a range entry: 0 Q8, 1 Q4, 2 exact cells. -/
def rangeFmt (r : BitVec 32) : Nat := (r.extractLsb' 30 2).toNat
/-- R174: the first byte of a range. -/
def rangeStart (r : BitVec 32) : Nat := 4 * (r.extractLsb' 16 14).toNat
/-- R174: the bytes of a range. -/
def rangeLen (r : BitVec 32) : Nat := 4 * (r.extractLsb' 0 15).toNat

/-- R174: the format ranges that the descriptor declares. -/
def Desc.fmtRanges (d : Desc) : List (BitVec 32) := d.ranges.take d.nranges

/-- R174, R188: `off` starts an exact cell inside an exact range. -/
def Desc.isCell (d : Desc) (off : Nat) : Bool :=
  d.fmtRanges.any fun r =>
    rangeFmt r == 2 && decide (rangeStart r ≤ off) && decide (off + 40 ≤ rangeStart r + rangeLen r)
      && (off - rangeStart r) % 40 == 0

/-- R170: the home die of a slab, counted from slab0. -/
def Desc.slabHome (d : Desc) (slab : Nat) : Nat := if d.homed then d.home.toNat else (slab + bitsOf (d.id.setWidth 64) 4 0) % 32

/-- R170: the home die of a key, whose index engine applies its changes. -/
def Desc.keyHome (d : Desc) (k : Key) : Nat :=
  if d.homed || d.kind == kindOrdered then d.home.toNat else Config.keyHash d.id k % 32

/-! ### Slots -/

/-- A bound slot: its binding and the version that its id resolves to now (R178). -/
structure Bound where
  slot : BitVec 6
  id   : BitVec 32
  ro   : Bool
  v    : Nat
  t    : Table
  deriving DecidableEq, Repr

/-- What a slot gives: nothing bound; a descriptor that firmware must fetch (R176); a table. -/
inductive SlotRes where
  | unbound
  | absent (id : BitVec 32)
  | bound (b : Bound)
  deriving DecidableEq, Repr

/-- R163: the module number of a table id. -/
def idModule (id : BitVec 32) : BitVec 13 := id.extractLsb' 19 13

/-- R305, R371: the descriptor of the id is at hand: it is of this module's directory, or it has been fetched. -/
def State.descHeld (s : State) (id : BitVec 32) : Bool := idModule id == s.drv.module || s.mem.held.contains id

/-- R330: the binding of a slot of a launch. -/
def Launch.binding (La : Launch) (slot : BitVec 6) : Option Binding := La.binds.find? fun b => b.slot == slot

/-- R163: the table that a binding's id names in the directory, whether or not its descriptor is at hand. -/
def State.named (s : State) (b : Binding) : Option Bound := do
  let v ← s.versionOf b.id
  let t ← s.table? v
  pure { slot := b.slot, id := b.id, ro := b.ro, v := v, t := t }

/-- R165, R175, R178: resolves a slot of a launch. -/
def slotOf (s : State) (La : Launch) (slot : BitVec 6) : SlotRes :=
  match La.binding slot with
  | none => .unbound
  | some b =>
    if !s.descHeld b.id then .absent b.id
    else
      match s.named b with
      | none => .unbound
      | some k => .bound k

/-! ### Rows -/

/-- A row: its row id (the key on an ARRAY table, R166), its number among the row slots, the byte address of its first byte in
the table's row space (R170), and whether it was judged live from the core's row-cache copy (R182). -/
structure Row where
  rid  : W64
  slot : Nat
  addr : Nat
  copy : Bool := false
  deriving DecidableEq, Repr

/-- R170: the row of a row slot number. -/
def Table.rowAt (t : Table) (rid : W64) (n : Nat) : Row :=
  { rid := rid, slot := n, addr := (n / t.desc.perSlab) * 65536 + (n % t.desc.perSlab) * t.desc.width }

/-- R166: the row of an ARRAY key. -/
def Table.arrayRow (t : Table) (k : W64) : Row := { rid := k, slot := k.toNat, addr := k.toNat * t.desc.width }

/-- R169: the row slot number that a row id names, if its slab is the table's and its row index in range. -/
def Table.slotNo (t : Table) (rid : W64) : Option Nat :=
  let slab := bitsOf rid 47 16
  let row := bitsOf rid 15 0
  if t.desc.slab0 ≤ slab ∧ slab < t.desc.slab0 + t.desc.nslabs ∧ row < t.desc.perSlab then
    some ((slab - t.desc.slab0) * t.desc.perSlab + row)
  else none

/-- R169: the row id of a row slot number and a generation. -/
def Table.ridOf (t : Table) (n : Nat) (gen : BitVec 16) : W64 :=
  gen ++ BitVec.ofNat 32 (t.desc.slab0 + n / t.desc.perSlab) ++ BitVec.ofNat 16 (n % t.desc.perSlab)

/-- R169: the row of a live row id. -/
def Table.liveRow (t : Table) (rid : W64) : Option Row := do
  let n ← t.slotNo rid
  let q ← lookupNat n t.slots
  if q.live && q.gen == rid.extractLsb' 48 16 then some (t.rowAt rid n) else none

/-- R168: the order of index entries: by key, then by row id where keys repeat. -/
def entryLt (a b : Key × W64) : Bool := decide (a.1.toNat < b.1.toNat) || (a.1 == b.1 && decide (a.2.toNat < b.2.toNat))

/-- Every index entry of a table, in index order for an ORDERED one. -/
def Table.entries (t : Table) : List (Key × W64) :=
  if t.desc.kind == kindHash then t.hash else t.leaves.flatMap (·.entries)

/-- R182: the index entry of a key: the lowest (key, rid) on a multi index. -/
def Table.lookup (t : Table) (k : Key) : Option W64 := (t.entries.find? fun e => e.1 == k).map (·.2)

/-- R182: the row that a key or a row id names, or the cause. -/
def Table.rowOf (t : Table) (byRid : Bool) (k : Key) : Except Cause Row :=
  if t.desc.isArray then
    if k.toNat < t.desc.rows then .ok (t.arrayRow (k.setWidth 64)) else .error .keyRange
  else if byRid then
    match t.liveRow (k.setWidth 64) with
    | some r => .ok r
    | none => .error .staleRid
  else
    match t.lookup k with
    | none => .error .keyAbsent
    | some rid =>
      match t.liveRow rid with
      | some r => .ok r
      | none => .error .staleRid

/-! ### Ownership, windows and residence -/

/-- The rights of R343. -/
inductive Right where
  | rd | wr | at_
  deriving DecidableEq, Repr

/-- R343: a window holds a right. -/
def Window.has (w : Window) : Right → Bool
  | .rd => w.rd
  | .wr => w.wr
  | .at_ => w.at_

/-- The id that names a version now (R163); the id under which it was created where none does. -/
def State.idOf (s : State) (v : Nat) (t : Table) : BitVec 32 :=
  ((s.mem.dir.find? fun p => p.2 == v).map (·.1)).getD t.desc.id

/-- What the check of an access finds. -/
inductive Check where
  | ok
  | fault (c : Cause)
  | service (c : Cause) (ns : List Need)
  deriving DecidableEq, Repr

/-- R170: the slabs, counted from slab0, that n bytes from an address touch. -/
def slabsOf (addr n : Nat) : List Nat :=
  if n = 0 then [] else (List.range ((addr + n - 1) / 65536 + 1 - addr / 65536)).map (· + addr / 65536)

/-- R341, R343: the owner of a slab. -/
def Table.slabOwner (t : Table) (slab : Nat) : BitVec 16 := (lookupNat slab t.owners).getD t.desc.owner

/-- R177, R343, R344: the owner and window check of world `x` on bytes lo to hi-1 of a slab owned by `y`. -/
def windowCheck (s : State) (id : BitVec 32) (y x : BitVec 16) (r : Right) (lo hi : Nat) : Check :=
  if x == y && y != 0 then .ok
  else
    let fits := s.mem.windows.filter fun p =>
      p.2.owner == y && p.2.grantee == x && p.2.table == id && p.2.has r
        && decide (p.2.lo.toNat ≤ lo) && decide (hi ≤ p.2.hi.toNat)
    if fits.any fun p => p.2.st == .active then .ok
    else
      match fits.find? fun p => p.2.st == .repair with
      | some p => .service .windowRepair [.window p.1]
      | none => if fits.isEmpty then .fault .notOwner else .fault .windowRevoked

/-- R343: the byte range of the window check: the bytes themselves on an ARRAY table, the whole table on another. -/
def Table.winRange (t : Table) (addr n : Nat) : Nat × Nat :=
  if t.desc.isArray then (addr, addr + n) else (0, 2 ^ 64 - 1)

/-- Joins two checks: a service fault comes before a fault (R183), and names all that is needed (R301). -/
def Check.join : Check → Check → Check
  | .service c n, .service _ m => .service c (n ++ m.filter fun q => !n.contains q)
  | .service c n, _ => .service c n
  | _, .service c n => .service c n
  | .fault c, _ => .fault c
  | .ok, r => r

/-- R176, R177, R183: residence and ownership of n bytes at an address of a table version. -/
def accessCheck (s : State) (v : Nat) (t : Table) (world : BitVec 16) (r : Right) (addr n : Nat) : Check :=
  (slabsOf addr n).foldl (fun acc slab =>
    let here : Check :=
      if t.absent.contains slab then .service .rowAbsent [.slab v slab]
      else
        let w := t.winRange addr n
        windowCheck s (s.idOf v t) (t.slabOwner slab) world r w.1 w.2
    acc.join here) .ok

/-- R372, R183: some granule of the bytes holds data that cannot be corrected. -/
def Table.badData (t : Table) (addr n : Nat) : Bool :=
  t.bad.any fun q => decide (addr / 8 ≤ q) && decide (q * 8 < addr + n)

/-! ### Row bytes and the row cache -/

/-- Row bytes as they stand at home. -/
def Table.bytes (t : Table) (addr n : Nat) : List Byte := memRead t.rows addr n

/-- R180: drops every row-cache line of a core (an acquire at `.clu` or wider). -/
def dropCache (s : State) (c : Nat) : State := s.setCore c { s.core c with cache := [] }

/-- R180: what an acquire at a scope drops: every row-cache line of its core at `.clu` and wider, nothing at `.grp` and `.wg`. -/
def dropFor (s : State) (o : Order) (code c : Nat) : State := if acquires o && decide (2 ≤ code) then dropCache s c else s

/-- R180, R269, R270: what a fence of a holder orders at a scope: its acquire half, then its release half. -/
def fencedAt (s : State) (E : Env) (h : Holder) (o : Order) (code : Nat) : State :=
  (dropFor s o code E.W.coreNo).fenced h (E.half acquires o code) (E.half releases o code)

/-- R264, R278: a party that resolves an id acquires at `.dom` from the `KSWAP` that installed its descriptor; the first time that its
core resolves it since then, the core drops its row-cache lines (R180). -/
def State.resolveId (s : State) (p : Party) (id : BitVec 32) : State :=
  let s := s.pass (.swap id) p.who (How.through domAll)
  if (s.core p.core).due.contains id then
    let s := dropCache s p.core
    s.setCore p.core { s.core p.core with due := (s.core p.core).due.filter fun k => k != id }
  else s

/-- R264, R278: a party resolves the descriptor that a slot of a launch names. -/
def State.resolve (s : State) (La : Launch) (p : Party) (slot : BitVec 6) : State :=
  match La.binding slot with
  | none => s
  | some b => s.resolveId p b.id

/-- R180, R268: drops a core's lines for bytes of a version. -/
def dropLines (s : State) (c v addr n : Nat) : State :=
  s.setCore c { s.core c with cache := (s.core c).cache.filter fun l =>
    !(l.version == v && decide (addr / 64 ≤ l.line) && decide (l.line * 64 < addr + n)) }

/-- The row slots whose rows touch a line, with their generations and live bits (R182). -/
def Table.lineSlots (t : Table) (line : Nat) : List (Nat × BitVec 16 × Bool) :=
  if t.desc.isArray then []
  else
    t.slots.filterMap fun q =>
      let a := (t.rowAt 0 q.1).addr
      if a < line * 64 + 64 ∧ line * 64 < a + t.desc.width then some (q.1, q.2.gen, q.2.live) else none

/-- R372: an access to bytes of a version corrects the errors that it meets, and each is logged as ECC_CORR. -/
def State.correct (s : State) (v addr n : Nat) : State :=
  match s.table? v with
  | none => s
  | some t =>
    if t.weak.isEmpty then s else
    let hit := fun (q : Nat) => decide (addr / 8 ≤ q) && decide (q * 8 < addr + n)
    let e : LogEntry := { cause := .eccCorr, ctx := 0, table := s.idOf v t, detail := 0 }
    ((t.weak.filter hit).foldl (fun s q => s.logEvent { e with detail := BitVec.ofNat 64 (8 * q) }) s).modTable v fun t =>
      { t with weak := t.weak.filter fun q => !hit q }

/-- R180: fetches a line into the row cache of a party's core, as the party sees it at home (R267); 256 KiB hold 4,096 lines. -/
def fillLine (s : State) (p : Party) (v line : Nat) : List Byte × State :=
  match s.table? v with
  | none => ([], s)
  | some t =>
    let s := s.correct v (line * 64) 64
    let q := s.look p (.rows v) (line * 64) (t.bytes (line * 64) 64)
    let l : CacheLine := { version := v, line := line, bytes := q.1, slots := t.lineSlots line }
    let rest := (q.2.core p.core).cache.filter fun k => !(k.version == v && k.line == line)
    (q.1, q.2.setCore p.core { q.2.core p.core with cache := (l :: rest).take 4096 })

/-- R182, R277: the line may serve a read of the row: its copy shows the row live in the rid's generation. An ARRAY row has
no row slot. -/
def CacheLine.serves (l : CacheLine) (t : Table) (r : Row) : Bool :=
  t.desc.isArray || l.slots.any fun q => q.1 == r.slot && q.2.1 == r.rid.extractLsb' 48 16 && q.2.2

/-- R180: reads bytes of one line, as the party sees them (R267): the core's copy serves where one is held that shows the row and has
not been replaced (a free choice), else home, which fetches the line. -/
def readLine (s : State) (p : Party) (v : Nat) (r : Row) (addr n : Nat) : List Byte × State :=
  match s.table? v with
  | none => ([], s)
  | some t =>
    let line := addr / 64
    let part := fun (bs : List Byte) => (bs.drop (addr % 64)).take n
    match (s.core p.core).cache.find? fun l => l.version == v && l.line == line && l.serves t r with
    | some _ =>
      let d := s.draw
      if d.1 % 2 = 0 then d.2.look p (.rows v) addr (t.bytes addr n)
      else
        let q := fillLine d.2 p v line
        (part q.1, q.2)
    | none =>
      let q := fillLine s p v line
      (part q.1, q.2)

/-- R180: reads n bytes of a row through the row cache, line by line; fuel counts the lines. -/
def readCached (s : State) (p : Party) (v : Nat) (r : Row) : Nat → Nat → Nat → List Byte × State
  | 0, _, _ => ([], s)
  | _, _, 0 => ([], s)
  | fuel + 1, addr, n =>
    let k := min n (64 - addr % 64)
    let a := readLine s p v r addr k
    let b := readCached a.2 p v r fuel (addr + k) (n - k)
    (a.1 ++ b.1, b.2)

/-- R182: n bytes as a core's own copies hold them. -/
def copyBytes (s : State) (c v addr n : Nat) : List Byte :=
  (List.range n).map fun i =>
    match (s.core c).cache.find? fun l => l.version == v && l.line == (addr + i) / 64 with
    | some l => l.bytes.getD ((addr + i) % 64) 0
    | none => 0

/-- R180, R182: reads n bytes of a row: from the copies that judged it live, which `s0` holds, or through the row cache. -/
def readRow (s0 s : State) (p : Party) (v : Nat) (r : Row) (addr n : Nat) : List Byte × State :=
  if r.copy then (copyBytes s0 p.core v addr n, s) else readCached s p v r 2 addr n

/-- R182: a read by row id that a row-cache line may still serve: the copy shows the row live. -/
def cachedLive (s : State) (c v : Nat) (t : Table) (rid : W64) (off n : Nat) : Option Row := do
  let k ← t.slotNo rid
  let r := t.rowAt rid k
  let lines := (List.range ((r.addr + off + n - 1) / 64 + 1 - (r.addr + off) / 64)).map (· + (r.addr + off) / 64)
  if lines.all fun q => (s.core c).cache.any fun l => l.version == v && l.line == q && l.serves t r then some r else none

/-- R182: the row that a read by key or row id names: judged at home, or, where it is not live there, by a free choice from the
core's copies. -/
def pickRow (s : State) (choice : Bool) (c v : Nat) (t : Table) (byRid : Bool) (k : Key) (off n : Nat) : Except Cause Row :=
  match t.rowOf byRid k with
  | .ok r => .ok r
  | .error e =>
    match if choice && byRid && !t.desc.isArray then cachedLive s c v t (k.setWidth 64) off n else none with
    | some r => .ok { r with copy := true }
    | none => .error e

/-- The bytes of a version's row space. -/
def State.rowByte (s : State) (v a : Nat) : Byte := ((s.table? v).map fun t => memGet t.rows a).getD 0

/-- R180, R189: writes row bytes at home and into the core's own line. -/
def putRow (s : State) (c v addr : Nat) (bs : List Byte) : State :=
  let s := s.modTable v fun t =>
    { t with rows := memWrite t.rows addr bs,
             bad := t.bad.filter fun q => !(decide (addr ≤ q * 8) && decide (q * 8 + 8 ≤ addr + bs.length)) }
  s.setCore c { s.core c with cache := (s.core c).cache.map fun l =>
    if l.version == v then
      { l with bytes := l.bytes.mapIdx fun i b =>
          let a := l.line * 64 + i
          if addr ≤ a ∧ a < addr + bs.length then bs.getD (a - addr) b else b }
    else l }

/-- R180, R267: a party stores row bytes; `rmw` where it has read them in the same step; `rel`: the scope that the store releases
at. -/
def storeRow (s : State) (p : Party) (v addr : Nat) (bs : List Byte) (rmw : Bool := false) (rel : Option ScopeAt := none) : State :=
  putRow (s.note p (.rows v) addr bs.length (s.rowByte v) rmw rel) p.core v addr bs

/-- R233: an engine's write of row bytes at home, which drops the core's own lines for them. -/
def storeRowDrop (s : State) (p : Party) (v addr : Nat) (bs : List Byte) : State :=
  dropLines ((s.note p (.rows v) addr bs.length (s.rowByte v)).modTable v fun t =>
    { t with rows := memWrite t.rows addr bs }) p.core v addr bs.length

/-! ### Tables of other modules -/

/-- R344, R371: a message of an owner waits for its first transmission on a virtual lane of a link, behind those before it. -/
def State.post (s : State) (link : Nat) (owner : BitVec 64) (lane : Nat) (msg : FabMsg) : State :=
  s.setLink link { s.link link with queue := (s.link link).queue ++ [(owner, lane % 8, msg)] }

/-- R343: the number by which other modules name a window of a module. -/
def windowNumber (module : BitVec 13) (i : Nat) : Nat := 4096 * (1 + module.toNat) + i

/-- R371: the link to the module of a table id. -/
def linkOf (id : BitVec 32) : Nat := Config.linkTo (idModule id).toNat % Config.links

/-- R371: an access to a table of another module: for a lane of a word, through a slot; where its bytes lie in the version that stands for
the table here. -/
structure Far where
  lane : Nat
  slot : BitVec 6
  ver  : Nat
  addr : Nat
  a    : FabAccess
  deriving DecidableEq, Repr

/-- R371: an access goes out, for a tenant and a world, on the link to the table's module. -/
def State.ask (who : Asker) (owner : BitVec 64) (world : BitVec 16) (s : State) (q : Far) : State :=
  let link := linkOf q.a.table
  let d := s.drawUnused ((s.link link).asks.map (·.id)) 0 (2 ^ 32 - 1)
  let ask : Ask := { id := d.1, owner := owner, world := world, who := who, lane := q.lane, ver := q.ver, addr := q.addr, a := q.a,
                     reply := none }
  (d.2.setLink link { d.2.link link with asks := (d.2.link link).asks ++ [ask] }).post link owner 0 (.request d.1 world q.a)

/-- R371: an access that this module has made to the copy of another module's table goes out to the module, and nobody waits for its
reply (log entry 58). -/
def State.tell (s : State) (owner : BitVec 64) (world : BitVec 16) (v addr len : Nat) (op : FabOp) : State :=
  match s.table? v with
  | none => s
  | some t =>
    let id := s.idOf v t
    if idModule id = s.drv.module then s
    else s.ask .nobody owner world { lane := 0, slot := 0, ver := v, addr := addr, a := { table := id, row := none, at_ := addr, len := len, op := op } }

/-- R303: what is needed is made present, and stays so. -/
def provide (s : State) (n : Need) : State :=
  match n with
  | .slab v slab => s.modTable v fun t => { t with absent := t.absent.filter fun k => k != slab }
  | .descriptor id =>
    if s.mem.held.contains id then s else { s with mem := { s.mem with held := s.mem.held ++ [id] } }
  | .window i =>
    let mend := fun (p : Nat × Window) => if p.1 = i ∧ p.2.st = .repair then (p.1, { p.2 with st := .active }) else p
    { s with mem := { s.mem with windows := s.mem.windows.map mend } }

/-- R176, R223: the resident driver has serviced what a job, a reduction or a commit waits for, or not yet: a free choice. -/
def driverServes (s : State) (needs : List Need) : State :=
  let d := s.draw
  if d.1 % 2 = 1 then needs.foldl provide d.2 else d.2

/-! ### The index engine -/

/-- Adds to the child count of the inner node that holds child p, in a level of inner nodes of at most `cap` children; the
second result is the place of a new node that a split made (R173). -/
def growLevel (cap : Nat) : List Nat → Nat → Nat → List Nat × Option Nat
  | [], _, _ => ([], none)
  | c :: cs, p, j =>
    if p < c then
      if c + 1 ≤ cap then ((c + 1) :: cs, none)
      else (((c + 2) / 2) :: (c + 1 - (c + 2) / 2) :: cs, some j)
    else
      let r := growLevel cap cs (p - c) (j + 1)
      (c :: r.1, r.2)

/-- R173: a new child after place p of the level below: inner levels from the lowest up, with the number of nodes made. -/
def growInner (cap : Nat) : List (List Nat) → Nat → List (List Nat) × Nat
  | [], _ => ([[2]], 1)
  | lvl :: up, p =>
    let r := growLevel cap lvl p 0
    match r.2 with
    | none => (r.1 :: up, 0)
    | some j =>
      let q := growInner cap up j
      (r.1 :: q.1, q.2 + 1)

/-- R168: inserts an entry into a rising list. -/
def insertEntry (e : Key × W64) : List (Key × W64) → List (Key × W64)
  | [] => [e]
  | x :: xs => if entryLt e x then e :: x :: xs else x :: insertEntry e xs

/-- R168: an entry lies below a separator: by key on a unique index, by (key, rid) on a `multi` one. -/
def belowLow (unique : Bool) (e low : Key × W64) : Bool := if unique then decide (e.1.toNat < low.1.toNat) else entryLt e low

/-- R168: the leaf that an entry belongs to: the last whose separator is not above it. -/
def leafIndex (unique : Bool) (ls : List Leaf) (e : Key × W64) : Nat :=
  (ls.filter fun l => match l.low with | none => true | some x => !belowLow unique e x).length - 1

/-- R171, R173: the index with one more entry, and the nodes that this makes. -/
def Table.addEntry (t : Table) (e : Key × W64) : Table × Nat :=
  if t.desc.kind == kindHash then ({ t with hash := t.hash ++ [e] }, 0)
  else
    let p := leafIndex t.desc.unique t.leaves e
    let l := t.leaves.getD p { low := none, entries := [] }
    let es := insertEntry e l.entries
    if es.length ≤ t.desc.leafCap then ({ t with leaves := t.leaves.set p { l with entries := es } }, 0)
    else
      let k := (es.length + 1) / 2
      let right : Leaf := { low := (es.drop k).head?, entries := es.drop k }
      let ls := t.leaves.take p ++ [{ l with entries := es.take k }, right] ++ t.leaves.drop (p + 1)
      let g := growInner (2 * t.desc.leafCap) t.inner p
      ({ t with leaves := ls, inner := g.1 }, g.2 + 1)

/-- R171: the index without an entry; no node is merged or freed. -/
def Table.dropEntry (t : Table) (e : Key × W64) : Table :=
  if t.desc.kind == kindHash then { t with hash := t.hash.erase e }
  else { t with leaves := t.leaves.map fun l => { l with entries := l.entries.erase e } }

/-- R171: live rows. -/
def Table.liveCount (t : Table) : Nat := (t.slots.filter fun q => q.2.live).length

/-- R169, R171: row slots that cannot take a row: live, or retired at generation 0xFFFF. -/
def Table.usedSlots (t : Table) : List Nat :=
  (t.slots.filter fun q => q.2.live || q.2.gen == 0xFFFF).map (·.1)

/-- R176: the row slots of the slabs that are marked absent. -/
def Table.absentSlots (t : Table) : List Nat :=
  t.absent.flatMap fun slab => (List.range t.desc.perSlab).map fun k => slab * t.desc.perSlab + k

/-- R171, R176: row slots that an insert cannot take: used ones, and those of absent slabs. -/
def Table.takenSlots (t : Table) : List Nat :=
  let used := t.usedSlots
  used ++ t.absentSlots.filter fun n => !used.contains n

/-- R176, R301: the absent slabs whose lowest free row slots n inserts need where no slab that is present has one. -/
def Table.neededSlabs (t : Table) (n : Nat) : List Nat :=
  let used := t.usedSlots
  (((t.absentSlots.filter fun k => !used.contains k).take n).map (· / t.desc.perSlab)).eraseDups

/-- What an insert does: the key is there; it fails; it needs a row slot of an absent slab; it is done. -/
inductive InsertRes where
  | present (rid : W64)
  | absent
  | full (c : Cause)
  | done (rid : W64) (addr : Nat) (s : State)
  deriving DecidableEq, Repr

/-- R171: one insert at the index engine: the row slot it takes and the first generation of an unused slot are free. The new
row is zero. -/
def insertRow (s : State) (v : Nat) (k : Key) : InsertRes :=
  match s.table? v with
  | none => .full .tableFull
  | some t =>
    match if t.desc.unique then t.lookup k else none with
    | some rid => .present rid
    | none =>
      let total := t.desc.nslabs * t.desc.perSlab
      let used := t.usedSlots
      if t.desc.rows ≤ t.liveCount ∨ total ≤ used.length then .full .tableFull
      else if total ≤ t.takenSlots.length then .absent
      else
        let d := s.drawUnused t.takenSlots 0 (total - 1)
        let f := d.2.draw
        let gen := match lookupNat d.1 t.slots with
          | some q => q.gen
          | none => BitVec.ofNat 16 (1 + f.1 % 0xFFFE)
        let rid := t.ridOf d.1 gen
        let r := t.addEntry (k, rid)
        if t.pool < r.2 then .full .indexFull
        else
          let row := t.rowAt rid d.1
          let t' := { r.1 with pool := t.pool - r.2, slots := insertNat d.1 { gen := gen, live := true } t.slots,
                               rows := memClear t.rows row.addr t.desc.width }
          .done rid row.addr ((f.2.sure (.rows v) row.addr t.desc.width).modTable v fun _ => t')

/-- R171, R169: one delete at the index engine: the entry goes, the live bit is cleared and the generation advances. -/
def deleteRow (s : State) (v : Nat) (e : Key × W64) (r : Row) : State :=
  s.modTable v fun t =>
    let gen := ((lookupNat r.slot t.slots).map (·.gen)).getD 0
    { t.dropEntry e with slots := insertNat r.slot { gen := gen + 1, live := false } t.slots }

/-- The index entry of a live row. -/
def Table.entryOf (t : Table) (rid : W64) : Option (Key × W64) := t.entries.find? fun e => e.2 == rid

end Sys2Proof.Machine
end

