-- ==== Sys2Proof/Machine/Trace.lean ====
section
/-! DEFINITION. The trace unit of a die: packets, which wait for the end of their clk, filter rules, SYNC and LOSS (R354 to R358, R364),
and the Noon trigger (R361). -/

namespace Sys2Proof.Machine

/-- Unsigned LEB128 (R356), with fuel for the number of bytes. -/
def leb128 : Nat → Nat → List Byte
  | 0, _ => []
  | fuel + 1, n => if n < 128 then [BitVec.ofNat 8 n] else BitVec.ofNat 8 (128 + n % 128) :: leb128 fuel (n / 128)

/-- R356: the bytes of a packet, given the clk since the previous packet written. -/
def packetBytes (ty delta : Nat) (body : List Byte) : List Byte :=
  BitVec.ofNat 8 (ty * 32 + min delta 31) :: (if delta < 31 then [] else leb128 20 delta) ++ body

/-- R356: gref. -/
def grefBytes (core slot : Nat) : List Byte := natToBytes 2 (core * 64 + slot)

/-- R355: free bytes of the ring. -/
def Trace.free (t : Trace) : Nat :=
  let size := 2 ^ t.lg.toNat
  (t.rd.toNat + 2 * size - t.wr.toNat % size - 1) % size

/-- Writes bytes at wr, modulo the size of the ring (R355). -/
def Trace.ring (t : Trace) : List Byte → Trace
  | [] => t
  | b :: bs =>
    let size := 2 ^ t.lg.toNat
    Trace.ring { t with buf := memSet t.buf (t.wr.toNat % size) b, wr := BitVec.ofNat 32 ((t.wr.toNat + 1) % size) } bs

/-- R355: writes a packet whole where it fits; else, and until a LOSS has been written, drops and counts it. -/
def Trace.put (t : Trace) (clk ty : Nat) (body : List Byte) : Trace :=
  let bs := packetBytes ty (clk - t.last) body
  if t.dropped = 0 ∧ bs.length ≤ t.free then
    { t.ring bs with last := clk, since := if ty = 5 then 0 else t.since + 1 }
  else { t with dropped := t.dropped + 1 }

/-- R354: the group's packets enter the channel of its die. -/
def traced (s : State) (E : Env) : Bool :=
  E.C.dbgctl.getLsbD 5 && (s.die E.W.die).tr.world == E.world && E.world != 0

/-! ### SYNC -/

/-- R356: what a SYNC says of a group: its live entries with their L-PCs and masks. -/
def Group.liveRecords (G : Group) : List (Nat × W64 × LMask) := G.liveEntries.map fun e => (e, (G.split e).lpc, (G.split e).mask)

/-- R356: what a SYNC would say of group g of workgroup w now; none where it is not traced, or no block runs. -/
def syncRecord (s : State) (w g : Nat) : Option (List (Nat × W64 × LMask)) :=
  match envAt s w g with
  | some E => if E.W.place == .active && traced s E && E.G.L.running then some E.G.liveRecords else none
  | none => none

/-- R356, R364: the groups that a SYNC lists, in gref order: every traced group of the die with a block running, as it stands; of a
group with packets of this clk that are not written yet, as it stood before the word of the first. -/
def syncGroups (s : State) (d : Nat) : List (Nat × List (Nat × W64 × LMask)) :=
  let held := (s.die d).tr.pend.filter (·.moves)
  let early := fun (w g : Nat) => held.find? fun p => p.wg == some (w, g)
  let all := (List.range s.wgs.length).flatMap fun w =>
    match s.wgs[w]? with
    | none => []
    | some W =>
      if W.die == d then
        (List.range W.groups.length).filterMap fun g =>
          match early w g with
          | some p => p.before.map fun r => (p.gref, r)
          | none => (syncRecord s w g).map fun r => (W.core * 64 + W.slotOf g, r)
      else []
  (List.range 1024).flatMap fun r => all.filter fun p => p.1 == r

/-- R356: the body of a SYNC. -/
def syncBody (s : State) (d : Nat) : List Byte :=
  let gs := syncGroups s d
  natToBytes 8 s.time.clk ++ natToBytes 8 s.time.clock.toNat ++ natToBytes 1 gs.length ++
    gs.flatMap fun p =>
      natToBytes 2 p.1 ++ natToBytes 1 (p.2.foldl (fun a e => a + 2 ^ e.1) 0) ++
      p.2.flatMap fun e => natToBytes 4 e.2.1.toNat ++ natToBytes 4 e.2.2.toNat

/-- R355: the SYNC at count 256 is due. -/
def Trace.syncDue (t : Trace) : Bool := t.world != 0 && t.dropped == 0 && decide (255 ≤ t.since)

/-- R355: writes the SYNC that is due. -/
def traceSync (s : State) (d : Nat) : State :=
  let D := s.die d
  if D.tr.syncDue then s.setDie d { D with tr := D.tr.put s.time.clk 5 (syncBody s d) } else s

/-- R355, R364: the SYNC that opens a channel, ahead of its first event, with delta 0. -/
def traceOpen (s : State) (d : Nat) : State :=
  let D := s.die d
  if D.tr.first && D.tr.world != 0 then
    let t := ({ D.tr with last := s.time.clk } : Trace).put s.time.clk 5 (syncBody s d)
    s.setDie d { D with tr := { t with first := false } }
  else s

/-- R355: a LOSS is due, and fits together with the SYNC that follows it. -/
def lossFits (s : State) (d : Nat) : Bool :=
  let t := (s.die d).tr
  t.world != 0 && t.dropped != 0
  && decide ((packetBytes 6 (s.time.clk - t.last) (natToBytes 4 (min t.dropped 0xFFFFFFFF))).length
      + (packetBytes 5 0 (syncBody s d)).length ≤ t.free)

/-- R355: writes LOSS and SYNC once both fit together. -/
def traceLoss (s : State) (d : Nat) : State :=
  let D := s.die d
  let t := D.tr
  if lossFits s d then
    let l := packetBytes 6 (s.time.clk - t.last) (natToBytes 4 (min t.dropped 0xFFFFFFFF))
    let y := packetBytes 5 0 (syncBody s d)
    s.setDie d { D with tr := { (t.ring l).ring y with last := s.time.clk, since := 0, dropped := 0, first := false } }
  else s

/-! ### Rules and triggers -/

/-- R358: whether a rule matches a packet. -/
def ruleMatches (r : W64 × W64) (p : Packet) : Bool :=
  let d := r.1
  let lo := bitsOf d 25 0
  let hi := bitsOf r.2 57 32
  d.getLsbD 63 && d.getLsbD (53 + p.ty)
  && (!d.getLsbD 52 || p.gref / 64 == bitsOf d 51 48)
  && (!d.getLsbD 47 || p.gref % 64 == bitsOf d 46 41)
  && (!d.getLsbD 40 || p.split == some (bitsOf d 39 37))
  && (match p.lpc with
      | some x => decide (lo ≤ x) && decide (x ≤ hi)
      | none => lo == 0 && hi == 0x3FFFFFF)

/-- R358: adds 1 to a rule's count, saturating. -/
def ruleCount (r : W64 × W64) : W64 × W64 :=
  (r.1, if r.2.extractLsb' 0 32 = BitVec.allOnes 32 then r.2 else r.2 + 1)

/-- R361: the units that count: for core c, units 5c to 5c + 4 are the core itself, its row cache, copy engine, gather engine and load
port; then one for each link, and one for the index engine of each die. -/
def unitCount : Nat := 5 * Config.cores + Config.links + Config.dies

/-- R361: the snapshot registers: three for each unit, its issues, its stalls and its occupancy (log entry 50). -/
def snapRegs : Nat := 3 * unitCount

/-- R361: a count of a meter. -/
def Meter.count (m : Meter) : Nat → Nat
  | 0 => m.issued
  | 1 => m.stalled
  | _ => m.resident

/-- R361: the counts of a unit, for each that they belong to. -/
def State.metersOf (s : State) (unit : Nat) : List (MeterOf × Meter) := (lookupNat unit s.meters).getD []

/-- R361: the meter of a unit for one that it counts for. -/
def State.meterOf (s : State) (unit : Nat) (o : MeterOf) : Meter :=
  (((s.metersOf unit).find? fun p => p.1 == o).map (·.2)).getD { issued := 0, stalled := 0, resident := 0 }

/-- R361: a unit counts. -/
def State.meter (s : State) (unit : Nat) (o : MeterOf) (f : Meter → Meter) : State :=
  { s with meters := insertNat unit ((o, f (s.meterOf unit o)) :: (s.metersOf unit).filter fun p => p.1 != o) s.meters }

/-- R361: what register k records: the counts as they stand, each with the one that it belongs to. -/
def snapCount (s : State) (k : Nat) : List (MeterOf × W64) :=
  (s.metersOf (k / 3)).map fun p => (p.1, BitVec.ofNat 64 (p.2.count (k % 3)))

/-- R361: latches the snapshot registers; a trigger within 1 µs of the previous one is merged into it. -/
def noonTrigger (s : State) : State :=
  if s.drv.noon.any fun t => decide (s.time.clock.toNat < t.toNat + 1000) then s
  else
    { s with drv := { s.drv with noon := some s.time.clock
                                 snaps := ((s.meters.map (·.1)).flatMap fun u => [3 * u, 3 * u + 1, 3 * u + 2]).map fun k =>
                                   (k, snapCount s k) } }

/-- R361: a count is reported to a context's debugger: the context's own, or its tenant's. -/
def MeterOf.reported (o : MeterOf) (C : Context) : Bool :=
  match o with
  | .ctx c => c == C.handle
  | .tenant t => t == C.tenant

/-- R361: a snapshot register as it is reported to the holder of a context's debug right. -/
def snapReg (s : State) (C : Context) (k : Nat) : W64 :=
  (((lookupNat k s.drv.snaps).getD []).filter fun p => p.1.reported C).foldl (fun n p => n + p.2) 0

/-- R354: unbinds a die's channel: pending packets go, and every trc bit of its world on the die is cleared. The bit is the
context's, so it is cleared in every context of the world. -/
def traceUnbind (s : State) (d : Nat) : State :=
  let D := s.die d
  let world := D.tr.world
  let s := s.setDie d { D with tr := { D.tr with world := 0, dropped := 0, first := false, since := 0, pend := [] } }
  { s with drv := { s.drv with contexts := s.drv.contexts.map fun c =>
      if c.world == world then { c with dbgctl := c.dbgctl &&& 0x1F } else c } }

/-- R362: the packets of a context that the trace units have not written go; where no context of its world traces any longer, neither
the LOSS nor the SYNC that a channel of it has due is written. -/
def traceForget (s : State) (C : Context) : State :=
  let traces := s.drv.contexts.any fun c => c.world == C.world && c.dbgctl.getLsbD 5
  let forget := fun (t : Trace) =>
    let t := { t with pend := t.pend.filter fun p => p.ctx != C.handle }
    if t.world == C.world && !traces then { t with dropped := 0 } else t
  { s with dies := s.dies.map fun p => (p.1, { p.2 with tr := forget p.2.tr }) }

/-- Changes the trace unit of a die. -/
def modTrace (s : State) (d : Nat) (f : Trace → Trace) : State := s.setDie d { s.die d with tr := f (s.die d).tr }

/-- R358: fires the targets of a trigger rule. -/
def fireTargets (s : State) (d : Nat) (rule : W64) (p : Packet) : State :=
  let s := if rule.getLsbD 34 then noonTrigger s else s
  let s := if rule.getLsbD 35 then traceUnbind s d else s
  match p.wg with
  | some (w, g) =>
    if rule.getLsbD 36 then { s with ctl := { s.ctl with asked := s.ctl.asked ++ [.debugStop w g] } } else s
  | none => s

/-- R358: what the filter rules of a die make of a packet: it is written, discarded, counted, or fires a trigger. -/
def filterPacket (s : State) (d : Nat) (p : Packet) : State :=
  let rules := (s.die d).tr.rules
  let keep := fun (t : Trace) => t.put s.time.clk p.ty p.body
  match rules.findIdx? (fun r => ruleMatches r p) with
  | none => modTrace s d keep
  | some k =>
    let rule := (rules.getD k (0, 0)).1
    let count := fun (t : Trace) => { t with rules := t.rules.modify k ruleCount }
    match bitsOf rule 62 61 with
    | 0 => modTrace s d keep
    | 1 => s
    | 2 => modTrace s d count
    | _ => fireTargets (modTrace s d fun t => keep (count t)) d rule p

/-- R355, R364: a packet leaves those that wait: a SYNC that is due first, then the filter rules, then the ring; the SYNC at count 256
follows it. -/
def writePacket (s : State) (d : Nat) (p : Packet) : State :=
  let s := modTrace (traceSync s d) d fun t => { t with pend := t.pend.drop 1 }
  let s' := filterPacket s d p
  if (s'.die d).tr.since = (s.die d).tr.since then s' else traceSync s' d

/-- R355: packets in the order of cores and slots, those of one group as they came. -/
def inGrefOrder (ps : List Packet) : List Packet := (List.range 1024).flatMap fun r => ps.filter fun p => p.gref == r

/-- R355, R364: a clk is over: the unit of a die writes a LOSS that is due and its SYNC, where both fit; ahead of the first packet of a
channel its opening SYNC; then the packets of the clk. -/
def flushDie (s : State) (d : Nat) : State :=
  let s := modTrace (traceLoss s d) d fun t => { t with pend := inGrefOrder t.pend }
  let ps := (s.die d).tr.pend
  let s := if ps.isEmpty then s else traceOpen s d
  ps.foldl (fun s p => if (s.die d).tr.pend.isEmpty then s else writePacket s d p) s

/-- R355: a clk is over: the packets of each die are written. -/
def flushTrace (s : State) : State := s.dies.foldl (fun s p => flushDie s p.1) s

/-! ### Packets of groups -/

/-- A packet of a group, where its context traces (R354, R356): it waits for the end of its clk; `moves` unless it says nothing of the
split table. -/
def emitGroup (s : State) (w g : Nat) (ty : Nat) (split lpc : Option Nat) (rest : List Byte) (moves : Bool := true) : State :=
  match envAt s w g with
  | none => s
  | some E =>
    if traced s E then
      let slot := E.W.slotOf g
      let p : Packet :=
        { ty := ty, gref := E.W.core * 64 + slot, ctx := E.C.handle, wg := some (w, g), split := split, lpc := lpc
          body := grefBytes E.W.core slot ++ rest, moves := moves, before := none, noted := false }
      modTrace s E.W.die fun t => { t with pend := t.pend ++ [p] }
    else s

/-- R356: EVENT. -/
def emitEvent (s : State) (w g code arg : Nat) : State :=
  emitGroup s w g 7 none none (natToBytes 1 code ++ natToBytes 4 arg)

/-- R356: BLOCK. -/
def emitBlock (s : State) (w g start mask : Nat) : State :=
  emitGroup s w g 0 none (some start) (natToBytes 4 start ++ natToBytes 4 mask)

/-- R356: BRANCH. -/
def emitBranch (s : State) (w g sp e target mask : Nat) : State :=
  emitGroup s w g 1 (some e) (some target) (natToBytes 1 sp ++ natToBytes 4 target ++ natToBytes 4 mask)

/-- R356: MERGE. -/
def emitMerge (s : State) (w g survivor merged kind lpc : Nat) : State :=
  emitGroup s w g 2 (some survivor) (some lpc) (natToBytes 1 (survivor + 8 * merged + 64 * kind) ++ natToBytes 4 lpc)

/-- R356: END. -/
def emitEnd (s : State) (w g e : Nat) (exitl ended : Bool) (lpc mask : Nat) : State :=
  emitGroup s w g 3 (some e) (some lpc)
    (natToBytes 1 (e + (if exitl then 64 else 0) + (if ended then 128 else 0)) ++ natToBytes 4 lpc ++ natToBytes 4 mask)

/-- R356: MARK. -/
def emitMark (s : State) (w g e : Nat) (markl : Bool) (n : Nat) : State :=
  emitGroup s w g 4 (some e) none (natToBytes 1 (e + (if markl then 128 else 0)) ++ natToBytes 3 n) markl

end Sys2Proof.Machine
end

