-- ==== Sys2Proof/Machine/Complete.lean ====
section
/-! DEFINITION. How work ends: counter adds, the completion of workgroups and launches (R332, R333, R338, R353), the end of a
context (R325, R332), and the driver's replies (R326, R327). -/

namespace Sys2Proof.Machine

/-! ### Counters in tables -/

/-- R228: the fields of a locator. -/
def locKind (l : W64) : Bool := l.getLsbD 63
/-- R228: the declared scope's code. -/
def locScope (l : W64) : BitVec 3 := l.extractLsb' 60 3
/-- R228: the slot of a table counter. -/
def locSlot (l : W64) : BitVec 6 := l.extractLsb' 53 6
/-- R228: the row key of a table counter. -/
def locKey (l : W64) : Nat := bitsOf l 52 13
/-- R228: the byte offset of a table counter in its row. -/
def locOff (l : W64) : Nat := 8 * bitsOf l 12 0

/-- R227, R229, R332: adds to a doubleword of a version's row space, at home, bypassing every row cache: one step that releases at
a scope. -/
def addDword (s : State) (h : Holder) (rel : Option ScopeAt) (v addr n : Nat) : State :=
  (s.note { who := h, core := 0 } (.rows v) addr 8 (fun a => ((s.table? v).map fun t => memGet t.rows a).getD 0) true rel).modTable v
    fun t => { t with rows := memWrite t.rows addr (natToBytes 8 (memNat t.rows addr 8 + n)) }

/-- Writes bytes at home, bypassing every row cache. -/
def writeHome (s : State) (v addr : Nat) (bs : List Byte) : State :=
  (s.sure (.rows v) addr bs.length).modTable v fun t => { t with rows := memWrite t.rows addr bs }

/-- R228, R332: where a launch's completion counter lies, when its slot names a table and its row exists. -/
def launchCounter (s : State) (La : Launch) : Option (Nat × Nat) :=
  match (La.binding (locSlot La.counter)).bind s.named with
  | some b =>
    if locKind La.counter && b.t.desc.isArray && decide (locKey La.counter < b.t.desc.rows) then
      some (b.v, locKey La.counter * b.t.desc.width + locOff La.counter)
    else none
  | none => none

/-! ### Replies -/

/-- R332: the status word. -/
def statusWord (st : LaunchStatus) : W64 :=
  st.frame ++ 0#15 ++ BitVec.ofBool st.err ++ st.inner ++ st.cause

/-- R329: the workgroups of a launch. -/
def Launch.total (La : Launch) : Nat := (La.extents.drop 1).foldl (· * ·) 1

/-- R333: the last tile of a launch. -/
def Launch.lastTile (La : Launch) : Nat := (La.total - 1) / 2 ^ La.tshift

/-- R333: every workgroup of a tile has completed. -/
def Launch.tileReady (La : Launch) (t : Nat) : Bool :=
  let size := 2 ^ La.tshift
  (List.range (min size (La.total - t * size))).all fun k => La.done.contains (t * size + k)

/-- R333: the tiles that are ready; a tile is none where no workgroup of it is done. -/
def Launch.readyTiles (La : Launch) : List Nat := ((La.done.map (· / 2 ^ La.tshift)).eraseDups).filter La.tileReady

/-- R327: what a held reply waits for has come. -/
def replyDue (s : State) : ReplyWait → Bool
  | .ready => true
  | .ctxEnd c =>
    (s.context? c).all (fun C => C.ended.isSome) && s.drv.launches.all fun l => l.ctx != c || l.status.isSome
  | .unload k => s.drv.launches.all fun l => l.kernel != k || l.status.isSome
  | .retire t => s.drv.launches.all fun l => l.status.isSome || l.binds.all fun b => b.id != t
  | .revoke w => s.drv.notices.all fun n => n.window != w || n.acked
  | .grant _ | .remote _ _ => false
  | .launchDone h => (s.launch? h).all fun l => l.status.isSome

/-- R327, R353: a reply as it goes out: for WAIT the status word and the accounting record, or an unknown handle where the launch has
left with its context (R350; log entry 33). -/
def replyBody (s : State) (w : ReplyWait) (r : Reply) : Reply :=
  match w with
  | .launchDone h =>
    match s.launch? h with
    | some l => { r with body := (l.status.map fun st => natToBytes 8 (statusWord st).toNat).getD [] ++
                                 l.acct.fields.flatMap fun (f : W64) => natToBytes 8 f.toNat }
    | none => { r with status := 2 }
  | _ => r

/-- R326, R327: sends the replies that are due; those that name one context keep the order of their requests. -/
def sendDue (s : State) : List (ReplyWait × Reply) → List (BitVec 32) → List Reply × List (ReplyWait × Reply)
  | [], _ => ([], [])
  | (w, r) :: rest, held =>
    if replyDue s w && !(held.contains r.ctx && r.ctx != 0) then
      let q := sendDue s rest held
      (replyBody s w r :: q.1, q.2)
    else
      let q := sendDue s rest (r.ctx :: held)
      (q.1, (w, r) :: q.2)

/-- R342: zeroes and untags the B-lines of a world. -/
def clearLines (s : State) (world : BitVec 16) : State :=
  { s with cores := s.cores.map fun p =>
      (p.1, { p.2 with lines := p.2.lines.filter fun l => !(l.world == world) }) }

/-- R327: a reply goes out: to its client, or to the module that passed the request on, whose session is over with it. -/
def sendReply (s : State) (r : Reply) : State :=
  match (s.drv.sessions.find? fun x => x.id == r.session).bind fun x => x.caller.map fun c => (x, c) with
  | none => { s with drv := { s.drv with replies := s.drv.replies ++ [r] } }
  | some (x, c) =>
    ({ s with drv := { s.drv with sessions := s.drv.sessions.filter fun y => y.id != x.id } } : State).post c.link x.tenant c.lane
      (.answer c.id r.status r.body)

/-- R326, R327, R342: replies that have come due go out; tables whose retirement was asked and which no binding holds are
retired. -/
def settle (s : State) : State :=
  let retiring := s.drv.pend.filterMap fun p => match p.1 with
    | .retire t => if replyDue s p.1 then some t else none
    | _ => none
  let s : State := { s with mem := { s.mem with
      tables := s.mem.tables.mapIdx fun v t => if retiring.any (fun id => s.versionOf id == some v) then { t with retired := true, rows := [] } else t
      dir := s.mem.dir.filter fun p => !retiring.contains p.1 } }
  let unl := s.drv.pend.filterMap fun p => match p.1 with
    | .unload k => if replyDue s p.1 then some k else none
    | _ => none
  let q := sendDue s s.drv.pend []
  q.1.foldl sendReply { s with drv := { s.drv with
    pend := q.2, kernels := s.drv.kernels.map fun k => if unl.contains k.handle then { k with unloaded := true } else k } }

/-- R326: answers a request once what it waits for has come. -/
def reply (s : State) (w : ReplyWait) (r : Reply) : State :=
  settle { s with drv := { s.drv with pend := s.drv.pend ++ [(w, r)] } }

/-! ### Workgroups and launches -/

/-- The workgroups of a launch that have not completed. -/
def openWgs (s : State) (h : BitVec 32) : List Nat :=
  (List.range s.wgs.length).filter fun w => (s.wgs[w]?).any fun W => W.launch == h && W.place != .completed

/-- R332: how far the counter has come: adds 1 for each workgroup in index order that has completed with all below it; fuel
counts the workgroups done. -/
def countUp (done : List Nat) : Nat → Nat → Nat
  | 0, n => n
  | fuel + 1, n => if done.contains n then countUp done fuel (n + 1) else n

/-- R265, R332: the scope at which an add to a launch's counter releases. The scheduling core that makes it lies in no instance of a
scope below the module: DEDUCED (log entry 56). -/
def Launch.counterScope (La : Launch) : Option ScopeAt :=
  let c := (locScope La.counter).toNat
  if 4 ≤ c then some { code := c, inst := [] } else none

/-- R332, R371: what a launch does to the row of its counter goes out to the module of the table where that is another one. -/
def tellCounter (La : Launch) (v a len : Nat) (op : FabOp) (s : State) : State :=
  s.tell (((s.context? La.ctx).map (·.tenant)).getD 0) La.world v a len op

/-- R332: an add to a launch's counter, a release at its scope. -/
def addCounter (s : State) (La : Launch) (v a n : Nat) : State :=
  tellCounter La v a 8 (.add n) (addDword s (.launch La.handle) La.counterScope v a n)

/-- R332, R353: bytes of the row of a launch's counter are written. -/
def writeCounter (s : State) (La : Launch) (v a : Nat) (bs : List Byte) : State :=
  tellCounter La v a bs.length (.store bs) (writeHome s v a bs)

/-- R332: moves a launch's counter to `n`. -/
def moveCounter (s : State) (La : Launch) (n : Nat) : State :=
  let s' := match launchCounter s La with
    | some (v, a) => addCounter s La v a (n - La.counted)
    | none => s
  s'.modLaunch La.handle fun l => { l with counted := n }

/-- R332, R353: writes the status word and the accounting record, and makes the final add. -/
def finishLaunch (s : State) (La : Launch) (st : LaunchStatus) : State :=
  let acct : Accounting := { fields := La.acct.fields.set 1 s.time.clock }
  let s := match launchCounter s La with
    | some (v, a) =>
      let s := writeCounter s La v (a + 8) (natToBytes 8 (statusWord st).toNat)
      let s := writeCounter s La v (a + 16) (acct.fields.flatMap fun (f : W64) => natToBytes 8 f.toNat)
      addCounter s La v a 1
    | none => s
  settle (s.modLaunch La.handle fun l => { l with status := some st, acct := acct })

/-- R332: takes the adds that a launch's completed workgroups allow, and completes it when every workgroup and child task has
ended. -/
def advanceLaunch (s : State) (h : BitVec 32) : State :=
  match s.launch? h with
  | none => s
  | some La =>
    if La.status.isSome then s
    else
      let n := countUp La.done (La.done.length + 1) La.counted
      let s := if n = La.counted then s else moveCounter s La n
      let pendingTasks := s.cores.any fun p => p.2.tasks.any fun t => t.launch == h
      if n == La.total && (openWgs s h).isEmpty && !pendingTasks then
        match s.launch? h with
        | some La => finishLaunch s La { frame := 0, err := false, inner := 0, cause := 0 }
        | none => s
      else s

/-! ### The end of a context -/

/-- R85, R68, R142, R248, R291, R335: a group as it starts. -/
def Group.reset (lregs accs : Nat) : Group :=
  { S := { s := List.replicate 64 0, pc := 0, loops := [], depth := 0, slast := 0, stall := .none, uq := [], bq := [], dq := [],
           stamp := 0 }
    L := { running := false, blockStart := 0, blockSeq := 0, covered := 0, splits := List.replicate 8 Split.freeEntry, ovf := [],
           ohead := 0, w := List.replicate 32 0, md := 0, alive := 0xFFFFFFFF }
    lanes := List.replicate 32 (Lane.reset lregs)
    tiles := List.replicate accs Tile.zero
    T := { trapbase := 0, cause := 0, traps := 0, frameId := 0, timer := 0, hsave := List.replicate 4 0, handler := false,
           frame := List.replicate 317 0, saved := { ovf := [], ohead := 0, splits := [], blockStart := 0, blockSeq := 0 },
           skip := none, pending := none, entry := none, elems := [], lost := 0 }
    gtime := 0, copies := [], fin := .running, stopped := none }

/-- R300, R341: a group that is over: everything of it is zero, and its registers and tiles are freed. -/
def Group.cleared (G : Group) (e : GroupEnd) : Group :=
  let Z := Group.reset 0 0
  { Z with L := { Z.L with alive := 0 }, lanes := [], fin := if G.fin == .running then e else G.fin }

/-- R300, R341: a workgroup that is over: its groups have ended, its allotment, registers, tiles and image are zeroed, untagged and
freed. -/
def Wg.clear (W : Wg) (e : GroupEnd) : Wg :=
  { W with place := .completed, scratch := [], faults := [], holds := [], tags := Tags.all 0, sealedBy := none,
           groups := W.groups.map fun G => G.cleared e }

/-- The workgroups of a context. -/
def wgsOf (s : State) (c : BitVec 32) : List Nat :=
  (List.range s.wgs.length).filter fun w =>
    (s.wgs[w]?).any fun W => (s.launch? W.launch).any fun l => l.ctx == c

/-- R332: a task outlives the end of a context. -/
def taskStays (s : State) (c : BitVec 32) (t : TaskEntry) : Bool := !((s.launch? t.launch).any fun l => l.ctx == c)

/-- R336: the places of a core's tasks once those of a context are gone. -/
def keepTasks (s : State) (c : BitVec 32) : State :=
  s.rename fun h => match h with
    | .task core k =>
      let ts := (s.core core).tasks
      if (ts[k]?).any (taskStays s c) then some (.task core ((ts.take k).filter (taskStays s c)).length) else none
    | _ => some h

/-- R332: the workgroups of a context are over; its tasks, jobs, reductions and what waits for them on cores and dies are gone. -/
def killWgs (s : State) (mine : List Nat) (c : BitVec 32) : State :=
  let s : State := { keepTasks s c with
    wgs := s.wgs.mapIdx fun w W => if mine.contains w then W.clear .killed else W
    jobs := s.jobs.map fun j => if mine.contains j.wg then { j with state := .complete } else j
    reds := s.reds.filter fun r => !mine.contains r.wg
    dies := s.dies.map fun p => (p.1, { p.2 with resume := p.2.resume.filter fun w => !mine.contains w })
    cores := s.cores.map fun p => (p.1, { p.2 with
      tasks := p.2.tasks.filter (taskStays s c)
      acoms := p.2.acoms.filter fun q => !mine.contains q.1
      mq := p.2.mq.filter fun q => !mine.contains q.wg
      arr := p.2.arr.filter fun q => !mine.contains q.wg }) }
  mine.foldl State.endLate s

/-- R332: a launch completes at once with a status, its counter at its last workgroup. -/
def killLaunch (st : LaunchStatus) (s : State) (h : BitVec 32) : State :=
  match s.launch? h with
  | some La =>
    let s := moveCounter s La La.total
    match s.launch? h with
    | some La => finishLaunch s La st
    | none => s
  | none => s

/-- R325, R332: keeps the frame of a group that a kind X event killed; the handle of the frame, 0 where there is none. -/
def keepFrame (s : State) (frame : List W64) : BitVec 32 × State :=
  if frame.isEmpty then (0, s)
  else
    let d := s.drawUnused (s.drv.frames.map fun f => f.1.toNat) 1 (2 ^ 32 - 1)
    (BitVec.ofNat 32 d.1, { d.2 with drv := { d.2.drv with frames := d.2.drv.frames ++ [(BitVec.ofNat 32 d.1, frame)] } })

/-- R325, R332: ends a context under kind X: its groups and tasks end, its images are zeroed, its launches complete at once with
the status, and its jobs and reductions go. -/
def endContext (s : State) (c : BitVec 32) (cause : BitVec 8) (inner : BitVec 8) (frame : List W64) : State :=
  match s.context? c with
  | none => s
  | some C =>
    if C.ended.isSome then s
    else
      let k := keepFrame s frame
      let st : LaunchStatus := { frame := k.1, err := true, inner := inner, cause := cause }
      let s := (killWgs k.2 (wgsOf s c) c).modContext c fun C =>
        { C with ended := some st, right := none, dbgctl := 0, breaks := [], watches := [] }
      let s := ((s.drv.launches.filter fun l => l.ctx == c && l.status.isNone).map (·.handle)).foldl (killLaunch st) s
      let last := s.drv.contexts.all fun D => D.world != C.world || D.ended.isSome
      settle (if last then clearLines s C.world else s)

/-- R33: a test launch that is complete ends its context. -/
def endTest (s : State) (h : BitVec 32) : State :=
  match s.launch? h with
  | some La => if La.test && La.status.isSome then endContext s La.ctx (causeCode .killed) 0 [] else s
  | none => s

/-- R338: a workgroup completes: its scratchpad is cleared and released, and its launch's counter and tiles advance. -/
def completeWg (s : State) (w : Nat) : State :=
  match s.wgs[w]? with
  | none => s
  | some W =>
    let s := ((s.setTile w W.launch (if W.child then none else some W.w)).setWg w (W.clear .exited)).endLate w
    let s := if W.child then s else s.modLaunch W.launch fun l => { l with done := l.done ++ [W.w] }
    endTest (advanceLaunch s W.launch) W.launch

end Sys2Proof.Machine
end

