-- ==== Sys2Proof/Machine/Splits.lean ====
section
/-! DEFINITION. The split table (R127 to R140): the release check, merges, the placing of a new split, the end of a block, the
abort of regions (R222), and the replay record with the rebuilding of windows (R61, R62). -/

namespace Sys2Proof.Machine

/-- What the release check finds (R129, R135). -/
inductive Release where
  | none | released (e : Nat) | blockEnds | mismatch | overflow
  deriving DecidableEq, Repr

/-- R128: parked at a join or at the end. -/
def Split.parked (p : Split) : Bool := p.st == .joinPark || p.st == .endPark

/-- R129, R135: the release check. -/
def releaseCheck (G : Group) : Release :=
  if !G.L.ovf.isEmpty then
    if entryList.all fun e => (G.split e).parked then .overflow else .none
  else
    match G.liveEntries with
    | [] => .blockEnds
    | [e] =>
      match (G.split e).st with
      | .joinPark => .released e
      | .endPark => .blockEnds
      | _ => .none
    | es => if es.all fun e => (G.split e).parked then .mismatch else .none

/-- R136: the block ends: the table is freed, every window cleared, and the L-stream idle. -/
def Group.endBlock (G : Group) : Group :=
  let G := G.clearWins
  { G with L := { G.L with running := false, splits := List.replicate 8 Split.freeEntry } }

/-- R135: what the release check releases: a parked split goes on, or the block ends. -/
def Group.applyRelease (G : Group) : Release → Group
  | .released e => G.modSplit e fun p => { p with st := .ready }
  | .blockEnds => if G.L.running then G.endBlock else G
  | _ => G

/-- R61: a split whose record is emptied. -/
def Split.wiped (p : Split) : Split := { p with rep := ReplayRec.empty, past := ReplayRec.empty, pastAt := [0, 0, 0, 0] }

/-- R60, R61: every window is cleared by a word or a split, and every record emptied. -/
def Group.clearingPoint (G : Group) : Group :=
  let G := G.clearWins
  { G with L := { G.L with splits := G.L.splits.map Split.wiped, ovf := G.L.ovf.map Split.wiped } }

/-- R129, R132: a new split can be placed. -/
def Group.canPlace (G : Group) : Bool := G.freeEntry?.isSome || decide (G.L.ovf.length < 56)

/-- R129, R132: places a new split in the lowest free entry, else at the overflow tail; the entry it took. -/
def Group.place (G : Group) (p : Split) : Group × Option Nat :=
  match G.freeEntry? with
  | some e => (G.modSplit e fun _ => p, some e)
  | none => ({ G with L := { G.L with ovf := G.L.ovf ++ [p] } }, none)

/-- R132: the lanes `m` of a split leave it for a new split at `target`, which carries the last retired word of the split
it came from (R286). -/
def Group.divide (G : Group) (e : Nat) (m : LMask) (target : W64) : Group × Option Nat :=
  let p := G.split e
  let n : Split := { st := .ready, lpc := target, mask := m, rep := ReplayRec.empty, stamp := 0, flast := p.flast,
                     wait := .none, yield := 0, passed := 0, why := none }
  (G.modSplit e fun p => { p with mask := p.mask &&& ~~~ m }).place n

/-- R134: merges one entry into another: masks joined, the other freed, the survivor's record empty. -/
def Group.mergeInto (G : Group) (from_ into : Nat) : Group :=
  let m := (G.split from_).mask
  (G.modSplit into fun p => { p.wiped with mask := p.mask ||| m }).modSplit from_ fun _ => Split.freeEntry

/-- R209, R222: a lane's region closes with a status and a detail (R221); its tags go with it. -/
def Lane.closeRegion (L : Lane) (status detail : Nat) : Lane :=
  { L with region := none, rstat := BitVec.ofNat 8 (detail * 16 + 8 + status) }

/-- R222: the lanes whose `ACOM` has issued: it finishes its commits. -/
def Group.committing (G : Group) : LMask :=
  G.L.splits.foldl (fun m p => if p.wait == .commit then m ||| p.mask else m) 0

/-- R222: the splits whose region is open resume at their fallback with an empty record. -/
def abortSplit (G : Group) (p : Split) : Split :=
  match G.regionOf p.mask with
  | some r => if p.mask = 0 || p.wait == .commit then p else { p.wiped with lpc := r.fallback }
  | none => p

/-- R222: aborts every open region of the group with status 6, but for those of an `ACOM` that has issued. -/
def Group.abortRegions (G : Group) (detail : Nat) : Group :=
  let G' := { G with L := { G.L with splits := G.L.splits.map (abortSplit G), ovf := G.L.ovf.map (abortSplit G) } }
  let kept := G.committing
  G'.mapLanes fun i L => if L.region.isSome && !inMask kept i then L.closeRegion 6 detail else L

/-! ### Replay -/

/-- R61: the record with one more word, and what the word does to the window entries. -/
def ReplayRec.push (r : ReplayRec) (pc : BitVec 26) (nw : Bool) (reg : Option (BitVec 8)) (act : LMask) : ReplayRec :=
  let ws := r.words ++ [(pc, nw)]
  { words := ws.drop (ws.length - 3), wreg := (reg :: r.wreg).take 4, wact := (act :: r.wact).take 4 }

/-- R61: a split's records with one more word, whose issue has stamp n. -/
def Split.push (p : Split) (pc : BitVec 26) (nw : Bool) (reg : Option (BitVec 8)) (act : LMask) (n : Nat) : Split :=
  { p with rep := p.rep.push pc nw reg act, past := p.past.push pc nw reg act, pastAt := (n :: p.pastAt).take 4 }

/-- R60, R161: a clearing word that issued with stamp n is complete: the record that a stop goes back to holds what came after it. -/
def Split.settled (n : Nat) (p : Split) : Split :=
  let k := (p.pastAt.takeWhile fun m => decide (n < m)).length
  { p with past := { words := p.past.words.drop (p.past.words.length - k)
                     wreg := p.past.wreg.mapIdx fun y r => if y < k then r else none
                     wact := p.past.wact.mapIdx fun y m => if y < k then m else 0 } }

/-- R161, R282: what words that are stopped unfinished had cleared is in the record again. -/
def Split.restored (p : Split) : Split := { p with rep := p.past }

/-- A change of every split of a group, in the table and the overflow area. -/
def Group.everySplit (G : Group) (f : Split → Split) : Group :=
  { G with L := { G.L with splits := G.L.splits.map f, ovf := G.L.ovf.map f } }

/-- R61: the number of the oldest word in the record with NW = 1, or none. -/
def ReplayRec.point (r : ReplayRec) : Option Nat := r.words.findIdx? fun w => w.2

/-- R62: window entry m can be refilled: its producer wrote back, and no later word of the split wrote that register. -/
def ReplayRec.source (r : ReplayRec) (m : Nat) : Option (BitVec 8) :=
  match r.wreg.getD m none with
  | none => none
  | some n => if (r.wreg.take m).any fun x => x == some n then none else some n

/-- R62: the window of a lane as it was `back` words ago, from the registers that still hold its entries. -/
def rebuiltWin (r : ReplayRec) (back i : Nat) (L : Lane) : List (Option W64) :=
  [0, 1, 2, 3].map fun k =>
    let m := k + back
    if m < 4 && (r.wact.getD m 0).getLsbD i then (r.source m).map fun n => L.r n.toNat else none

/-- R62, R290, R311: a split goes back to its replay point: its lpc and its record. An entry whose register a word that is issued
again had overwritten stays invalid (R314). -/
def Split.toReplay (p : Split) : Split :=
  match p.rep.point with
  | none => p
  | some j =>
    let back := p.rep.words.length - j
    let r : ReplayRec :=
      { words := p.rep.words.take j
        wreg := ([0, 1, 2, 3].map fun m => p.rep.source m).drop back ++ List.replicate back none
        wact := (p.rep.wact.drop back) ++ List.replicate back 0 }
    { p with lpc := ((p.rep.words.getD j (0, false)).1).setWidth 64, rep := r, past := r }

/-- R62: how many words a split goes back. -/
def Split.backBy (p : Split) : Nat :=
  match p.rep.point with
  | none => 0
  | some j => p.rep.words.length - j

/-- R62: every split of the table goes to its replay point with its lanes' windows rebuilt. -/
def Group.rebuild (G : Group) : Group :=
  let all := G.L.splits ++ G.L.ovf
  let G' := G.mapLanes fun i L =>
    match all.find? fun p => inMask p.mask i with
    | some p => { L with win := rebuiltWin p.rep p.backBy i L }
    | none => L.clearWin
  { G' with L := { G'.L with splits := G'.L.splits.map Split.toReplay, ovf := G'.L.ovf.map Split.toReplay } }

/-- R140: a yielded split comes back ready. -/
def Split.awake (p : Split) : Split := { p with st := if p.st == .yielded then .ready else p.st, yield := 0 }

/-- R140: every yielded split of a group comes back ready. -/
def Group.awake (G : Group) : Group :=
  { G with L := { G.L with splits := G.L.splits.map Split.awake, ovf := G.L.ovf.map Split.awake } }

/-- R140, R282: a split comes back from a trap: what it waited for is tested afresh. -/
def Split.resumed (p : Split) : Split := { p.awake with wait := .none }

end Sys2Proof.Machine
end

