-- ==== Sys2Proof/Machine/Ops.lean ====
section
/-! DEFINITION. The shared operations of words: the trap frame and taking a trap (R279 to R289), returning from one (R290),
descheduling (R299), the deferred fault record (R201, R202), and how an S word issues, retires and ends loops (R86, R96). -/

namespace Sys2Proof.Machine

/-! ### The trap frame -/

/-- R286: kind codes. -/
def kindCode : TrapKind → BitVec 3
  | .word => 0 | .lane => 1 | .partial_ => 2 | .after => 3 | .deferred => 4 | .event => 5

/-- R128: state codes. -/
def stateCode : SplitState → BitVec 4
  | .free => 0 | .ready => 1 | .joinPark => 2 | .endPark => 3 | .yielded => 4 | .held => 5

/-- R128: the state of a code. -/
def stateOf (n : Nat) : Option SplitState :=
  match n with
  | 0 => some .free | 1 => some .ready | 2 => some .joinPark | 3 => some .endPark | 4 => some .yielded | 5 => some .held
  | _ => none

/-- The low 26 bits of a PC. -/
def pc26 (v : W64) : BitVec 26 := v.setWidth 26

/-- R127: a window entry's field of the replay record: written back, and the register. -/
def wregField : Option (BitVec 8) → BitVec 9
  | none => 0
  | some n => 1#1 ++ n

/-- R127: the six doublewords of a split entry. -/
def splitWords (p : Split) : List W64 :=
  let r := p.rep
  let pc := fun k => (r.words.getD k (0, false)).1
  let nw := fun k => BitVec.ofBool (r.words.getD k (0, false)).2
  let act := fun k => r.wact.getD k 0
  [ 0#2 ++ stateCode p.st ++ pc26 p.lpc ++ p.mask,
    0#22 ++ pc 0 ++ 0#3 ++ BitVec.ofNat 2 r.words.length ++ nw 2 ++ nw 1 ++ nw 0 ++ 0#8,
    0#12 ++ pc 2 ++ pc 1,
    0#28 ++ wregField (r.wreg.getD 3 none) ++ wregField (r.wreg.getD 2 none) ++ wregField (r.wreg.getD 1 none)
      ++ wregField (r.wreg.getD 0 none),
    act 1 ++ act 0,
    act 3 ++ act 2 ]

/-- R161: no word that has issued is unfinished: a stop goes back to the record as it is. -/
def Split.forget (p : Split) : Split := { p with past := p.rep, pastAt := [0, 0, 0, 0] }

/-- R127: a split entry read back from its six doublewords; none where its state is above 5 (R290). -/
def splitOfWords (old : Split) (d : List W64) : Option Split := do
  let d0 := d.getD 0 0
  let d1 := d.getD 1 0
  let d2 := d.getD 2 0
  let d3 := d.getD 3 0
  let st ← stateOf (bitsOf d0 61 58)
  let n := bitsOf d1 12 11
  let pcs : List (BitVec 26) := [d1.extractLsb' 16 26, d2.extractLsb' 0 26, d2.extractLsb' 26 26]
  let p : Split :=
    { st := st, lpc := (d0.extractLsb' 32 26).setWidth 64, mask := d0.extractLsb' 0 32
      rep := { words := (List.range n).map fun k => (pcs.getD k 0, d1.getLsbD (8 + k))
               wreg := [0, 1, 2, 3].map fun k => if d3.getLsbD (9 * k + 8) then some (d3.extractLsb' (9 * k) 8) else none
               wact := [(d.getD 4 0).extractLsb' 0 32, (d.getD 4 0).extractLsb' 32 32,
                        (d.getD 5 0).extractLsb' 0 32, (d.getD 5 0).extractLsb' 32 32] }
      stamp := old.stamp, flast := old.flast, wait := .none, yield := 0, passed := 0, why := old.why }
  pure p.forget

/-- A list made n long, with zeros. -/
def padTo (n : Nat) (l : List W64) : List W64 := (l ++ List.replicate (n - l.length) 0).take n

/-- R285 to R288: the frame of a group whose streams have stopped where they resume. -/
def frameOf (G : Group) (t : TrapInfo) : List W64 :=
  let fsplit := t.split.getD 0
  let fsv := t.split.isSome
  let flast : BitVec 26 := if fsv then (G.split fsplit).flast else 0
  let fpc : BitVec 26 := if fsv then pc26 t.fpc else 0
  [ 0#45 ++ kindCode t.kind ++ 0#8 ++ causeCode t.cause,
    t.done ++ t.lanes,
    0#11 ++ BitVec.ofBool t.lStream ++ G.S.slast ++ pc26 G.S.pc,
    0#8 ++ BitVec.ofBool fsv ++ BitVec.ofNat 3 fsplit ++ flast ++ fpc,
    t.d0, t.d1,
    0#17 ++ BitVec.ofBool G.L.running ++ BitVec.ofNat 6 G.L.ohead ++ BitVec.ofNat 6 G.L.ovf.length
      ++ BitVec.ofNat 4 G.S.dq.length ++ BitVec.ofNat 5 G.S.bq.length ++ BitVec.ofNat 6 G.S.uq.length
      ++ BitVec.ofNat 3 G.S.loops.length ++ G.S.depth,
    0 ]
  ++ padTo 12 (G.S.loops.flatMap fun e => [0#12 ++ pc26 e.stop ++ pc26 e.start, e.count, e.depth.setWidth 64])
  ++ padTo 48 (G.L.splits.flatMap splitWords)
  ++ padTo 32 G.S.uq ++ padTo 16 G.S.bq ++ padTo 8 (G.S.dq.map (·.setWidth 64))
  ++ [G.T.lost ++ BitVec.ofNat 32 G.T.elems.length]
  ++ padTo 192 (G.T.elems.flatMap fun e => [e.d0, e.d1, e.d2])

/-! ### Stopping a group -/

/-- R96: the end check of a word at address `a`: the loop stack and the S-PC that it leaves. -/
def endCheck (depth : BitVec 16) (a : W64) : List LoopEntry → List LoopEntry × W64
  | [] => ([], a + 1)
  | e :: es =>
    if e.depth = depth ∧ e.stop = a then
      if e.count ≠ 0 then ({ e with count := e.count - 1 } :: es, e.start) else endCheck depth a es
    else (e :: es, a + 1)

/-- R86, R96: the S word at S-PC retires: slast, the end check, and no stall. -/
def Group.retire (G : Group) : Group :=
  let r := endCheck G.S.depth G.S.pc G.S.loops
  { G with S := { G.S with pc := r.2, loops := r.1, slast := pc26 G.S.pc, stall := .none } }

/-- R279, R282: a stop of the group: a `SLEEP` in progress counts as complete, a `KSWAP` that has been applied completes, every
other stall is tested afresh, and what splits wait for too, but for words that a stop waits for. What an unfinished word took
from uq goes back to the head (log entry 57), and what it cleared comes back into the records (R161). -/
def Group.stop (G : Group) : Group :=
  let G := match G.S.stall with
    | .sleep _ | .kswap => G.retire
    | _ => { G with S := { G.S with stall := .none } }
  let G : Group := { G with S := { G.S with uq := G.taken ++ G.S.uq } }
  (G.everySplit Split.restored).mapSplits fun _ p => { p with wait := if p.wait.finishes then p.wait else .none }

/-- R62, R222: a stop that clears every window, keeps the records and aborts every open region. -/
def Group.halt (G : Group) (detail : Nat) : Group := (G.stop.clearWins).abortRegions detail

/-- R283, R284: the group in its handler: emptied queues, loops and splits, handler mode, the S-PC at TRAPBASE. -/
def Group.enter (G : Group) (t : TrapInfo) (frameId : BitVec 32) : Group :=
  { G with
    S := { G.S with pc := G.T.trapbase.setWidth 64, loops := [], depth := 0, uq := [], bq := [], dq := [] }
    L := { G.L with running := false, splits := List.replicate 8 Split.freeEntry, ovf := [], ohead := 0 }
    T := { G.T with
           entry := none, cause := 1#1 ++ causeCode t.cause, traps := G.T.traps + 1, frameId := frameId, handler := true
           frame := frameOf G t
           saved := { ovf := G.L.ovf, ohead := G.L.ohead, splits := G.L.splits, blockStart := G.L.blockStart,
                      blockSeq := G.L.blockSeq }
           skip := none, elems := [], lost := 0 } }

/-- TAKING A TRAP of kind W, L, P, A, D or E (R279, R283, R284): the one operation of every trap. Words of the group that have
issued complete first: while any has not, the group stops and the trap waits for TRAP_ENTRY. In handler mode, and where TRAPBASE
is 0, the context ends instead. -/
def takeTrap (s : State) (w g : Nat) (t : TrapInfo) : State :=
  match envAt s w g with
  | none => s
  | some E =>
    let G := E.G.halt 1
    if E.G.inFlight then s.modGroup w g fun G => { G with T := { G.T with entry := some t } } else
    if E.G.T.handler then endContext s E.La.ctx (causeCode .doubleTrap) (causeCode t.cause) E.G.T.frame
    else if E.G.T.trapbase = 0 then endContext s E.La.ctx (causeCode t.cause) 0 (frameOf G t)
    else
      let s := emitEvent s w g 0 ((causeCode t.cause).toNat + 256 * (kindCode t.kind).toNat)
      let d := s.draw
      (d.2.shelveQueues w g).setGroup w g (G.enter t (BitVec.ofNat 32 d.1))

/-! ### Returning -/

/-- R290: the split entries of a frame; none where a state is above 5. -/
def frameSplits (G : Group) : Option (List Split) :=
  entryList.mapM fun e =>
    splitOfWords (G.T.saved.splits.getD e Split.freeEntry) ((G.T.frame.drop (20 + 6 * e)).take 6)

/-- The masks of a list are pairwise disjoint. -/
def disjoint : List LMask → Bool
  | [] => true
  | m :: ms => ms.all (fun k => m &&& k == 0) && disjoint ms

/-- R290: the checks of `ERET`, on the splits of the frame. The frame of a trap of kind P with a lane done is refused as it stands,
for its done lanes lie outside its lane mask: DESIGN CHOICE between this check and the re-issue of R281 (entry 14). -/
def frameGood (G : Group) (ps : List Split) : Bool :=
  let f := G.T.frame
  let h := f.getD 6 0
  let masks := ps.map (·.mask) ++ G.T.saved.ovf.map (·.mask)
  ps.all (fun p => (p.mask == 0) == (p.st == .free))
  && disjoint masks && masks.all (fun m => m &&& ~~~ G.L.alive == 0)
  && decide (bitsOf h 24 19 ≤ 32) && decide (bitsOf h 29 25 ≤ 16) && decide (bitsOf h 33 30 ≤ 8) && decide (bitsOf h 18 16 ≤ 4)
  && ((f.getD 1 0).extractLsb' 32 32 &&& ~~~ (f.getD 1 0).extractLsb' 0 32) == 0
  && decide (bitsOf (f.getD 124 0) 6 0 ≤ 64)

/-- R285: the loop entries of a frame. -/
def frameLoops (f : List W64) (n : Nat) : List LoopEntry :=
  (List.range n).map fun k =>
    let d := f.getD (8 + 3 * k) 0
    { start := (d.extractLsb' 0 26).setWidth 64, stop := (d.extractLsb' 26 26).setWidth 64,
      count := f.getD (9 + 3 * k) 0, depth := (f.getD (10 + 3 * k) 0).extractLsb' 0 16 }

/-- R288: record entries kept to 64; the rest only counted, saturating. -/
def keepRecord (es : List ElemEntry) (lost : Nat) : List ElemEntry × BitVec 32 :=
  (es.take 64, BitVec.ofNat 32 (min (lost + (es.length - 64)) 0xFFFFFFFF))

/-- R290 steps 1 to 3: everything that was saved at entry is reloaded as the frame now holds it, and handler mode ends; what
the record received in handler mode stays behind the saved entries (R284). -/
def Group.leave (G : Group) (ps : List Split) : Group :=
  let f := G.T.frame
  let h := f.getD 6 0
  let d3 := f.getD 3 0
  let r := f.getD 124 0
  let saved := (List.range (bitsOf r 6 0)).map fun k =>
    ({ d0 := f.getD (125 + 3 * k) 0, d1 := f.getD (126 + 3 * k) 0, d2 := f.getD (127 + 3 * k) 0 } : ElemEntry)
  let kept := keepRecord (saved ++ G.T.elems) (bitsOf r 63 32 + G.T.lost.toNat)
  let done : LMask := (f.getD 1 0).extractLsb' 32 32
  let fsplit := bitsOf d3 54 52
  let fpc : W64 := (d3.extractLsb' 0 26).setWidth 64
  let skips := d3.getLsbD 55 && done != 0 && (ps.getD fsplit Split.freeEntry).lpc == fpc
  { G with
    S := { G.S with
           pc := ((f.getD 2 0).extractLsb' 0 26).setWidth 64
           slast := pc26 G.S.pc
           loops := frameLoops f (bitsOf h 18 16)
           depth := h.extractLsb' 0 16
           stall := .none
           uq := (f.drop 68).take (bitsOf h 24 19)
           bq := (f.drop 100).take (bitsOf h 29 25)
           dq := ((f.drop 116).take (bitsOf h 33 30)).map pc26 }
    L := { G.L with
           running := h.getLsbD 46
           blockStart := G.T.saved.blockStart
           blockSeq := G.L.blockSeq + 1
           splits := ps.map Split.resumed
           ovf := G.T.saved.ovf.map Split.resumed
           ohead := G.T.saved.ohead }
    T := { G.T with
           handler := false
           elems := kept.1, lost := kept.2
           skip := if skips then some { entry := fsplit, fpc := fpc, lanes := done } else none } }

/-- R290: a state that the release check refuses raises its cause, kind A, at the lowest parked entry. -/
def releaseTrap (G : Group) (c : Cause) : TrapInfo :=
  let e := (entryList.find? fun e => (G.split e).parked).getD 0
  let p := G.split e
  { cause := c, kind := .after, lStream := true, lanes := p.mask, split := some e, fpc := p.lpc - 1 }

/-- R140, R290 step 4, R311 step 3: the release check at a return or a restore, whose refusal traps. -/
def resumeCheck (s : State) (w g : Nat) : State :=
  match s.group? w g with
  | none => s
  | some G =>
    if !G.L.running then s
    else
      match releaseCheck G with
      | .mismatch => takeTrap s w g (releaseTrap G .joinMismatch)
      | .overflow => takeTrap s w g (releaseTrap G .splitOverflow)
      | .blockEnds =>
        let e := (G.liveEntries.head?).getD 0
        let p := G.split e
        (emitEnd s w g e false true (p.lpc - 1).toNat p.mask.toNat).setGroup w g (G.applyRelease .blockEnds)
      | r => s.setGroup w g (G.applyRelease r)

/-- R202: the reductions of the interrupted block stay its own under the number that it goes on with, those applied too. -/
def resumeReds (s : State) (w g old new : Nat) : State :=
  ({ s with reds := s.reds.map fun r => if r.wg = w ∧ r.group = g ∧ r.blockSeq = old then { r with blockSeq := new } else r } : State).rename
    fun h => some (match h with
      | .reds w' g' q m => if w' = w ∧ g' = g ∧ q = old then .reds w g new m else h
      | _ => h)

/-- R290: the frame is in order. -/
def frameOk (G : Group) : Bool := (frameSplits G).any (frameGood G)

/-- RETURNING FROM A TRAP (R290), once the frame has been found good and the implied `LWAIT` is done: the reload, the release check
and the replay points. -/
def returnFromTrap (s : State) (E : Env) : State :=
  let G := E.G
  let s := emitEvent s E.w E.g 1 0
  let s := if (G.T.frame.getD 6 0).getLsbD 46 then resumeReds s E.w E.g G.T.saved.blockSeq (G.L.blockSeq + 1) else s
  let s := resumeCheck ((s.unshelveQueues E.w E.g).setGroup E.w E.g (G.leave ((frameSplits G).getD []))) E.w E.g
  s.modGroup E.w E.g fun G => if G.T.handler then G else G.rebuild

/-! ### Descheduling -/

/-- R301: the table id that an entry of the event log names for what a word needed. -/
def needTable (s : State) : List Need → BitVec 32
  | .descriptor id :: _ => id
  | .slab v _ :: _ => ((s.table? v).map (s.idOf v)).getD 0
  | .window i :: _ => ((lookupNat i s.mem.windows).map (·.table)).getD 0
  | [] => 0

/-- R301: one more entry in a workgroup's service-fault list, while it has room, and in the event log. -/
def listFault (s : State) (w : Nat) (f : ServiceEntry) : State :=
  match s.wgs[w]? with
  | none => s
  | some W =>
    if 64 ≤ (W.faults.filter fun f => !f.served).length then s
    else
      let ctx := ((s.launch? W.launch).map (·.ctx)).getD 0
      (s.modWg w fun W => { W with faults := W.faults ++ [f] }).logEvent
        { cause := f.cause, ctx := ctx.setWidth 64, table := needTable s f.needs, detail := 0, wg := some w }

/-- The numbers of the groups of a workgroup that a stop of the workgroup stops: those that run. -/
def Wg.running (W : Wg) : List Nat :=
  (List.range W.groups.length).filter fun g => (W.groups[g]?).any fun G => G.fin == .running && G.stopped.isNone

/-- R299, R301: the workgroup stops, and leaves the core once its image is whole, with one more entry in its service-fault list. -/
def swapOut (s : State) (w : Nat) (f : ServiceEntry) : State :=
  match s.wgs[w]? with
  | none => s
  | some W =>
    let s := W.running.foldl (fun s g => emitEvent s w g 2 0) s
    let s := s.modWg w fun W =>
      { W with place := .leaving, ranOn := none
               groups := W.groups.map fun G => if G.fin == .running then G.halt 0 else G }
    listFault s w f

/-- R299, R359: a debug stop takes the group off the core and reports its cause. -/
def debugStop (s : State) (w g : Nat) (c : Cause) : State :=
  (emitEvent s w g 2 2).modGroup w g fun G => { G.halt 0 with stopped := some c }

/-! ### The deferred fault record -/

/-- R201, R288: writes a failure into a group's record. -/
def recordElem (s : State) (w g : Nat) (e : ElemEntry) : State :=
  s.modGroup w g fun G =>
    let k := keepRecord (G.T.elems ++ [e]) G.T.lost.toNat
    { G with T := { G.T with elems := k.1, lost := k.2 } }

/-- R202: reductions of blocks that an `LWAIT` of the S-stream has waited for are still in flight. -/
def coveredInFlight (s : State) (E : Env) : Bool :=
  s.reds.any fun r => r.wg == E.w && r.group == E.g && decide (r.blockSeq ≤ E.G.L.covered)

/-! ### S words -/

/-- What an S word does. -/
inductive SRes where
  /-- The word takes its effect and retires. -/
  | done (s : State)
  /-- The word transfers control (R96); `unwind` where R97 unwinds the loop stack. -/
  | jump (s : State) (target : W64) (unwind : Bool)
  /-- The word traps before any effect. -/
  | trap (t : TrapInfo)
  /-- The word retires and then traps (kind A). -/
  | after (t : TrapInfo) (s : State)
  /-- The word does not complete: it stalls at issue, or holds the S-stream; it stays at S-PC. -/
  | wait (st : Stall) (s : State)
  /-- The word meets a service fault. -/
  | service (c : Cause) (needs : List Need)
  /-- The word leaves the S-stream elsewhere: its group has ended, or has returned from its handler. -/
  | left (s : State)
  deriving DecidableEq, Repr

/-- R97: the entries that a taken transfer of control unwinds. -/
def unwindLoops (depth : BitVec 16) (target : W64) : List LoopEntry → List LoopEntry
  | [] => []
  | e :: es =>
    if e.depth = depth ∧ (target.toNat < e.start.toNat ∨ e.stop.toNat < target.toNat) then unwindLoops depth target es
    else e :: es

/-- R46, R96, R97: a transfer of control. -/
def Group.jump (G : Group) (target : W64) (unwind : Bool) : Group :=
  { G with S := { G.S with
      pc := target, slast := pc26 G.S.pc, stall := .none
      loops := if unwind then unwindLoops G.S.depth target G.S.loops else G.S.loops } }

/-- What an S word's result makes of the state. -/
def applyS (s : State) (E : Env) : SRes → State
  | .done s' => s'.modGroup E.w E.g Group.retire
  | .jump s' target unwind => s'.modGroup E.w E.g fun G => G.jump target unwind
  | .trap t => takeTrap s E.w E.g t
  | .after t s' => takeTrap (s'.modGroup E.w E.g Group.retire) E.w E.g t
  | .wait st s' => s'.modGroup E.w E.g fun G => { G with S := { G.S with stall := st } }
  | .service c needs =>
    swapOut s E.w { group := E.g, split := none, pc := E.G.S.pc, cause := c, needs := needs }
  | .left s' => s'

/-- The S-stream is held by a word that has issued or waits for an event (R102, R107, R230, R271, R295): no word issues. -/
def Stall.holds : Stall → Bool
  | .lwait | .cwait _ _ | .bar _ | .sleep _ | .kswap => true
  | .none | .queue | .implied | .fence | .job | .release _ => false

/-- An S word: its S-stream must be able to issue; then its result is applied. -/
def sWord (s : State) (f : Env → SRes) : Host.Outcome State Fault Refusal :=
  match envOf s with
  | none => .fault .noAgent
  | some E => if E.G.S.stall.holds then .fault .noAgent else .next (applyS s E (f E))

/-- An S word that only changes its group. -/
def SRes.group (s : State) (E : Env) (f : Group → Group) : SRes := .done (s.modGroup E.w E.g f)

/-- A trap of kind W of an S word. -/
def SRes.fail (c : Cause) (d0 d1 : W64 := 0) : SRes := .trap { cause := c, kind := .word, d0 := d0, d1 := d1 }

/-- R202, R268: the reductions that an S-stream fence point covers come before it. -/
def State.redsPast (s : State) (E : Env) : State :=
  s.passIf (fun h => match h with
    | .reds w g q _ => w == E.w && g == E.g && decide (q ≤ E.G.L.covered)
    | _ => false) E.who How.ordered

/-- R202: an S-stream fence point: it holds for the reductions it covers, and traps where the record holds an entry outside
handler mode (R284); then the word goes on. -/
def sFencePoint (s : State) (E : Env) (k : State → SRes) : SRes :=
  if coveredInFlight s E then .wait .fence s
  else if !E.G.T.handler && !E.G.T.elems.isEmpty then .trap { cause := .elemFault, kind := .deferred }
  else k (s.redsPast E)

/-- R102, R202: what a completed `LWAIT` covers. -/
def Group.cover (G : Group) : Group := { G with L := { G.L with covered := G.L.blockSeq } }

/-- The environment after an implied `LWAIT` (R202). -/
def Env.cover (E : Env) : Env := { E with G := E.G.cover }

/-- R104: the implied `LWAIT` of `EXIT`, `BAR` and `ERET`. -/
def impliedWait (s : State) (E : Env) (k : State → Env → SRes) : SRes :=
  if E.G.lanesDone then k ((s.joinLanes E.w E.g).modGroup E.w E.g Group.cover) E.cover else .wait .implied s

/-- An event of the module: its effect where its condition holds, nothing otherwise. -/
def event (s : State) (enabled : Bool) (f : State → State) : Host.Outcome State Fault Refusal :=
  .next (if enabled then f s else s)

end Sys2Proof.Machine
end

