-- ==== Sys2Proof/Machine/Operands.lean ====
section
/-! DEFINITION. The operands of L words: the fields a word uses, guards, active lanes, latches, and the value that each source
delivers to a lane (R49 to R52, R60, R141). -/

namespace Sys2Proof.Machine

/-- An L word at issue: its group, its split, its fields, and its active lanes. -/
structure Word where
  E   : Env
  e   : Nat
  p   : Split
  op  : BitVec 8
  o   : LOp
  act : LMask
  deriving DecidableEq, Repr

/-- The group as the word finds it. -/
def Word.G (x : Word) : Group := x.E.G

/-- R263: the split whose word it is. -/
def Word.who (x : Word) : Holder := .lanes x.E.w x.E.g x.p.mask

/-- R263: the split whose word it is, on its core. -/
def Word.party (x : Word) : Party := { who := x.who, core := x.E.W.coreNo }

/-- The source fields that the word's form uses (R55). -/
def usedSrcs (op : BitVec 8) (o : LOp) : List Src :=
  match formOf (rawOfOp op o) with
  | none => []
  | some f =>
    (if f.a == .unused then [] else [o.a]) ++ (if f.b == .unused then [] else [o.b]) ++ (if f.c == .unused then [] else [o.c])

/-- R50: the word names uq (pop). -/
def popsUq (o : LOp) : Bool := o.a == .uqPop || o.b == .uqPop || o.c == .uqPop

/-- R50: the word names uq. -/
def namesUq (o : LOp) : Bool := popsUq o || o.a == .uqPeek || o.b == .uqPeek || o.c == .uqPeek

/-- R49, R58: the guard passes on a lane. -/
def guardPasses (o : LOp) (L : Lane) : Bool := L.p o.pg != o.pn

/-- R49: the lanes of a split on which the guard passes. -/
def guardMask (G : Group) (p : Split) (o : LOp) : LMask := maskOf fun i => inMask p.mask i && guardPasses o (G.lane i)

/-- R287: the lanes that the word at its first issue after `ERET` skips. -/
def skipMask (G : Group) (e : Nat) (p : Split) : LMask :=
  match G.T.skip with
  | some k => if k.entry = e ∧ k.fpc = p.lpc then k.lanes else 0
  | none => 0

/-- The active lanes of a word (R49, R287). -/
def activeMask (G : Group) (e : Nat) (p : Split) (o : LOp) : LMask := guardMask G p o &&& ~~~ skipMask G e p

/-- R60: the latches that a word names. -/
def latchesOf (srcs : List Src) : List (BitVec 2) :=
  srcs.filterMap fun q => match q with | .latch y => some y | _ => none

/-- R60: a latch of a lane. -/
def Lane.latch (L : Lane) (y : BitVec 2) : Option W64 := L.win.getD y.toNat none

/-- R50 to R52: the 64-bit pattern that a source delivers to lane i, read as a type. -/
def srcVal (E : Env) (e : Nat) (p : Split) (imm : BitVec 32) (t : Ty) (i : Nat) : Src → W64
  | .reg n => (E.G.lane i).r n.toNat
  | .latch y => ((E.G.lane i).latch y).getD 0
  | .uqPop | .uqPeek => E.G.S.uq.headD 0
  | .lane => BitVec.ofNat 64 i
  | .gid => BitVec.ofNat 64 E.g
  | .wgid => (E.W.idx.getD 0 0).setWidth 64
  | .mask => p.mask.setWidth 64
  | .split => BitVec.ofNat 64 e
  | .w n => E.G.L.w.getD n.toNat 0
  | .imm => splat t (immElem t imm)
  | .byte n => splat t (byteElem t n)
  | .const k => if floatTy t then splat t (constF (fmtOf t) k.toNat) else 0

/-- A source of a word, read as a type. -/
def Word.src (x : Word) (t : Ty) (i : Nat) (q : Src) : W64 := srcVal x.E x.e x.p x.o.imm t i q

/-- srcA of a word, read as a type. -/
def Word.a (x : Word) (t : Ty) (i : Nat) : W64 := x.src t i x.o.a
/-- srcB of a word, read as a type. -/
def Word.b (x : Word) (t : Ty) (i : Nat) : W64 := x.src t i x.o.b
/-- srcC of a word, read as a type. -/
def Word.c (x : Word) (t : Ty) (i : Nat) : W64 := x.src t i x.o.c

/-- The number of a lane register that a field names; 0 for any other source. -/
def regNo : Src → Nat
  | .reg n => n.toNat
  | _ => 0

/-- The word's lowest active lane. -/
def Word.leader (x : Word) : Option Nat := lowestLane x.act

/-- R53: the type that VAR names. -/
def Word.vty (x : Word) : Ty := tyOfCode x.o.var

end Sys2Proof.Machine
end

