-- ==== Sys2Proof/Machine/Flags.lean ====
section
/-! DEFINITION. The sticky flags and their traps (R72, R73). -/

namespace Sys2Proof.Machine

/-- R68: the trap enables, in the order of the flags. -/
def enables (md : BitVec 16) : BitVec 5 := md.extractLsb' 5 5

/-- R73: the causes of the flags, in the order of the flags. -/
def flagCauses : List Cause := [.fpInvalid, .fpDivzero, .fpOverflow, .fpUnderflow, .fpInexact]

/-- The union of the flags of the lanes. -/
def allFlags (fs : List (BitVec 5)) : BitVec 5 := fs.foldl (· ||| ·) 0

/-- R73: the lowest enabled flag that arose. -/
def firstEnabled (md : BitVec 16) (all : BitVec 5) : Option Nat :=
  (List.range 5).find? fun k => (all &&& enables md).getLsbD k

/-- R73, R289: the trap that the flags of a word's lanes cause; `fs` holds the flags of lanes 0 to 31, none raised on a lane
that is not active. -/
def flagTrap (x : Word) (fs : List (BitVec 5)) : Option TrapInfo :=
  let all := allFlags fs
  match firstEnabled x.G.L.md all with
  | none => none
  | some k =>
    some { cause := flagCauses.getD k .fpInvalid, kind := .lane, lStream := true,
           lanes := maskOf fun i => (fs.getD i 0).getLsbD k, split := some x.e, fpc := x.p.lpc,
           d0 := all.setWidth 64 }

/-- R72: a lane's flags with more raised. -/
def Lane.raise (L : Lane) (f : BitVec 5) : Lane := { L with flags := L.flags ||| f }

end Sys2Proof.Machine
end

