-- ==== Sys2Proof/Machine/Issue.lean ====
section
/-! DEFINITION. How an L word issues and retires: queue availability, latches, the rules of an open region (R208 to R212), the
latch window and the replay record (R59 to R61), write-back and tags (R108, R209). -/

namespace Sys2Proof.Machine

/-! ### Regions -/

/-- R208: the opcodes that an open region refuses with AREG_ILLEGAL. -/
def regionRefuses (op : Nat) : Bool :=
  op == 0x5A || op == 0x5B || op == 0x5C || op == 0x5D || op == 0x68 || op == 0x6B || op == 0xC1 || op == 0xC2
  || (decide (0x70 ≤ op) && decide (op ≤ 0x73)) || (decide (0x80 ≤ op) && decide (op ≤ 0x89))
  || (decide (0xB0 ≤ op) && decide (op ≤ 0xB4))

/-- R208, R213: the region cause of a word, given whether its split's region is open. -/
def regionFault (op : Nat) (isOpen : Bool) : Option Cause :=
  if isOpen then
    if op = 0xA0 then some .aregNest else if regionRefuses op then some .aregIllegal else none
  else if 0xA1 ≤ op ∧ op ≤ 0xA4 then some .aregNone else none

/-- R209: the tag of a source of a lane. -/
def Region.tagOf (r : Region) : Src → Option Tag
  | .reg n => lookupNat n.toNat r.rtags
  | .latch y => r.ltags.getD y.toNat none
  | _ => none

/-- R209: the 64-bit integer types of the tag rules. -/
def tagTy : Ty → Bool
  | .i64 | .n64 => true
  | _ => false

/-- R209: what a word makes of the tags it reads: the tag of its destination, a constraint, or pins. -/
inductive TagRule where
  | keep (t : Tag)
  | constrain (t : Tag) (left : Bool)
  | pin (ks : List Nat)
  deriving DecidableEq, Repr

/-- R209: the inputs that a word pins on a lane of an open region; the second register of a k128 key is the table word's to pin. -/
def pinsOf (x : Word) (r : Region) : List Nat :=
  if x.op = 0xA1 ∨ x.op = 0xA2 then ((r.tagOf x.o.a).map (·.input)).toList
  else (usedSrcs x.op x.o).filterMap fun q => (r.tagOf q).map (·.input)

/-- R209: the rule for a word on lane i of an open region. -/
def tagRule (x : Word) (i : Nat) (r : Region) : TagRule :=
  let ta := r.tagOf x.o.a
  let tb := r.tagOf x.o.b
  let u := fun q => x.src x.o.ty i q
  if x.op = 0x01 ∧ tagTy x.o.ty then
    match ta, tb with
    | some t, none => .keep { t with offset := t.offset + u x.o.b }
    | none, some t => .keep { t with offset := t.offset + u x.o.a }
    | _, _ => .pin (pinsOf x r)
  else if x.op = 0x02 ∧ tagTy x.o.ty then
    match ta, tb with
    | some t, none => .keep { t with offset := t.offset - u x.o.b }
    | _, _ => .pin (pinsOf x r)
  else if x.op = 0x1A ∧ (tagTy x.o.ty ∨ x.o.ty = .b64) then
    match ta with
    | some t => .keep t
    | none => .pin []
  else if x.op = 0x19 ∧ tagTy x.o.ty then
    match ta, tb with
    | some t, none => .constrain t true
    | none, some t => .constrain t false
    | _, _ => .pin (pinsOf x r)
  else .pin (pinsOf x r)

/-- R211: the pins of a list of inputs. -/
def pinMask (ks : List Nat) : BitVec 8 := ks.foldl (fun m k => m ||| (1#8 <<< k)) 0

/-- R211, R212: a lane's region as a word issues: one more word counted, and the inputs it reads otherwise pinned where the
lane is active. -/
def Lane.countWord (x : Word) (i : Nat) (L : Lane) : Lane :=
  match L.region with
  | none => L
  | some r =>
    let pins := if inMask x.act i then match tagRule x i r with | .pin ks => pinMask ks | _ => 0 else 0
    { L with region := some { r with count := r.count + 1, pins := r.pins ||| pins } }

/-- R209: the tag of a word's lane result. -/
def resultTag (x : Word) (i : Nat) (L : Lane) : Option Tag :=
  match L.region with
  | none => none
  | some r => match tagRule x i r with | .keep t => some t | _ => none

/-- R209: a lane's register n now carries a tag, or none. -/
def Lane.setTag (L : Lane) (n : Nat) (t : Option Tag) : Lane :=
  match L.region with
  | none => L
  | some r =>
    let rest := r.rtags.filter fun p => p.1 != n
    { L with region := some { r with rtags := match t with | some t => insertNat n t rest | none => rest } }

/-- R59, R60, R209: an entry enters a lane's window with its tag. -/
def Lane.shift (L : Lane) (v : Option W64) (t : Option Tag) : Lane :=
  { L with
    win := (v :: L.win).take 4
    region := L.region.map fun r => { r with ltags := (t :: r.ltags).take 4 } }

/-- R207, R218, R220: some lanes of a split leave their region for its fallback: the whole split moves, or a new split is made,
which clears every window (R60, R61). A move of the whole split is no clearing point: its window and its record stay. The entry of
the new split, where it is in the table. -/
def Group.sendBack (G : Group) (e : Nat) (m : LMask) (fallback : W64) : Group × Option Nat :=
  if (G.split e).mask &&& ~~~ m = 0 then
    (G.modSplit e fun p => { p with lpc := fallback }, none)
  else
    let d := G.divide e m fallback
    (d.1.clearingPoint, d.2)

/-- R209, R221: closes the regions of some lanes with a status and a detail. -/
def Group.closeRegions (G : Group) (m : LMask) (status detail : Nat) : Group :=
  G.mapLanes fun i L => if inMask m i then L.closeRegion status detail else L

/-- The fallback of a split's open region. -/
def Group.fallbackOf (G : Group) (e : Nat) : W64 := ((G.regionOf (G.split e).mask).map (·.fallback)).getD 0

/-- R212, R220: lanes abort their regions and go to the fallback. -/
def Group.abortLanes (G : Group) (e : Nat) (m : LMask) (status detail : Nat) : Group × Option Nat :=
  let fb := G.fallbackOf e
  (G.closeRegions m status detail).sendBack e m fb

/-- R220: lanes of a split can leave it: all of them, or a new split can be placed. -/
def Group.canSendBack (G : Group) (e : Nat) (m : LMask) : Bool := (G.split e).mask &&& ~~~ m == 0 || G.canPlace

/-! ### Results -/

/-- What an L word does. -/
inductive LRes where
  /-- The word takes its effect and retires; its split goes on at the next word. -/
  | done (s : State)
  /-- The word takes its effect and retires; its split goes on at the target. -/
  | jump (s : State) (target : W64)
  /-- The word takes its effect and retires; it has placed its split itself. -/
  | stay (s : State)
  /-- The word traps before any effect. -/
  | trap (t : TrapInfo)
  /-- The word traps before any effect, with free values that `s` has drawn. -/
  | trapWith (t : TrapInfo) (s : State)
  /-- The word traps with the effect of some of its lanes (kind P). -/
  | part (t : TrapInfo) (s : State)
  /-- The word retires and then traps (kind A); it has placed its split itself. -/
  | after (t : TrapInfo) (s : State)
  /-- The word stalls at issue. -/
  | wait (w : SplitWait)
  /-- The word has issued and is not complete. -/
  | hold (w : SplitWait) (s : State)
  /-- The word meets a service fault. -/
  | service (c : Cause) (needs : List Need)
  deriving DecidableEq, Repr

/-- A trap of an L word with its lanes and detail. -/
def Word.info (x : Word) (c : Cause) (k : TrapKind) (lanes : LMask) (d0 d1 : W64 := 0) : TrapInfo :=
  { cause := c, kind := k, lStream := true, lanes := lanes, split := some x.e, fpc := x.p.lpc, d0 := d0, d1 := d1 }

/-- A trap of kind W of an L word (R281). -/
def Word.failW (x : Word) (c : Cause) (d0 d1 : W64 := 0) : LRes := .trap (x.info c .word x.p.mask d0 d1)

/-- A trap of kind L of an L word on some lanes (R281). -/
def Word.failL (x : Word) (c : Cause) (lanes : LMask) (d0 d1 : W64 := 0) : LRes := .trap (x.info c .lane lanes d0 d1)

/-- Changes the word's group. -/
def Word.mod (x : Word) (s : State) (f : Group → Group) : State := s.modGroup x.E.w x.E.g f

/-! ### Issue -/

/-- R60: the lanes that read an invalid latch, by lane. -/
def badLatches (x : Word) (i : Nat) : List (BitVec 2) :=
  (latchesOf (usedSrcs x.op x.o)).filter fun y => ((x.G.lane i).latch y).isNone

/-- R60, R289: LATCH_INVALID. -/
def latchTrap (x : Word) : Option TrapInfo :=
  let bad := maskOf fun i => inMask x.act i && !(badLatches x i).isEmpty
  if bad = 0 then none
  else
    let ks := (lanesOf bad).flatMap (badLatches x)
    some (x.info .latchInvalid .lane bad (ks.foldl (fun m y => m ||| (1#64 <<< y.toNat)) 0))

/-- R138: entry e has issued, parked or ended: no `YLD` waits for it any longer. -/
def Group.moved (G : Group) (e : Nat) : Group :=
  G.mapSplits fun _ p => { p with yield := p.yield &&& ~~~ (1#8 <<< e) }

/-- R130: the group as entry e issues a word: the entry has issued last; no `YLD` waits for the entry any longer (R138). -/
def Group.slot (G : Group) (e : Nat) : Group :=
  let n := G.S.stamp + 1
  let G : Group := { G with S := { G.S with stamp := n } }
  (G.modSplit e fun p => { p with stamp := n }).moved e

/-- The group as the word issues: its issue slot (R130), its last word (R286), the region count (R212) and pins, uq popped (R103),
the skip mask used (R287), and the windows cleared by a clearing word (R60). -/
def Word.begin (x : Word) (clears : Bool) (G : Group) : Group :=
  let skip := if skipMask G x.e x.p = 0 then G.T.skip else none
  let G := G.slot x.e
  let G : Group := { G with
    S := { G.S with uq := if popsUq x.o then G.S.uq.drop 1 else G.S.uq }
    T := { G.T with skip := skip } }
  let G := G.modSplit x.e fun p => { p with flast := pc26 p.lpc, wait := .none }
  let G := G.mapLanes fun i L => if inMask x.p.mask i then L.countWord x i else L
  if clears || popsUq x.o then G.clearingPoint else G

/-- R212: every lane of the split is over a limit: the word does nothing, and the split moves to its fallback. -/
def Word.giveUp (x : Word) (s : State) (excess : LMask) (detail : Nat) : LRes :=
  .stay (s.setGroup x.E.w x.E.g (((x.G.slot x.e).abortLanes x.e excess 4 detail).1))

/-- A word that has issued and is not complete: its split's history and the skip mask are as they were, in case it is stopped
unfinished (R282); what it took at issue stays taken until then (log entry 57). -/
def Word.held (x : Word) (G : Group) : Group :=
  ({ G with T := { G.T with skip := x.G.T.skip } } : Group).modSplit x.e fun p => { p with flast := x.p.flast, lpc := x.p.lpc }

/-- R161, R282: the records that the word's issue emptied are kept for a stop of it unfinished. -/
def Word.keepPast (x : Word) (G : Group) : Group :=
  let put := fun (ps : List Split) (k : Nat) (p : Split) =>
    match ps[k]? with
    | some q => { p with past := q.past, pastAt := q.pastAt }
    | none => p
  { G with L := { G.L with splits := G.L.splits.mapIdx (put x.G.L.splits), ovf := G.L.ovf.mapIdx (put x.G.L.ovf) } }

/-- R279, R281: a word that traps with some of its lanes done is issued again: uq is as it was too. That the entry goes back to the
head, where a sibling may take it after the return, is the model's choice (log entry 57). -/
def Word.unissue (x : Word) (G : Group) : Group := x.held { G with S := { G.S with uq := x.G.S.uq } }

/-- The uq entry that the word takes at its issue. -/
def Word.takes (x : Word) : Option W64 := if popsUq x.o then x.G.S.uq.head? else none

/-- R105: a word that pops uq comes after what the S-stream had done when it pushed the entry. -/
def Word.takeEntry (x : Word) (s : State) : State :=
  if popsUq x.o then s.pass (.entry x.E.w x.E.g true x.G.taken.length) x.who How.ordered else s

/-- R105: the uq entry of a word that is complete has left the queue. -/
def Word.entryGone (x : Word) (s : State) : State :=
  if popsUq x.o then s.leaveEntry x.E.w x.E.g true x.G.taken.length else s

/-- R112: a word whose flags trap has issued; its split is held until they are known, and siblings may issue before (log
entry 66). -/
def Word.flagHold (x : Word) (t : TrapInfo) (s : State) : LRes := .hold (.flags t x.takes) s

/-- What an L word's result makes of the state `s` in which it issued. -/
def applyL (s : State) (x : Word) : LRes → State
  | .done s' => x.mod (x.entryGone s') fun G => G.modSplit x.e fun p => { p with lpc := p.lpc + 1 }
  | .jump s' t => x.mod (x.entryGone s') fun G => G.modSplit x.e fun p => { p with lpc := t }
  | .stay s' => x.entryGone s'
  | .trap t => takeTrap s x.E.w x.E.g t
  | .trapWith t s' => takeTrap (s'.setGroup x.E.w x.E.g x.G) x.E.w x.E.g t
  | .part t s' =>
    takeTrap (x.mod s' fun G => (x.unissue G).modSplit x.e fun p => { p with rep := x.p.rep, past := x.p.rep }) x.E.w x.E.g t
  | .after t s' => takeTrap (x.entryGone s') x.E.w x.E.g t
  | .wait w => x.mod s fun G => G.modSplit x.e fun p => { p with wait := w }
  | .hold w s' =>
    x.mod s' fun G =>
      let G := (x.held G).modSplit x.e fun p => { p with wait := w }
      if w.finishes then G else x.keepPast G
  | .service c needs =>
    swapOut s x.E.w { group := x.E.g, split := some x.e, pc := x.p.lpc, cause := c, needs := needs }

/-- An L word at issue, in order: the word limit and the refusals of an open region, uq, latches, then its own checks and
effect (R57, R58, R208, R212). -/
def issueL (s : State) (x : Word) (clears : Bool) (f : Word → State → LRes) : State :=
  match x.G.regionOf x.p.mask with
  | some r =>
    if 64 ≤ r.count then x.mod s fun G => ((G.slot x.e).abortLanes x.e x.p.mask 4 3).1
    else
      match regionFault x.op.toNat true with
      | some c => takeTrap s x.E.w x.E.g (x.info c .word x.p.mask)
      | none => go
  | none =>
    match regionFault x.op.toNat false with
    | some c => takeTrap s x.E.w x.E.g (x.info c .word x.p.mask)
    | none => go
where
  go : State :=
    if namesUq x.o && x.G.S.uq.isEmpty then applyL s x (.wait .queue)
    else
      match latchTrap x with
      | some t => takeTrap s x.E.w x.E.g t
      | none => applyL s x (f x (x.mod (x.takeEntry s) (x.begin clears)))

/-- The word being executed, where its group issues, its block runs and its split is ready to issue. -/
def wordOf (s : State) (op : BitVec 8) (o : LOp) : Option Word :=
  match envOf s with
  | none => none
  | some E =>
    let e := s.ctl.who.e
    let p := E.G.split e
    if E.G.L.running && p.mayIssue then
      some { E := E, e := e, p := p, op := op, o := o, act := activeMask E.G e p o }
    else none

/-- An L word: it must be able to issue; then it issues. -/
def lWord (s : State) (op : BitVec 8) (o : LOp) (clears : Bool) (f : Word → State → LRes) :
    Host.Outcome State Fault Refusal :=
  match wordOf s op o with
  | none => .fault .noAgent
  | some x => .next (issueL s x clears f)

/-! ### Write-back -/

/-- R59, R60: the window entries that a word shifts in, and its place in the replay record; a word that pops uq shifts
nothing. `rs` holds the results of lanes 0 to 31. -/
def Word.shiftIn (x : Word) (reg : Option (BitVec 8)) (rs : List (Option (W64 × Option Tag))) (G : Group) : Group :=
  if popsUq x.o then G
  else
    let G := G.mapLanes fun i L =>
      if inMask x.p.mask i then
        match rs.getD i none with
        | some r => L.shift (some r.1) r.2
        | none => L.shift none none
      else L
    G.modSplit x.e fun p => p.push (pc26 x.p.lpc) x.o.nw (if x.act = 0 then none else reg) x.act p.stamp

/-- R108: writes the results of a word to VD on its active lanes, raises their flags, and shifts them into the windows. -/
def Word.writeBack (x : Word) (rs : List (Option (W64 × BitVec 5))) (G : Group) : Group :=
  let ts := laneList.map fun i => resultTag x i (x.G.lane i)
  let vd := x.o.vd.toNat
  let G := G.mapLanes fun i L =>
    match rs.getD i none with
    | some r =>
      let L := L.raise r.2
      if x.o.nw then L else (L.w vd r.1).setTag vd (ts.getD i none)
    | none => L
  x.shiftIn (if x.o.nw then none else some x.o.vd)
    (laneList.map fun i => (rs.getD i none).map fun r => (r.1, ts.getD i none)) G

/-- A word that computes a lane result, with the flags it raises, on each active lane (R108, R73). -/
def computeWord (s : State) (op : BitVec 8) (o : LOp) (f : Word → Nat → W64 × BitVec 5) :
    Host.Outcome State Fault Refusal :=
  lWord s op o false fun x s =>
    let rs := laneList.map fun i => if inMask x.act i then some (f x i) else none
    match flagTrap x (rs.map fun r => (r.map (·.2)).getD 0) with
    | some t => x.flagHold t s
    | none => .done (x.mod s (x.writeBack rs))

/-- A word that computes a lane result and raises no flag. -/
def moveWord (s : State) (op : BitVec 8) (o : LOp) (f : Word → Nat → W64) : Host.Outcome State Fault Refusal :=
  computeWord s op o fun x i => (f x i, 0)

/-- A word with no lane result that shifts an invalid entry (R59). -/
def plainWord (s : State) (op : BitVec 8) (o : LOp) (f : Word → Group → Group) : Host.Outcome State Fault Refusal :=
  lWord s op o false fun x s => .done (x.mod s fun G => x.shiftIn none [] (f x G))

/-! ### Predicates -/

/-- R210: the constraint that `CMP` records on a lane, if it records one. -/
def constraintOf (x : Word) (i : Nat) (outcome : Bool) (L : Lane) : Option Constraint :=
  match L.region with
  | none => none
  | some r =>
    match tagRule x i r with
    | .constrain t left =>
      some { input := t.input, offset := t.offset, cond := x.o.var, signed := x.o.ty == .i64, tagLeft := left,
             other := x.src x.o.ty i (if left then x.o.b else x.o.a), outcome := outcome }
    | _ => none

/-- R210: a lane's region with one more constraint. -/
def Lane.addCons (L : Lane) (c : Constraint) : Lane :=
  { L with region := L.region.map fun r => { r with cons := r.cons ++ [c] } }

/-- R212: the lanes on which a constraint would be the seventeenth. -/
def consOver (x : Word) : LMask :=
  maskOf fun i =>
    inMask x.act i && (constraintOf x i true (x.G.lane i)).isSome
      && decide (16 ≤ ((x.G.lane i).region.map (·.cons.length)).getD 0)

/-- A word that writes a predicate and shifts an invalid entry (R59, R114, R118). -/
def predWord (s : State) (op : BitVec 8) (o : LOp) (f : Word → Nat → Bool × BitVec 5) :
    Host.Outcome State Fault Refusal :=
  lWord s op o false fun x s =>
    let excess := consOver x
    let rs := laneList.map fun i => if inMask x.act i && !inMask excess i then some (f x i) else none
    match flagTrap x (rs.map fun r => (r.map (·.2)).getD 0) with
    | some t => x.flagHold t s
    | none =>
      if excess ≠ 0 ∧ !x.G.canSendBack x.e excess then x.failW .splitOverflow
      else
        let write := fun (G : Group) => G.mapLanes fun i L =>
          match rs.getD i none with
          | some r =>
            let L' := (L.raise r.2).wp (x.o.vd.extractLsb' 0 3) r.1
            match constraintOf x i r.1 (x.G.lane i) with
            | some c => L'.addCons c
            | none => L'
          | none => L
        if excess = 0 then .done (x.mod s fun G => x.shiftIn none [] (write G))
        else if x.p.mask &&& ~~~ excess = 0 then x.giveUp s excess 1
        else .done (x.mod s fun G => ((x.shiftIn none [] (write G)).abortLanes x.e excess 4 1).1)

/-! ### Completing a word that waited -/

/-- R105: the uq entry of a held word that completes has left the queue. -/
def Word.heldGone (x : Word) (s : State) : State :=
  if x.p.wait.took.isSome then
    s.leaveEntry x.E.w x.E.g true (x.G.L.splits.filter fun q => q.wait.took.isSome && decide (q.stamp < x.p.stamp)).length
  else s

/-- A word that held its split completes: its split goes on at the next word; what a clearing word cleared stays cleared (R60). -/
def Word.complete (x : Word) (G : Group) : Group :=
  let G := if (G.split x.e).wait.finishes then G else G.everySplit (Split.settled (G.split x.e).stamp)
  let G : Group := { G with T := { G.T with skip := if skipMask G x.e x.p = 0 then G.T.skip else none } }
  G.modSplit x.e fun p => { p with flast := pc26 p.lpc, lpc := p.lpc + 1, wait := .none }

end Sys2Proof.Machine
end

