-- ==== Sys2Proof/Machine/Control.lean ====
section
/-! DEFINITION. The scalar stream: branches and calls, the loop stack, lane dispatch and the queues between the streams (R94 to
R104), with the start of a block. -/

namespace Sys2Proof.Machine

/-! ### Branches and calls -/

/-- R94: a condition on a value read as i64. -/
def condHolds : Cond → W64 → Bool
  | .al, _ => true
  | .eqz, v => v == 0
  | .nez, v => v != 0
  | .ltz, v => v.slt 0
  | .gez, v => !v.slt 0
  | .lez, v => v.slt 0 || v == 0
  | .gtz, v => !(v.slt 0 || v == 0)

/-- B (R94, R97). -/
def execB (c : Cond) (a : BitVec 6) (o : BitVec 16) (s : State) : Host.Outcome State Fault Refusal :=
  sWord s fun E => if condHolds c (E.G.rS a) then .jump s (E.G.S.pc + o.signExtend 64) true else .done s

/-- J (R94, R97). -/
def execJ (o : BitVec 26) (s : State) : Host.Outcome State Fault Refusal :=
  sWord s fun E => .jump s (E.G.S.pc + o.signExtend 64) true

/-- R94, R97: a call: the link register gets the address of the next word and the call depth rises by one. -/
def Group.link (G : Group) (d : BitVec 6) : Group :=
  let G' := G.wS d (G.S.pc + 1)
  { G' with S := { G'.S with depth := G.S.depth + 1 } }

/-- CALL (R94). -/
def execCall (o : BitVec 26) (s : State) : Host.Outcome State Fault Refusal :=
  sWord s fun E => .jump (s.modGroup E.w E.g fun G => G.link 62) (E.G.S.pc + o.signExtend 64) false

/-- R97: the innermost loop entry is of the current call depth. -/
def Group.loopHere (G : Group) : Bool := G.S.loops.head?.any fun e => e.depth == G.S.depth

/-- JR (R94, R97): through s62 it is a return, which lowers the call depth. -/
def execJr (a : BitVec 6) (s : State) : Host.Outcome State Fault Refusal :=
  sWord s fun E =>
    if a = 62 then
      if E.G.loopHere then .fail .loopOpenRet
      else .jump (s.modGroup E.w E.g fun G => { G with S := { G.S with depth := G.S.depth - 1 } }) (E.G.rS a) false
    else .jump s (E.G.rS a) true

/-- JALR (R94): sa is read before sd is written. -/
def execJalr (d a : BitVec 6) (s : State) : Host.Outcome State Fault Refusal :=
  sWord s fun E => .jump (s.modGroup E.w E.g fun G => G.link d) (E.G.rS a) false

/-! ### Loops -/

/-- R95: a loop of c runs whose body ends at the loop word's address plus `o`. -/
def startLoop (s : State) (E : Env) (c : W64) (o : BitVec 14) : SRes :=
  let stop := E.G.S.pc + o.setWidth 64
  if c = 0 then .jump s (stop + 1) false
  else if 4 ≤ E.G.S.loops.length then .fail .loopOverflow
  else if E.G.S.loops.any fun e => e.depth == E.G.S.depth && decide (e.stop.toNat < stop.toNat) then .fail .loopNest
  else .group s E fun G =>
    { G with S := { G.S with loops := { start := G.S.pc + 1, stop := stop, count := c - 1, depth := G.S.depth } :: G.S.loops } }

/-- LOOP (R95). -/
def execLoop (a : BitVec 6) (o : BitVec 14) (s : State) : Host.Outcome State Fault Refusal :=
  sWord s fun E => startLoop s E (E.G.rS a) o

/-- LOOPI (R95). -/
def execLoopi (c : BitVec 12) (o : BitVec 14) (s : State) : Host.Outcome State Fault Refusal :=
  sWord s fun E => startLoop s E (c.setWidth 64) o

/-- LBRK (R98). -/
def execLbrk (s : State) : Host.Outcome State Fault Refusal :=
  sWord s fun E =>
    if E.G.loopHere then
      let stop := (E.G.S.loops.head?.map (·.stop)).getD 0
      .jump (s.modGroup E.w E.g fun G => { G with S := { G.S with loops := G.S.loops.drop 1 } }) (stop + 1) false
    else .fail .loopUnderflow

/-! ### Lane dispatch -/

/-- R46, R100: appends a block start to the dispatch queue. -/
def enqueueBlock (s : State) (E : Env) (start : Nat) : SRes :=
  if E.K.header.lsize ≤ start then .fail .lrunTarget
  else if 8 ≤ E.G.S.dq.length then .wait .queue s
  else .group (s.askBlock E.w E.g E.G.S.dq.length) E fun G => { G with S := { G.S with dq := G.S.dq ++ [BitVec.ofNat 26 start] } }

/-- LRUN (R100). -/
def execLrun (o : BitVec 26) (s : State) : Host.Outcome State Fault Refusal :=
  sWord s fun E => enqueueBlock s E o.toNat

/-- LRUNR (R46, R100). -/
def execLrunr (a : BitVec 6) (s : State) : Host.Outcome State Fault Refusal :=
  sWord s fun E =>
    let v := E.G.rS a
    if v.extractLsb' 26 38 ≠ 0 then .fail .lrunTarget else enqueueBlock s E (v.extractLsb' 0 26).toNat

/-- LWAIT (R102). -/
def execLwait (s : State) : Host.Outcome State Fault Refusal :=
  sWord s fun E => if E.G.lanesDone then .group (s.joinLanes E.w E.g) E Group.cover else .wait .lwait s

/-- An event of a group that may issue. -/
def groupEvent (s : State) (w g : Nat) (enabled : Env → Bool) (f : Env → State → State) :
    Host.Outcome State Fault Refusal :=
  match envAt s w g with
  | some E => event s (E.issues && enabled E) (f E)
  | none => .next s

/-- R279, R302: an event that completes an issued word of a group, wherever the group is. -/
def lateEvent (s : State) (w g : Nat) (enabled : Env → Bool) (f : Env → State → State) :
    Host.Outcome State Fault Refusal :=
  match envAt s w g with
  | some E => event s (E.G.fin == .running && enabled E) (f E)
  | none => .next s

/-- LWAIT_RELEASE (R102): a held `LWAIT` retires once the L-stream is idle with an empty dispatch queue. -/
def execLwaitRelease (wg g : Nat) (s : State) : Host.Outcome State Fault Refusal :=
  groupEvent s wg g (fun E => E.G.S.stall == .lwait && E.G.lanesDone)
    fun _ s => (s.joinLanes wg g).modGroup wg g fun G => G.cover.retire

/-- PUSHU (R103). -/
def execPushu (a : BitVec 6) (s : State) : Host.Outcome State Fault Refusal :=
  sWord s fun E =>
    let n := E.G.S.uq.length + E.G.taken.length
    if 32 ≤ n then .wait .queue s
    else .group (s.pass E.who (.entry E.w E.g true n) How.ordered) E fun G => { G with S := { G.S with uq := G.S.uq ++ [G.rS a] } }

/-- POPB (R103). -/
def execPopb (d : BitVec 6) (s : State) : Host.Outcome State Fault Refusal :=
  sWord s fun E =>
    match E.G.S.bq with
    | [] => .wait .queue s
    | v :: rest =>
      .group ((s.pass (.entry E.w E.g false 0) E.who How.past).leaveEntry E.w E.g false 0) E fun G => ({ G with S := { G.S with bq := rest } } : Group).wS d v

/-- R101: the L-stream takes the head of the dispatch queue: one split with every live lane at the block's start, or nothing
where no lane is alive. -/
def startBlock (G : Group) : Group :=
  match G.S.dq with
  | [] => G
  | start :: rest =>
    let G := { G.clearWins with S := { G.S with dq := rest }, L := { G.L with blockSeq := G.L.blockSeq + 1, blockStart := start } }
    if G.L.alive = 0 then G
    else
      let p : Split := { Split.freeEntry with st := .ready, lpc := start.setWidth 64, mask := G.L.alive, flast := start }
      { G with L := { G.L with running := true, splits := p :: List.replicate 7 Split.freeEntry } }

/-- BLOCK_START (R101, R356): a block of no live lane passes its end at once, with an END that names its start (log entry 50). -/
def execBlockStart (wg g : Nat) (s : State) : Host.Outcome State Fault Refusal :=
  groupEvent s wg g (fun E => !E.G.L.running && !E.G.S.dq.isEmpty) fun E s =>
    let start := ((E.G.S.dq.head?).getD 0).toNat
    let s := emitBlock (s.blockLate wg g) wg g start E.G.L.alive.toNat
    let s := if E.G.L.alive = 0 then emitEnd s wg g 0 false true start 0 else s
    s.modGroup wg g startBlock

/-! ### The deadlock test -/

/-- R104: the S word at issue is one that only the L-stream can serve. -/
def waitsForLanes (E : Env) : Bool :=
  let G := E.G
  let held := !G.lanesDone
  G.S.stall != .none &&
  match decodeS (E.K.scode.getD G.S.pc.toNat 0) with
  | .ok (.popb _) => G.S.bq.isEmpty
  | .ok (.pushu _) => decide (32 ≤ G.S.uq.length + G.taken.length)
  | .ok (.lrun _) => decide (8 ≤ G.S.dq.length)
  | .ok (.lrunr _) => decide (8 ≤ G.S.dq.length)
  | .ok .lwait => held
  | .ok .exit => G.S.stall == .implied && held
  | .ok (.bar _) => G.S.stall == .implied && held
  | .ok .eret => G.S.stall == .implied && held
  | _ => false

/-- R50, R104: a word reads uq. -/
def readsUq (o : LOp) : Bool :=
  o.a == .uqPop || o.a == .uqPeek || o.b == .uqPop || o.b == .uqPeek || o.c == .uqPop || o.c == .uqPeek

/-- R104: a split is stalled on a queue that only the S-stream can serve, or is parked. -/
def splitStuck (E : Env) (p : Split) : Bool :=
  let G := E.G
  p.parked ||
  (p.st == .ready && p.wait == .queue &&
   match decodeL E.K.header.lregs (E.K.lcode.getD p.lpc.toNat 0) with
   | .ok i =>
     match lParts i with
     | some (op, o) => (readsUq o && G.S.uq.isEmpty) || (op == 0x61 && decide (16 ≤ G.S.bq.length))
     | none => false
   | .error _ => false)

/-- R104: the L-stream is stuck. -/
def lanesStuck (E : Env) : Bool :=
  let G := E.G
  if G.L.running then
    G.L.ovf.isEmpty && G.liveEntries.all (fun e => splitStuck E (G.split e)) && !G.liveEntries.all (fun e => (G.split e).parked)
  else G.S.dq.isEmpty

/-- QUEUE_DEADLOCK (R104): both streams wait for each other; a trap of kind W at the stalled S word. -/
def execQueueDeadlock (wg g : Nat) (s : State) : Host.Outcome State Fault Refusal :=
  groupEvent s wg g (fun E => waitsForLanes E && lanesStuck E) fun _ s =>
    takeTrap s wg g { cause := .queueDeadlock, kind := .word }

end Sys2Proof.Machine
end

