-- ==== Sys2Proof/Machine/ScalarTable.lean ====
section
/-! DEFINITION. Scalar table access: SKLD, SKST and KSWAP (R106, R107). -/

namespace Sys2Proof.Machine

/-- R289: a trap of a table cause at an S word: its slot and its key or row id. -/
def tableFail (c : Cause) (slot : BitVec 6) (k : W64) : SRes := .fail c (slot.setWidth 64) k

/-- R106: the checks of a scalar access, then the access to the row's bytes. A load may judge its row by a row-cache copy
(R182). -/
def scalarAccess (s : State) (E : Env) (slot : BitVec 6) (k : W64) (off : Nat) (store : Bool)
    (act : State → Bound → Row → SRes) : SRes :=
  match slotOf s E.La slot with
  | .unbound => tableFail .noTable slot k
  | .absent id =>
    if store && (E.La.binding slot).any (·.ro) then tableFail .slotReadonly slot k else .service .dirAbsent [.descriptor id]
  | .bound b =>
    let d := (s.resolve E.La E.party slot).draw
    let s := d.2
    if store && b.ro then tableFail .slotReadonly slot k
    else if b.t.desc.width < off + 8 then tableFail .colRange slot k
    else
      match pickRow s (!store && d.1 % 2 == 1) E.W.coreNo b.v b.t true (k.setWidth 128) off 8 with
      | .error c => tableFail c slot k
      | .ok r =>
        match accessCheck s b.v b.t E.world (if store then .wr else .rd) (r.addr + off) 8 with
        | .service c ns => .service c ns
        | .fault c => tableFail c slot k
        | .ok => if !store && b.t.badData (r.addr + off) 8 then tableFail .eccUncorr slot k else act s b r

/-- SKLD (R106): the read goes through the row cache (R180). -/
def execSkld (d a t : BitVec 6) (o : BitVec 8) (s : State) : Host.Outcome State Fault Refusal :=
  sWord s fun E =>
    let off := 8 * o.toNat
    scalarAccess s E t (E.G.rS a) off false fun s b r =>
      let q := readRow s s E.party b.v r (r.addr + off) 8
      .group q.2 E fun G => G.wS d (bytesToWord q.1)

/-- SKST (R106): the store writes through to the home die (R180). -/
def execSkst (d a t : BitVec 6) (o : BitVec 8) (s : State) : Host.Outcome State Fault Refusal :=
  sWord s fun E =>
    let off := 8 * o.toNat
    scalarAccess s E t (E.G.rS a) off true fun s b r =>
      .done (storeRow s E.party b.v (r.addr + off) (wordToBytes 8 (E.G.rS d)))

/-- R176, R303: what a service can make present is present. -/
def State.present (s : State) : Need → Bool
  | .slab v slab => (s.table? v).any fun t => !t.absent.contains slab
  | .descriptor id => s.mem.held.contains id
  | .window i => (lookupNat i s.mem.windows).any fun w => w.st == .active

/-- R303: something is held present: a workgroup that has been serviced still has to issue the word that named it, or another's
service has made it present for one whose list names it too. -/
def State.kept (s : State) (n : Need) : Bool :=
  s.wgs.any fun W => W.holds.contains n || (W.faults.any (fun f => f.needs.contains n) && s.present n)

/-- R107, R264: the exchange of two ids releases at `.dom`, and who resolves either acquires from it. -/
def State.releaseSwap (s : State) (E : Env) (x y : BitVec 32) : State :=
  let s := (s.forgets (.swap x)).forgets (.swap y)
  (s.pass E.who (.swap x) (How.through domAll)).pass E.who (.swap y) (How.through domAll)

/-- R107, R178, R278: exchanges the descriptors of two ids in one step; every directory cache drops the two ids, but for a descriptor
that a service holds present (R303), and a core that resolves either afterwards drops its row-cache lines. -/
def swapTables (s : State) (x y : BitVec 32) (vx vy : Nat) : State :=
  { s with
    mem := { s.mem with
      dir := s.mem.dir.map fun p => if p.1 == x then (p.1, vy) else if p.1 == y then (p.1, vx) else p
      held := s.mem.held.filter fun k => !(k == x || k == y) || s.kept (.descriptor k) }
    cores := s.cores.map fun p => (p.1, { p.2 with due := x :: y :: p.2.due.filter fun k => !(k == x || k == y) }) }

/-- R107: the kinds, key types and row widths of two tables differ. -/
def kindsDiffer (a b : Desc) : Bool := a.kind != b.kind || a.k128 != b.k128 || a.width != b.width

/-- KSWAP (R107, R278): the swap releases at `.dom`; the S-stream holds until `KSWAP_COMPLETE`. -/
def execKswap (a t : BitVec 6) (s : State) : Host.Outcome State Fault Refusal :=
  sWord s fun E =>
    let k := E.G.rS a
    let y : BitVec 32 := k.setWidth 32
    match slotOf s E.La t with
    | .unbound => tableFail .noTable t k
    | .absent id =>
      .service .dirAbsent (.descriptor id :: if k.extractLsb' 32 32 ≠ 0 || s.descHeld y || id == y then [] else [.descriptor y])
    | .bound b =>
      if k.extractLsb' 32 32 ≠ 0 then tableFail .noTable t k
      else if !s.descHeld y then .service .dirAbsent [.descriptor y]
      else
        match s.versionOf y with
        | none => tableFail .noTable t k
        | some vy =>
          match s.table? vy with
          | none => tableFail .noTable t k
          | some u =>
            if b.ro then tableFail .slotReadonly t k
            else if b.t.desc.owner != E.world || u.desc.owner != E.world then tableFail .notOwner t k
            else if kindsDiffer b.t.desc u.desc then tableFail .kindMismatch t k
            else .wait .kswap (swapTables (s.releaseSwap E b.id y) b.id y b.v vy)

/-- KSWAP_COMPLETE (R107). -/
def execKswapComplete (wg g : Nat) (s : State) : Host.Outcome State Fault Refusal :=
  groupEvent s wg g (fun E => E.G.S.stall == .kswap) fun _ s => s.modGroup wg g Group.retire

end Sys2Proof.Machine
end

