-- ==== Sys2Proof/Machine/Engines.lean ====
section
/-! DEFINITION. The engine words COPY, GATHER and BLOAD: counters and locators (R227, R228), descriptors and their checks (R226,
R231, R236, R239), job slots (R225), the collective of `COPY` (R232) and footprints (R242). -/

namespace Sys2Proof.Machine

/-! ### Locators -/

/-- R228: what a word may locate: whether it adds to the counter, whether a scratchpad counter may be of scope `.clu`, and
whether it must be one (R235). -/
structure LocUse where
  adds    : Bool
  clu     : Bool
  onlyClu : Bool
  deriving DecidableEq, Repr

/-- R228: a locator that is malformed for its use. -/
def locatorBad (l : W64) (u : LocUse) : Bool :=
  let sc := (locScope l).toNat
  l.getLsbD 59 || decide (5 < sc)
  || (!locKind l && (l.extractLsb' 32 27 != 0 || decide ((if u.clu then 2 else 1) < sc)))
  || (u.onlyClu && (locKind l || sc != 2))

/-- R226 check 2, R228: the counter that a locator in register `reg` names. -/
def locateCounter (s : State) (E : Env) (l : W64) (reg : BitVec 6) (u : LocUse) (k : Counter → SRes) : SRes :=
  if locatorBad l u then .fail .counterLoc (reg.setWidth 64)
  else if !locKind l then
    let off := bitsOf l 31 0
    if off % 8 ≠ 0 then .fail .counterAlign (reg.setWidth 64)
    else if E.W.size < off + 8 then .fail .scrRange (BitVec.ofNat 64 off)
    else k (.scratch off)
  else
    let slot := locSlot l
    let key : W64 := BitVec.ofNat 64 (locKey l)
    match slotOf s E.La slot with
    | .unbound => tableFail .noTable slot key
    | .absent id => .service .dirAbsent [.descriptor id]
    | .bound b =>
      if u.adds && b.ro then tableFail .slotReadonly slot key
      else if !b.t.desc.isArray then tableFail .kindMismatch slot key
      else if b.t.desc.rows ≤ locKey l then tableFail .keyRange slot key
      else if b.t.desc.width < locOff l + 8 then tableFail .colRange slot key
      else k (.table slot b.v (locKey l * b.t.desc.width + locOff l))

/-- R178: a table counter as its slot resolves now. -/
def Counter.resolve (s : State) (La : Launch) : Counter → Counter
  | .scratch off => .scratch off
  | .table slot v addr =>
    match slotOf s La slot with
    | .bound b => .table slot b.v addr
    | _ => .table slot v addr

/-- R235: the linear index of receiver r. -/
def receiverIndex (La : Launch) (W : Wg) (r : Nat) : Nat :=
  match La.clusterLevel with
  | some l => instBase La W l + r
  | none => r

/-! ### COPY descriptors -/

/-- R231: a `COPY` descriptor, in bytes and rows. -/
structure CopyD where
  crows  : Nat
  cdst   : Nat
  stride : Nat
  mc     : Bool
  recv   : Nat
  slot   : BitVec 6
  mode   : Nat
  tofs   : Nat
  pitch  : Nat
  rows   : Nat
  rbytes : Nat
  sofs   : Nat
  deriving DecidableEq, Repr

/-- R231: the fields of four descriptor registers. -/
def copyD (d : List W64) : CopyD :=
  let d0 := d.getD 0 0
  let d2 := d.getD 2 0
  { crows := bitsOf d0 59 44, cdst := 32 * bitsOf d0 43 29, stride := 32 * bitsOf d0 28 14, mc := d0.getLsbD 12,
    recv := bitsOf d0 11 8, slot := d0.extractLsb' 2 6, mode := bitsOf d0 1 0, tofs := (d.getD 1 0).toNat,
    pitch := 32 * bitsOf d2 60 46, rows := bitsOf d2 45 26 + 1, rbytes := 32 * (bitsOf d2 25 15 + 1),
    sofs := 32 * bitsOf d2 14 0 }

/-- The bytes from the first to the last of h rows at a pitch. -/
def spanOf (h pitch bytes : Nat) : Nat := (h - 1) * pitch + bytes

/-- R231: the scratchpad bytes of a slice's own rows. -/
def CopyD.span (c : CopyD) : Nat := spanOf c.rows c.pitch c.rbytes

/-- R231: a multicast `COPY`. -/
def CopyD.multicast (c : CopyD) : Bool := c.mode == 0 && c.mc

/-- R235: how many workgroups receive. -/
def CopyD.receivers (c : CopyD) : Nat := if c.mc then c.recv + 1 else 1

/-- R231, R235: the descriptor is refused before any table is looked at. -/
def copyBad (La : Launch) (d : List W64) : Bool :=
  let c := copyD d
  let d0 := d.getD 0 0
  bitsOf d0 63 60 != 0 || d0.getLsbD 13 || bitsOf (d.getD 2 0) 63 61 != 0
  || (!c.mc && (c.crows != 0 || c.cdst != 0 || c.recv != 0 || (c.mode != 2 && c.stride != 0)))
  || (c.mode == 2 && c.slot != 0) || c.mode == 3 || (c.mc && c.mode != 0) || c.tofs % 32 != 0
  || (decide (1 < c.rows) && (decide (c.pitch < c.rbytes) || (c.mode == 2 && decide (c.stride < c.rbytes))))
  || (c.mode == 2 && decide (c.tofs < c.sofs + c.span) && decide (c.sofs < c.tofs + spanOf c.rows c.stride c.rbytes))
  || (c.mc && match La.clusterLevel with
              | some l => decide (La.instSize l < c.recv + 1)
              | none => true)

/-- R231: the scratchpad ranges of a `COPY`, as lowest byte and byte after the last. -/
def copyScratch (c : CopyD) : List (Nat × Nat) :=
  [(c.sofs, c.sofs + c.span + (if c.mc then c.recv * c.stride else 0))]
  ++ (if c.mode = 2 then [(c.tofs, c.tofs + spanOf c.rows c.stride c.rbytes)] else [])
  ++ (if c.mc && c.crows != 0 then [(c.cdst, c.cdst + spanOf c.crows c.pitch c.rbytes)] else [])

/-- R226 check 5: scratchpad ranges lie within the allotment. -/
def scratchFits (E : Env) (rs : List (Nat × Nat)) (k : SRes) : SRes :=
  match rs.find? fun r => decide (E.W.size < r.2) with
  | some r => .fail .scrRange (BitVec.ofNat 64 r.1)
  | none => k

/-- R226 check 4: the bound slot of an engine word. Such a word names no key, and its table causes report key 0: DESIGN CHOICE
(entry 68). -/
def engineTable (s : State) (E : Env) (slot : BitVec 6) (write : Bool) (k : Bound → SRes) : SRes :=
  match slotOf s E.La slot with
  | .unbound => tableFail .noTable slot 0
  | .absent id => .service .dirAbsent [.descriptor id]
  | .bound b => if write && b.ro then tableFail .slotReadonly slot 0 else k b

/-! ### Jobs and slots -/

/-- The next place in the order of engine words. -/
def State.nextSlice (s : State) : Nat := s.jobs.foldl (fun a j => a + j.slices.length) 0

/-- R232: every group of the workgroup that has not ended has brought its slice. -/
def Job.gathered (s : State) (j : Job) : Bool :=
  match s.wgs[j.wg]? with
  | none => false
  | some W => (List.range W.groups.length).all fun g =>
      (W.groups[g]?).all fun G => G.fin != .running || j.slices.any fun q => q.group == g

/-- R225, R245: the job holds a slot of its core. A `COPY` whose slices have not all arrived holds none while its workgroup is
out. -/
def Job.holdsSlot (s : State) (j : Job) : Bool :=
  j.state != .complete &&
  (match j.kind with
   | .copy _ _ => j.state == .started || (s.wgs[j.wg]?).any (fun W => W.place == .active) || j.gathered s
   | _ => true)

/-- R225: a slot of the core is free. -/
def slotFree (s : State) (core : Nat) : Bool :=
  decide ((s.jobs.filter fun j => j.core == core && j.holdsSlot s).length < Config.jobSlots)

/-- The four registers of a descriptor (R225). -/
def descRegs (G : Group) (d : BitVec 6) : List W64 := (List.range 4).map fun k => G.rS (d + BitVec.ofNat 6 k)

/-- R225: a job with its first slice. -/
def newJob (s : State) (E : Env) (kind : JobKind) (d : List W64) (ctr : Counter) : Job :=
  { core := E.W.coreNo, wg := E.w, kind := kind, state := .forming,
    slices := [{ group := E.g, seq := s.nextSlice, d := d, ctr := ctr }],
    version := none, keys := [], done := [], owed := [], bad := [] }

/-- R243, R263: slice k of job n comes after what the group has done before the engine word. -/
def State.askSlice (s : State) (E : Env) (n k : Nat) : State := s.pass E.who (.slice n k) How.onward

/-- R225: a new job with its first slice. -/
def addJob (s : State) (E : Env) (kind : JobKind) (d : List W64) (ctr : Counter) : State :=
  { s.askSlice E s.jobs.length 0 with jobs := s.jobs ++ [newJob s E kind d ctr] }

/-- R225: issues a job of its own, where a slot is free. -/
def issueJob (s : State) (E : Env) (kind : JobKind) (d : List W64) (ctr : Counter) : SRes :=
  if slotFree s E.W.coreNo then .done (addJob s E kind d ctr) else .wait .job s

/-- R232: how many `COPY` words with a tag the group has issued. -/
def copiesOf (G : Group) (tag : BitVec 8) : Nat := ((G.copies.find? fun p => p.1 == tag).map (·.2)).getD 0

/-- R232: one more `COPY` with a tag. -/
def Group.countCopy (G : Group) (tag : BitVec 8) : Group :=
  { G with copies := (tag, copiesOf G tag + 1) :: G.copies.filter fun p => p.1 != tag }

/-- R232: the fields in which the slices of a job agree. -/
def sliceShape (c : CopyD) : Nat × BitVec 6 × Bool × Nat × Nat × Nat := (c.mode, c.slot, c.mc, c.recv, c.crows, c.stride)

/-- R232: the slice joins the job that it belongs to, or is the first of one. -/
def offerSlice (s : State) (E : Env) (reg : BitVec 6) (tag : BitVec 8) (d : List W64) (ctr : Counter) : SRes :=
  let kind : JobKind := .copy tag (copiesOf E.G tag)
  let counted := fun (s : State) => s.modGroup E.w E.g fun G => G.countCopy tag
  match s.jobs.findIdx? fun j => j.wg == E.w && j.kind == kind with
  | some n =>
    let first := ((s.jobs[n]?).bind fun j => j.slices.head?).map fun q => sliceShape (copyD q.d)
    if first = some (sliceShape (copyD d)) then
      .done (counted ((s.askSlice E n (((s.jobs[n]?).map (·.slices.length)).getD 0)).modJob n fun j =>
        { j with slices := j.slices ++ [{ group := E.g, seq := s.nextSlice, d := d, ctr := ctr }] }))
    else .fail .copySlice (reg.setWidth 64)
  | none =>
    if slotFree s E.W.coreNo then .done (counted (addJob s E kind d ctr))
    else .wait .job s

/-! ### The words -/

/-- COPY (R225, R226, R231, R232). -/
def execCopy (d : BitVec 6) (tag : BitVec 8) (s : State) : Host.Outcome State Fault Refusal :=
  sWord s fun E =>
    let ds := descRegs E.G d
    let c := copyD ds
    locateCounter s E (ds.getD 3 0) d { adds := true, clu := c.multicast, onlyClu := c.multicast } fun ctr =>
      if copyBad E.La ds then .fail .copyDesc (d.setWidth 64)
      else
        let rest := scratchFits E (copyScratch c) (offerSlice s E d tag ds ctr)
        if c.mode = 2 then rest
        else engineTable s E c.slot (c.mode == 1) fun b =>
          if !b.t.desc.isArray then tableFail .kindMismatch c.slot 0
          else if b.t.desc.width < c.rbytes then .fail .copyDesc (d.setWidth 64)
          else rest

/-- R236: a `GATHER` descriptor. -/
structure GatherD where
  ivec  : Nat
  count : Nat
  rids  : Bool
  mode  : Nat
  slot  : BitVec 6
  dst   : Nat
  stat  : Nat
  n     : Nat
  first : Nat
  off   : Nat
  deriving DecidableEq, Repr

/-- R236: the fields of four descriptor registers; `count` and `n` are one more than their fields. -/
def gatherD (d : List W64) : GatherD :=
  let d0 := d.getD 0 0
  let d1 := d.getD 1 0
  let d2 := d.getD 2 0
  { ivec := bitsOf d0 63 32, count := bitsOf d0 20 9 + 1, rids := d0.getLsbD 8, mode := bitsOf d0 7 6,
    slot := d0.extractLsb' 0 6, dst := bitsOf d1 63 32, stat := bitsOf d1 31 0, n := bitsOf d2 47 32 + 1,
    first := bitsOf d2 31 16, off := bitsOf d2 15 0 }

/-- R236: bytes of an output slice. -/
def GatherD.out (c : GatherD) : Nat := c.n * (match c.mode with | 1 => 2 | 2 => 4 | _ => 1)

/-- R236: the descriptor is refused before any table is looked at. -/
def gatherBad (d : List W64) : Bool :=
  let c := gatherD d
  bitsOf (d.getD 0 0) 31 21 != 0 || bitsOf (d.getD 2 0) 63 48 != 0 || c.mode == 3 || (c.mode == 0 && c.first != 0)
  || c.ivec % 8 != 0 || c.dst % 32 != 0 || c.out % 32 != 0

/-- R76, R174: the coded range that starts at an offset: its format (0 Q8, 1 Q4) and how many codes it holds. -/
def Desc.codedAt (d : Desc) (off : Nat) : Option (Nat × Nat) :=
  match d.fmtRanges.find? fun r => decide (rangeFmt r < 2) && rangeStart r == off with
  | none => none
  | some r => some (rangeFmt r, if rangeFmt r = 0 then rangeLen r - 4 else 2 * (rangeLen r - 4))

/-- R236: bytes of an index-vector entry. -/
def GatherD.entryBytes (c : GatherD) (t : Table) : Nat := if !c.rids && t.desc.k128 then 16 else 8

/-- R236: the scratchpad ranges of a `GATHER`: index vector, destination, status vector. -/
def gatherScratch (c : GatherD) (t : Table) : List (Nat × Nat) :=
  [(c.ivec, c.ivec + c.count * c.entryBytes t), (c.dst, c.dst + c.count * c.out), (c.stat, c.stat + c.count)]

/-- GATHER (R225, R226, R236). -/
def execGather (d : BitVec 6) (tag : BitVec 8) (s : State) : Host.Outcome State Fault Refusal :=
  sWord s fun E =>
    let ds := descRegs E.G d
    let c := gatherD ds
    locateCounter s E (ds.getD 3 0) d { adds := true, clu := false, onlyClu := false } fun ctr =>
      if gatherBad ds then .fail .gatherDesc (d.setWidth 64)
      else engineTable s E c.slot false fun b =>
        let coded := (b.t.desc.codedAt c.off).any fun q => decide (c.first + c.n ≤ q.2)
        if c.mode ≠ 0 ∧ !coded then tableFail .kindMismatch c.slot 0
        else if c.mode = 0 ∧ b.t.desc.width < c.off + c.n then tableFail .colRange c.slot 0
        else scratchFits E (gatherScratch c b.t) (issueJob s E (.gather tag) ds ctr)

/-- R239: a `BLOAD` descriptor; `lines` is one more than its field. -/
structure BloadD where
  slot  : BitVec 6
  tofs  : Nat
  lines : Nat
  line0 : Nat
  deriving DecidableEq, Repr

/-- R239: the fields of four descriptor registers. -/
def bloadD (d : List W64) : BloadD :=
  let d2 := d.getD 2 0
  { slot := (d.getD 0 0).extractLsb' 0 6, tofs := (d.getD 1 0).toNat, lines := bitsOf d2 25 13 + 1,
    line0 := bitsOf d2 12 0 }

/-- R239: the descriptor is refused before any table is looked at. -/
def bloadBad (d : List W64) : Bool :=
  let c := bloadD d
  bitsOf (d.getD 0 0) 63 6 != 0 || bitsOf (d.getD 2 0) 63 26 != 0 || c.tofs % 1024 != 0
  || decide (8192 < c.line0 + c.lines)

/-- BLOAD (R225, R226, R239). -/
def execBload (d : BitVec 6) (s : State) : Host.Outcome State Fault Refusal :=
  sWord s fun E =>
    let ds := descRegs E.G d
    let c := bloadD ds
    locateCounter s E (ds.getD 3 0) d { adds := true, clu := false, onlyClu := false } fun ctr =>
      if bloadBad ds then .fail .bloadDesc (d.setWidth 64)
      else engineTable s E c.slot false fun b =>
        if !b.t.desc.isArray then tableFail .kindMismatch c.slot 0
        else if b.t.desc.rows * b.t.desc.width < c.tofs + c.lines * 1024 then .fail .bloadDesc (d.setWidth 64)
        else issueJob s E .bload ds ctr

/-! ### Footprints -/

/-- R242: a space of footprints: the allotment of a workgroup by its linear index, a table id, the stationary store. -/
inductive Space where
  | scratch (w : Nat)
  | table (id : BitVec 32)
  | lines
  deriving DecidableEq, Repr

/-- R242: a range of a space: first byte or line, and the one after the last. -/
structure Foot where
  space : Space
  lo    : Nat
  hi    : Nat
  deriving DecidableEq, Repr

/-- R242: two ranges overlap. -/
def Foot.hits (a b : Foot) : Bool := a.space == b.space && decide (a.lo < b.hi) && decide (b.lo < a.hi)

/-- R242: the bounding range of ranges in one space. -/
def bound (sp : Space) (rs : List (Nat × Nat)) : List Foot :=
  match rs with
  | [] => []
  | r :: rest => [{ space := sp, lo := rest.foldl (fun a q => min a q.1) r.1, hi := rest.foldl (fun a q => max a q.2) r.2 }]

/-- The table id that a slot of a launch names. -/
def slotId (La : Launch) (slot : BitVec 6) : BitVec 32 := ((La.binds.find? fun b => b.slot == slot).map (·.id)).getD 0

/-- R242: the footprints of a `COPY` whose slices have not all arrived: its ranges may yet lie anywhere in its spaces (entry 69). -/
def wideFeet (E : Env) (c : CopyD) : List Foot × List Foot :=
  let whole := fun (sp : Space) => ({ space := sp, lo := 0, hi := 2 ^ 64 } : Foot)
  let own := whole (.scratch E.W.w)
  let tab := whole (.table (slotId E.La c.slot))
  match c.mode with
  | 0 => ([tab], if c.mc then (List.range c.receivers).map fun r => whole (.scratch (receiverIndex E.La E.W r)) else [own])
  | 1 => ([own], [tab])
  | _ => ([own], [own])

/-- R242: the read and the write footprint of a job. -/
def Job.feet (s : State) (j : Job) : List Foot × List Foot :=
  match envAt s j.wg (((j.slices.head?).map (·.group)).getD 0) with
  | none => ([], [])
  | some E =>
    let width := fun slot => match slotOf s E.La slot with | .bound b => b.t.desc.width | _ => 0
    match j.kind with
    | .copy _ _ =>
      let cs := j.slices.map fun q => copyD q.d
      let c := cs.headD (copyD [])
      let own : Space := .scratch E.W.w
      let tab : List Foot := bound (.table (slotId E.La c.slot))
        (cs.map fun c => (c.tofs, c.tofs + (c.receivers * c.rows + c.crows - 1) * width c.slot + c.rbytes))
      let rows := cs.map fun c => (c.sofs, c.sofs + c.span)
      if j.state == .forming && !j.gathered s then wideFeet E c else
      match c.mode with
      | 0 =>
        if c.mc then
          (tab, (List.range c.receivers).flatMap fun r =>
            let sp : Space := .scratch (receiverIndex E.La E.W r)
            bound sp (cs.map fun c => (c.sofs + r * c.stride, c.sofs + r * c.stride + c.span))
            ++ (if c.crows = 0 then [] else bound sp (cs.map fun c => (c.cdst, c.cdst + spanOf c.crows c.pitch c.rbytes))))
        else (tab, bound own rows)
      | 1 => (bound own rows, tab)
      | _ => (bound own (cs.map fun c => (c.tofs, c.tofs + spanOf c.rows c.stride c.rbytes)), bound own rows)
    | .gather _ =>
      let c := gatherD (((j.slices.head?).map (·.d)).getD [])
      let own : Space := .scratch E.W.w
      let wide := match slotOf s E.La c.slot with | .bound b => c.entryBytes b.t | _ => 8
      ([{ space := own, lo := c.ivec, hi := c.ivec + c.count * wide },
        { space := .table (slotId E.La c.slot), lo := 0, hi := 2 ^ 64 }],
       [{ space := own, lo := c.dst, hi := c.dst + c.count * c.out }, { space := own, lo := c.stat, hi := c.stat + c.count }])
    | .bload =>
      let c := bloadD (((j.slices.head?).map (·.d)).getD [])
      ([{ space := .table (slotId E.La c.slot), lo := c.tofs, hi := c.tofs + c.lines * 1024 }],
       [{ space := .lines, lo := c.line0, hi := c.line0 + c.lines }])

/-- R242: a group issued job a before job b. -/
def Job.before (a b : Job) : Bool :=
  a.wg == b.wg && a.slices.any fun p => b.slices.any fun q => p.group == q.group && decide (p.seq < q.seq)

/-- R242: an earlier job holds another back: it writes what that reads or writes, or reads what that writes. -/
def feetMeet (e f : List Foot × List Foot) : Bool :=
  e.2.any (fun w => f.1.any w.hits || f.2.any w.hits) || e.1.any fun r => f.2.any r.hits

/-- R242: the jobs that job n comes after: earlier ones of a shared group that it overlaps. -/
def jobsAhead (s : State) (n : Nat) (j : Job) : List Nat :=
  (List.range s.jobs.length).filter fun k => k != n && (s.jobs[k]?).any fun a => a.before j && feetMeet (a.feet s) (j.feet s)

/-- R242: no earlier job of a shared group that overlaps job n is still to complete. -/
def footFree (s : State) (n : Nat) (j : Job) : Bool :=
  (List.range s.jobs.length).all fun k =>
    k == n || (s.jobs[k]?).all fun a => a.state == .complete || !a.before j || !feetMeet (a.feet s) (j.feet s)

/-- R242, R263: a job that starts comes after what the jobs that it overlaps have done. -/
def State.afterJobs (s : State) (n : Nat) (j : Job) : State :=
  let ahead := jobsAhead s n j
  (List.range j.slices.length).foldl (fun s k => s.passIf (fun h => match h with
    | .slice m _ => ahead.contains m
    | _ => false) (.slice n k) How.ordered) s

end Sys2Proof.Machine
end

