-- ==== Sys2Proof/Machine/Scalar.lean ====
section
/-! DEFINITION. The scalar stream: ALU and immediate forms, constants and parameters, specials (R88 to R93). -/

namespace Sys2Proof.Machine

/-! ### Arithmetic -/

/-- The number whose bit i, below w, is f i. -/
def bitsNat (w : Nat) (f : Nat → Bool) : Nat :=
  (List.range w).foldl (fun a i => if f i then a + 2 ^ i else a) 0

/-- R88: leading zero bits of a w-bit number. -/
def clzNat (w v : Nat) : Nat := if v = 0 then w else w - 1 - Nat.log2 v

/-- R88: trailing zero bits of a w-bit number. -/
def ctzNat (w v : Nat) : Nat := ((List.range w).find? fun i => v.testBit i).getD w

/-- R88: the number of one bits of a w-bit number. -/
def popNat (w v : Nat) : Nat := ((List.range w).filter fun i => v.testBit i).length

/-- R88: a w-bit number with its bits in reverse. -/
def revNat (w v : Nat) : Nat := bitsNat w fun i => v.testBit (w - 1 - i)

/-- 1 or 0. -/
def flagWord (b : Bool) : W64 := if b then 1 else 0

/-- R88: bits 127:64 of the exact signed product. -/
def mulhSigned (a b : W64) : W64 := BitVec.ofInt 64 (a.toInt * b.toInt / 2 ^ 64)

/-- R88: bits 127:64 of the exact unsigned product. -/
def mulhUnsigned (a b : W64) : W64 := BitVec.ofNat 64 (a.toNat * b.toNat / 2 ^ 64)

/-- R89: DIV. -/
def divSigned (a b : W64) : W64 := if b = 0 then BitVec.allOnes 64 else BitVec.ofInt 64 (a.toInt.tdiv b.toInt)

/-- R89: DIVN. -/
def divUnsigned (a b : W64) : W64 := if b = 0 then BitVec.allOnes 64 else BitVec.ofNat 64 (a.toNat / b.toNat)

/-- R89: REM. -/
def remSigned (a b : W64) : W64 := if b = 0 then a else BitVec.ofInt 64 (a.toInt.tmod b.toInt)

/-- R89: REMN. -/
def remUnsigned (a b : W64) : W64 := if b = 0 then a else BitVec.ofNat 64 (a.toNat % b.toNat)

/-- R88: ADDW and SUBW: the low 32 bits, sign-extended. -/
def sextLow (v : W64) : W64 := (v.setWidth 32).signExtend 64

/-- R88: a two-operand form. -/
def sBinary (d a b : BitVec 6) (f : W64 → W64 → W64) (s : State) : Host.Outcome State Fault Refusal :=
  sWord s fun E => .group s E fun G => G.wS d (f (E.G.rS a) (E.G.rS b))

/-- R88: a one-operand form. -/
def sUnary (d a : BitVec 6) (f : W64 → W64) (s : State) : Host.Outcome State Fault Refusal :=
  sWord s fun E => .group s E fun G => G.wS d (f (E.G.rS a))

/-- R89: a `.t` division, which traps with INT_DIVZERO on a zero divisor. -/
def sDivTrap (d a b : BitVec 6) (f : W64 → W64 → W64) (s : State) : Host.Outcome State Fault Refusal :=
  sWord s fun E =>
    if E.G.rS b = 0 then .fail .intDivzero else .group s E fun G => G.wS d (f (E.G.rS a) (E.G.rS b))

/-- R90: an immediate form with imm14 sign-extended. -/
def sImm (d a : BitVec 6) (i : BitVec 14) (f : W64 → W64 → W64) (s : State) : Host.Outcome State Fault Refusal :=
  sWord s fun E => .group s E fun G => G.wS d (f (E.G.rS a) (i.signExtend 64))

/-- R90: an immediate shift. -/
def sShiftImm (d a i : BitVec 6) (f : W64 → Nat → W64) (s : State) : Host.Outcome State Fault Refusal :=
  sWord s fun E => .group s E fun G => G.wS d (f (E.G.rS a) i.toNat)

/-- ADD (R88). -/
def execAdd (d a b : BitVec 6) (s : State) : Host.Outcome State Fault Refusal :=
  sBinary d a b (fun x y => x + y) s

/-- SUB (R88). -/
def execSub (d a b : BitVec 6) (s : State) : Host.Outcome State Fault Refusal :=
  sBinary d a b (fun x y => x - y) s

/-- AND (R88). -/
def execAnd (d a b : BitVec 6) (s : State) : Host.Outcome State Fault Refusal :=
  sBinary d a b (fun x y => x &&& y) s

/-- OR (R88). -/
def execOr (d a b : BitVec 6) (s : State) : Host.Outcome State Fault Refusal :=
  sBinary d a b (fun x y => x ||| y) s

/-- XOR (R88). -/
def execXor (d a b : BitVec 6) (s : State) : Host.Outcome State Fault Refusal :=
  sBinary d a b (fun x y => x ^^^ y) s

/-- ANDN (R88). -/
def execAndn (d a b : BitVec 6) (s : State) : Host.Outcome State Fault Refusal :=
  sBinary d a b (fun x y => x &&& ~~~ y) s

/-- SHL (R88). -/
def execShl (d a b : BitVec 6) (s : State) : Host.Outcome State Fault Refusal :=
  sBinary d a b (fun x y => x <<< (y.toNat % 64)) s

/-- SHR (R88). -/
def execShr (d a b : BitVec 6) (s : State) : Host.Outcome State Fault Refusal :=
  sBinary d a b (fun x y => x >>> (y.toNat % 64)) s

/-- SAR (R88). -/
def execSar (d a b : BitVec 6) (s : State) : Host.Outcome State Fault Refusal :=
  sBinary d a b (fun x y => x.sshiftRight (y.toNat % 64)) s

/-- MUL (R88). -/
def execMul (d a b : BitVec 6) (s : State) : Host.Outcome State Fault Refusal :=
  sBinary d a b (fun x y => x * y) s

/-- MULH (R88). -/
def execMulh (d a b : BitVec 6) (s : State) : Host.Outcome State Fault Refusal :=
  sBinary d a b (fun x y => mulhSigned x y) s

/-- MULHN (R88). -/
def execMulhn (d a b : BitVec 6) (s : State) : Host.Outcome State Fault Refusal :=
  sBinary d a b (fun x y => mulhUnsigned x y) s

/-- DIV (R89). -/
def execDiv (d a b : BitVec 6) (s : State) : Host.Outcome State Fault Refusal :=
  sBinary d a b (fun x y => divSigned x y) s

/-- DIVN (R89). -/
def execDivn (d a b : BitVec 6) (s : State) : Host.Outcome State Fault Refusal :=
  sBinary d a b (fun x y => divUnsigned x y) s

/-- REM (R89). -/
def execRem (d a b : BitVec 6) (s : State) : Host.Outcome State Fault Refusal :=
  sBinary d a b (fun x y => remSigned x y) s

/-- REMN (R89). -/
def execRemn (d a b : BitVec 6) (s : State) : Host.Outcome State Fault Refusal :=
  sBinary d a b (fun x y => remUnsigned x y) s

/-- MIN (R88). -/
def execMin (d a b : BitVec 6) (s : State) : Host.Outcome State Fault Refusal :=
  sBinary d a b (fun x y => if x.slt y then x else y) s

/-- MAX (R88). -/
def execMax (d a b : BitVec 6) (s : State) : Host.Outcome State Fault Refusal :=
  sBinary d a b (fun x y => if x.slt y then y else x) s

/-- MINN (R88). -/
def execMinn (d a b : BitVec 6) (s : State) : Host.Outcome State Fault Refusal :=
  sBinary d a b (fun x y => if x.ult y then x else y) s

/-- MAXN (R88). -/
def execMaxn (d a b : BitVec 6) (s : State) : Host.Outcome State Fault Refusal :=
  sBinary d a b (fun x y => if x.ult y then y else x) s

/-- SLT (R88). -/
def execSlt (d a b : BitVec 6) (s : State) : Host.Outcome State Fault Refusal :=
  sBinary d a b (fun x y => flagWord (x.slt y)) s

/-- SLTN (R88). -/
def execSltn (d a b : BitVec 6) (s : State) : Host.Outcome State Fault Refusal :=
  sBinary d a b (fun x y => flagWord (x.ult y)) s

/-- SEQ (R88). -/
def execSeq (d a b : BitVec 6) (s : State) : Host.Outcome State Fault Refusal :=
  sBinary d a b (fun x y => flagWord (x == y)) s

/-- SNE (R88). -/
def execSne (d a b : BitVec 6) (s : State) : Host.Outcome State Fault Refusal :=
  sBinary d a b (fun x y => flagWord (x != y)) s

/-- ADDW (R88). -/
def execAddw (d a b : BitVec 6) (s : State) : Host.Outcome State Fault Refusal :=
  sBinary d a b (fun x y => sextLow (x + y)) s

/-- SUBW (R88). -/
def execSubw (d a b : BitVec 6) (s : State) : Host.Outcome State Fault Refusal :=
  sBinary d a b (fun x y => sextLow (x - y)) s

/-- CLZ (R88). -/
def execClz (d a : BitVec 6) (s : State) : Host.Outcome State Fault Refusal :=
  sUnary d a (fun x => BitVec.ofNat 64 (clzNat 64 x.toNat)) s

/-- CTZ (R88). -/
def execCtz (d a : BitVec 6) (s : State) : Host.Outcome State Fault Refusal :=
  sUnary d a (fun x => BitVec.ofNat 64 (ctzNat 64 x.toNat)) s

/-- POPC (R88). -/
def execPopc (d a : BitVec 6) (s : State) : Host.Outcome State Fault Refusal :=
  sUnary d a (fun x => BitVec.ofNat 64 (popNat 64 x.toNat)) s

/-- BREV (R88). -/
def execBrev (d a : BitVec 6) (s : State) : Host.Outcome State Fault Refusal :=
  sUnary d a (fun x => BitVec.ofNat 64 (revNat 64 x.toNat)) s

/-- DIV_T (R89). -/
def execDivT (d a b : BitVec 6) (s : State) : Host.Outcome State Fault Refusal :=
  sDivTrap d a b divSigned s

/-- DIVN_T (R89). -/
def execDivnT (d a b : BitVec 6) (s : State) : Host.Outcome State Fault Refusal :=
  sDivTrap d a b divUnsigned s

/-- REM_T (R89). -/
def execRemT (d a b : BitVec 6) (s : State) : Host.Outcome State Fault Refusal :=
  sDivTrap d a b remSigned s

/-- REMN_T (R89). -/
def execRemnT (d a b : BitVec 6) (s : State) : Host.Outcome State Fault Refusal :=
  sDivTrap d a b remUnsigned s

/-- ADDI (R90). -/
def execAddi (d a : BitVec 6) (i : BitVec 14) (s : State) : Host.Outcome State Fault Refusal :=
  sImm d a i (fun x y => x + y) s

/-- ANDI (R90). -/
def execAndi (d a : BitVec 6) (i : BitVec 14) (s : State) : Host.Outcome State Fault Refusal :=
  sImm d a i (fun x y => x &&& y) s

/-- ORI (R90). -/
def execOri (d a : BitVec 6) (i : BitVec 14) (s : State) : Host.Outcome State Fault Refusal :=
  sImm d a i (fun x y => x ||| y) s

/-- XORI (R90). -/
def execXori (d a : BitVec 6) (i : BitVec 14) (s : State) : Host.Outcome State Fault Refusal :=
  sImm d a i (fun x y => x ^^^ y) s

/-- SLTI (R90). -/
def execSlti (d a : BitVec 6) (i : BitVec 14) (s : State) : Host.Outcome State Fault Refusal :=
  sImm d a i (fun x y => flagWord (x.slt y)) s

/-- SLTNI (R90). -/
def execSltni (d a : BitVec 6) (i : BitVec 14) (s : State) : Host.Outcome State Fault Refusal :=
  sImm d a i (fun x y => flagWord (x.ult y)) s

/-- MULI (R90). -/
def execMuli (d a : BitVec 6) (i : BitVec 14) (s : State) : Host.Outcome State Fault Refusal :=
  sImm d a i (fun x y => x * y) s

/-- SHLI (R90). -/
def execShli (d a i : BitVec 6) (s : State) : Host.Outcome State Fault Refusal :=
  sShiftImm d a i (fun x k => x <<< k) s

/-- SHRI (R90). -/
def execShri (d a i : BitVec 6) (s : State) : Host.Outcome State Fault Refusal :=
  sShiftImm d a i (fun x k => x >>> k) s

/-- SARI (R90). -/
def execSari (d a i : BitVec 6) (s : State) : Host.Outcome State Fault Refusal :=
  sShiftImm d a i (fun x k => x.sshiftRight k) s

/-- MOVI (R91). -/
def execMovi (d : BitVec 6) (i : BitVec 20) (s : State) : Host.Outcome State Fault Refusal :=
  sWord s fun E => .group s E fun G => G.wS d (i.signExtend 64)

/-- MOVH (R91): bits 39:20 become imm20, the others stay. -/
def execMovh (d : BitVec 6) (i : BitVec 20) (s : State) : Host.Outcome State Fault Refusal :=
  sWord s fun E => .group s E fun G =>
    G.wS d ((E.G.rS d).extractLsb' 40 24 ++ i ++ (E.G.rS d).extractLsb' 0 20)

/-! ### Constants and parameters -/

/-- R92: a constant doubleword by its index, or CONST_RANGE with the index (R289). -/
def loadConst (s : State) (E : Env) (d : BitVec 6) (n : Nat) : SRes :=
  if E.K.header.csize < 8 * n + 8 then .fail .constRange (BitVec.ofNat 64 n)
  else .group s E fun G => G.wS d (dwAt E.K.consts n)

/-- LDK (R92). -/
def execLdk (d : BitVec 6) (n : BitVec 20) (s : State) : Host.Outcome State Fault Refusal :=
  sWord s fun E => loadConst s E d n.toNat

/-- LDKX (R92): the index is sa + sext(imm14), read as n64. -/
def execLdkx (d a : BitVec 6) (i : BitVec 14) (s : State) : Host.Outcome State Fault Refusal :=
  sWord s fun E => loadConst s E d (E.G.rS a + i.signExtend 64).toNat

/-- LDP (R92): the launch's own copy of its parameter block (R329). -/
def execLdp (d : BitVec 6) (n : BitVec 9) (s : State) : Host.Outcome State Fault Refusal :=
  sWord s fun E =>
    if E.La.params.length < 8 * n.toNat + 8 then .fail .paramRange (n.setWidth 64)
    else .group s E fun G => G.wS d (dwAt E.La.params n.toNat)

/-! ### Specials -/

/-- R93: the value of a special. -/
def specialValue (s : State) (E : Env) : Special → W64
  | .gid => BitVec.ofNat 64 E.g
  | .wgid => ((E.W.idx.getD 0 0).setWidth 64)
  | .ngroups => BitVec.ofNat 64 E.W.groups.length
  | .lvl2 => (E.W.idx.getD 1 0).setWidth 64
  | .lvl3 => (E.W.idx.getD 2 0).setWidth 64
  | .lvl4 => (E.W.idx.getD 3 0).setWidth 64
  | .lvl5 => (E.W.idx.getD 4 0).setWidth 64
  | .lvl6 => (E.W.idx.getD 5 0).setWidth 64
  | .lvl7 => (E.W.idx.getD 6 0).setWidth 64
  | .core => BitVec.ofNat 64 E.W.core
  | .die => BitVec.ofNat 64 E.W.die
  | .module => s.drv.module.setWidth 64
  | .clock => s.time.clock
  | .gtime => E.G.gtime
  -- R93, DESIGN CHOICE (entry 65): an `EXITL` of a block that still runs is counted at once.
  | .alive => E.G.L.alive.setWidth 64
  | .world => E.world.setWidth 64

/-- RDS (R93). -/
def execRds (d : BitVec 6) (n : Special) (s : State) : Host.Outcome State Fault Refusal :=
  sWord s fun E => .group s E fun G => G.wS d (specialValue s E n)

end Sys2Proof.Machine
end

