-- ==== Sys2Proof/Machine/LaneInt.lean ====
section
/-! DEFINITION. The integer forms of the lane pipes, quantise-free packs and bit moves (R113 to R115, R122), NOP (R126). -/

namespace Sys2Proof.Machine

/-! ### Shapes -/

/-- A word of one source, applied to every sub-element (R108). -/
def elem1 (x : Word) (i : Nat) (f : Nat → Nat) : W64 := ofElems x.o.ty ((elems x.o.ty (x.a x.o.ty i)).map f)

/-- A word of two sources, applied to every sub-element. -/
def elem2 (x : Word) (i : Nat) (f : Nat → Nat → Nat) : W64 :=
  let t := x.o.ty
  let a := x.a t i
  let b := x.b t i
  ofElems t ((List.range (tyCount t)).map fun j => f (subElem (tyBits t) a j) (subElem (tyBits t) b j))

/-- A word of three sources, applied to every sub-element. -/
def elem3 (x : Word) (i : Nat) (f : Nat → Nat → Nat → Nat) : W64 :=
  let t := x.o.ty
  let a := x.a t i
  let b := x.b t i
  let c := x.c t i
  ofElems t ((List.range (tyCount t)).map fun j =>
    f (subElem (tyBits t) a j) (subElem (tyBits t) b j) (subElem (tyBits t) c j))

/-- An exact integer function of two sources read as the word's type, wrapped. -/
def intOp2 (x : Word) (i : Nat) (f : Int → Int → Int) : W64 :=
  elem2 x i fun a b => wrapInt (tyBits x.o.ty) (f (intOf x.o.ty a) (intOf x.o.ty b))

/-! ### Arithmetic -/

/-- ADD (R113). -/
def execLAdd (o : LOp) (s : State) : Host.Outcome State Fault Refusal :=
  moveWord s 0x01 o fun x i => intOp2 x i fun a b => a + b

/-- SUB (R113). -/
def execLSub (o : LOp) (s : State) : Host.Outcome State Fault Refusal :=
  moveWord s 0x02 o fun x i => intOp2 x i fun a b => a - b

/-- MUL (R113). -/
def execLMul (o : LOp) (s : State) : Host.Outcome State Fault Refusal :=
  moveWord s 0x03 o fun x i => intOp2 x i fun a b => a * b

/-- MULH (R113): bits 2w−1:w of the exact product. -/
def execLMulh (o : LOp) (s : State) : Host.Outcome State Fault Refusal :=
  moveWord s 0x04 o fun x i => intOp2 x i fun a b => a * b / 2 ^ tyBits x.o.ty

/-- MAD (R113). -/
def execMad (o : LOp) (s : State) : Host.Outcome State Fault Refusal :=
  moveWord s 0x05 o fun x i => elem3 x i fun a b c => (a * b + c) % 2 ^ tyBits x.o.ty

/-- ADDS (R113). -/
def execAdds (o : LOp) (s : State) : Host.Outcome State Fault Refusal :=
  moveWord s 0x06 o fun x i => intOp2 x i fun a b => clampInt x.o.ty (a + b)

/-- SUBS (R113). -/
def execSubs (o : LOp) (s : State) : Host.Outcome State Fault Refusal :=
  moveWord s 0x07 o fun x i => intOp2 x i fun a b => clampInt x.o.ty (a - b)

/-- ABS (R113). -/
def execAbs (o : LOp) (s : State) : Host.Outcome State Fault Refusal :=
  moveWord s 0x08 o fun x i => elem1 x i fun a => wrapInt (tyBits x.o.ty) (intOf x.o.ty a).natAbs

/-- NEG (R113). -/
def execNeg (o : LOp) (s : State) : Host.Outcome State Fault Refusal :=
  moveWord s 0x09 o fun x i => elem1 x i fun a => wrapInt (tyBits x.o.ty) (-(intOf x.o.ty a))

/-- MIN (R113). -/
def execLMin (o : LOp) (s : State) : Host.Outcome State Fault Refusal :=
  moveWord s 0x0A o fun x i => intOp2 x i min

/-- MAX (R113). -/
def execLMax (o : LOp) (s : State) : Host.Outcome State Fault Refusal :=
  moveWord s 0x0B o fun x i => intOp2 x i max

/-! ### Logic and shifts -/

/-- AND (R113). -/
def execLAnd (o : LOp) (s : State) : Host.Outcome State Fault Refusal :=
  moveWord s 0x0C o fun x i => x.a x.o.ty i &&& x.b x.o.ty i

/-- OR (R113). -/
def execLOr (o : LOp) (s : State) : Host.Outcome State Fault Refusal :=
  moveWord s 0x0D o fun x i => x.a x.o.ty i ||| x.b x.o.ty i

/-- XOR (R113). -/
def execLXor (o : LOp) (s : State) : Host.Outcome State Fault Refusal :=
  moveWord s 0x0E o fun x i => x.a x.o.ty i ^^^ x.b x.o.ty i

/-- NOT (R113). -/
def execNot (o : LOp) (s : State) : Host.Outcome State Fault Refusal :=
  moveWord s 0x0F o fun x i => ~~~ x.a x.o.ty i

/-- SHL (R113): a count of w or more gives 0. -/
def execLShl (o : LOp) (s : State) : Host.Outcome State Fault Refusal :=
  moveWord s 0x10 o fun x i =>
    let w := tyBits x.o.ty
    elem2 x i fun a b => if w ≤ b then 0 else a * 2 ^ b % 2 ^ w

/-- SHR (R113): fills with zeros whatever the type. -/
def execLShr (o : LOp) (s : State) : Host.Outcome State Fault Refusal :=
  moveWord s 0x11 o fun x i =>
    let w := tyBits x.o.ty
    elem2 x i fun a b => if w ≤ b then 0 else a / 2 ^ b

/-- SAR (R113): fills with the sign bit whatever the type. -/
def execLSar (o : LOp) (s : State) : Host.Outcome State Fault Refusal :=
  moveWord s 0x12 o fun x i =>
    let w := tyBits x.o.ty
    elem2 x i fun a b => wrapInt w (signedNat w a / 2 ^ (min b w))

/-- CLZ (R113). -/
def execLClz (o : LOp) (s : State) : Host.Outcome State Fault Refusal :=
  moveWord s 0x13 o fun x i => elem1 x i (clzNat (tyBits x.o.ty))

/-- POPC (R113). -/
def execLPopc (o : LOp) (s : State) : Host.Outcome State Fault Refusal :=
  moveWord s 0x14 o fun x i => elem1 x i (popNat (tyBits x.o.ty))

/-- BREV (R113). -/
def execLBrev (o : LOp) (s : State) : Host.Outcome State Fault Refusal :=
  moveWord s 0x15 o fun x i => elem1 x i (revNat (tyBits x.o.ty))

/-- R113: the position and length of a bit-field control, the length cut to the width; none where it selects nothing. -/
def fieldOf (w ctl : Nat) : Option (Nat × Nat) :=
  let pos := ctl % 64
  let len := ctl / 256 % 128
  if w ≤ pos ∨ len = 0 then none else some (pos, min len (w - pos))

/-- BFX (R113). -/
def execBfx (o : LOp) (s : State) : Host.Outcome State Fault Refusal :=
  moveWord s 0x16 o fun x i =>
    let w := tyBits x.o.ty
    elem2 x i fun a b =>
      match fieldOf w b with
      | none => 0
      | some (pos, len) => wrapInt w (if tySigned x.o.ty then signedNat len (a / 2 ^ pos) else (a / 2 ^ pos % 2 ^ len : Nat))

/-- BFI (R113). -/
def execBfi (o : LOp) (s : State) : Host.Outcome State Fault Refusal :=
  moveWord s 0x17 o fun x i =>
    let w := tyBits x.o.ty
    elem3 x i fun a b c =>
      match fieldOf w c with
      | none => b
      | some (pos, len) => b / 2 ^ (pos + len) * 2 ^ (pos + len) + a % 2 ^ len * 2 ^ pos + b % 2 ^ pos

/-- SEL (R113): p7 selects a. -/
def execSel (o : LOp) (s : State) : Host.Outcome State Fault Refusal :=
  moveWord s 0x18 o fun x i =>
    if (x.G.lane i).p (x.o.aux.extractLsb' 0 3) then x.a x.o.ty i else x.b x.o.ty i

/-! ### Compare and move -/

/-- R114: a condition of `CMP` on two values. -/
def cmpHolds (v : Nat) (a b : Int) : Bool :=
  match v with
  | 0 => a == b
  | 1 => a != b
  | 2 => decide (a < b)
  | 3 => decide (a ≤ b)
  | 4 => decide (b < a)
  | _ => decide (b ≤ a)

/-- CMP (R114): the condition must hold on every sub-element. -/
def execCmp (o : LOp) (s : State) : Host.Outcome State Fault Refusal :=
  predWord s 0x19 o fun x i =>
    let t := x.o.ty
    let a := elems t (x.a t i)
    let b := elems t (x.b t i)
    ((List.zip a b).all fun q => cmpHolds x.o.var.toNat (intOf t q.1) (intOf t q.2), 0)

/-- MOV (R113). -/
def execMov (o : LOp) (s : State) : Host.Outcome State Fault Refusal :=
  moveWord s 0x1A o fun x i => x.a x.o.ty i

/-- PRM (R113): byte k comes from byte m of a and b together. -/
def execPrm (o : LOp) (s : State) : Host.Outcome State Fault Refusal :=
  moveWord s 0x1B o fun x i =>
    let both := (x.a .b64 i).toNat + 2 ^ 64 * (x.b .b64 i).toNat
    BitVec.ofNat 64 (joinElems 8 ((List.range 8).map fun k =>
      both / 2 ^ (8 * (x.o.imm.toNat / 2 ^ (4 * k) % 16)) % 256))

/-! ### Widening -/

/-- DOTB (R115). -/
def execDotb (o : LOp) (s : State) : Host.Outcome State Fault Refusal :=
  moveWord s 0x1C o fun x i =>
    let t := x.vty
    let a := elems t (x.a t i)
    let b := elems t (x.b t i)
    let sum := (List.zip a b).foldl (fun n q => n + intOf t q.1 * intOf t q.2) (intOf .i32 (x.c .i32 i).toNat)
    BitVec.ofNat 64 (wrapInt 32 sum)

/-- MADW (R115): the low half of a and b, widened. -/
def execMadw (o : LOp) (s : State) : Host.Outcome State Fault Refusal :=
  moveWord s 0x1D o fun x i =>
    let t := x.o.ty
    let u := x.vty
    let a := x.a u i
    let b := x.b u i
    let c := x.c t i
    ofElems t ((List.range (tyCount t)).map fun j =>
      wrapInt (tyBits t) (intOf u (subElem (tyBits u) a j) * intOf u (subElem (tyBits u) b j)
        + (subElem (tyBits t) c j : Nat)))

/-! ### Pack -/

/-- PACK (R122). -/
def execPack (o : LOp) (s : State) : Host.Outcome State Fault Refusal :=
  moveWord s 0x42 o fun x i =>
    let w := tyBits x.o.ty
    let n := tyCount x.o.ty
    let a := x.a x.o.ty i
    let b := x.b x.o.ty i
    ofElems x.o.ty ((List.range n).map fun j =>
      (if j < n / 2 then subElem (2 * w) a j else subElem (2 * w) b (j - n / 2)) % 2 ^ w)

/-- UNPK (R122). -/
def execUnpk (o : LOp) (s : State) : Host.Outcome State Fault Refusal :=
  moveWord s 0x43 o fun x i =>
    let w := tyBits x.o.ty
    let nd := tyCount x.o.ty / 2
    let h := if x.o.aux.getLsbD 0 then 1 else 0
    let a := x.a x.o.ty i
    BitVec.ofNat 64 (joinElems (2 * w) ((List.range nd).map fun j =>
      wrapInt (2 * w) (intOf x.o.ty (subElem w a (h * nd + j)))))

/-- NOP (R126). -/
def execNop (o : LOp) (s : State) : Host.Outcome State Fault Refusal :=
  plainWord s 0xC0 o fun _ G => G

end Sys2Proof.Machine
end

