-- ==== Sys2Proof/Machine/Special.lean ====
section
/-! DEFINITION. The special functions of R119: the exact value, rounded once. An irrational value is enclosed between two
fixed-point numbers, in working precisions that rise until both ends round alike (log entry 10). -/

namespace Sys2Proof.Machine

/-! ### Enclosures -/

/-- An enclosure of a real number x: lo ≤ x × 2^p ≤ hi, for a working precision p. -/
structure Iv where
  lo : Nat
  hi : Nat
  deriving DecidableEq, Repr

/-- A sum. -/
def Iv.add (a b : Iv) : Iv := { lo := a.lo + b.lo, hi := a.hi + b.hi }
/-- A difference that is not negative. -/
def Iv.sub (a b : Iv) : Iv := { lo := a.lo - b.hi, hi := a.hi - b.lo }
/-- A product at precision p. -/
def Iv.mul (p : Nat) (a b : Iv) : Iv := { lo := a.lo * b.lo / 2 ^ p, hi := a.hi * b.hi / 2 ^ p + 1 }
/-- A quotient by a natural number. -/
def Iv.divN (a : Iv) (n : Nat) : Iv := { lo := a.lo / n, hi := a.hi / n + 1 }
/-- A product by a natural number. -/
def Iv.mulN (a : Iv) (n : Nat) : Iv := { lo := a.lo * n, hi := a.hi * n }
/-- A quotient at precision p. -/
def Iv.div (p : Nat) (a b : Iv) : Iv := { lo := a.lo * 2 ^ p / b.hi, hi := a.hi * 2 ^ p / b.lo + 1 }
/-- One, at precision p. -/
def ivOne (p : Nat) : Iv := { lo := 2 ^ p, hi := 2 ^ p }
/-- A quotient of natural numbers at precision p. -/
def ivRat (p n d : Nat) : Iv := { lo := n * 2 ^ p / d, hi := n * 2 ^ p / d + 1 }
/-- m × 2^e at precision p. -/
def ivEx (p : Nat) (m : Nat) (e : Int) : Iv :=
  let k := (p : Int) + e
  if 0 ≤ k then { lo := m * 2 ^ k.toNat, hi := m * 2 ^ k.toNat }
  else { lo := m / 2 ^ (-k).toNat, hi := m / 2 ^ (-k).toNat + 1 }

/-- The terms of exp x from term k on, for x below one; the rest past the last is below it twice over. -/
def expTail (p : Nat) (x : Iv) : Nat → Nat → Iv → Iv
  | 0, _, t => { lo := 0, hi := 2 * t.hi }
  | n + 1, k, t => t.add (expTail p x n (k + 1) ((Iv.mul p t x).divN k))

/-- exp x for x below one. -/
def ivExp (p : Nat) (x : Iv) : Iv := expTail p x (p / 2) 1 (ivOne p)

/-- An alternating series with terms t, t·y/(k(k+1)), …: sin x from x, cos x from one, with y = x². -/
def altTail (p : Nat) (y : Iv) : Nat → Nat → Iv → Iv
  | 0, _, t => { lo := 0, hi := t.hi }
  | n + 1, k, t => t.sub (altTail p y n (k + 2) ((Iv.mul p t y).divN (k * (k + 1))))

/-- sin x for x below one. -/
def ivSin (p : Nat) (x : Iv) : Iv := altTail p (Iv.mul p x x) (p / 4) 2 x
/-- cos x for x below one. -/
def ivCos (p : Nat) (x : Iv) : Iv := altTail p (Iv.mul p x x) (p / 4) 1 (ivOne p)

/-- The terms z^k/k, k odd, from k on, for z at most 1/3, given z^k. -/
def atanhTail (p : Nat) (y : Iv) : Nat → Nat → Iv → Iv
  | 0, _, t => { lo := 0, hi := 2 * t.hi }
  | n + 1, k, t => (t.divN k).add (atanhTail p y n (k + 2) (Iv.mul p t y))

/-- 2 atanh z = ln ((1 + z)/(1 − z)), for z at most 1/3. -/
def ivLnOf (p : Nat) (z : Iv) : Iv := (atanhTail p (Iv.mul p z z) (p / 3) 1 z).mulN 2

/-- ln 2. -/
def ivLn2 (p : Nat) : Iv := ivLnOf p (ivRat p 1 3)

/-- The alternating terms of atan (1/n) from k on, given n^−k. -/
def atanTail (n : Nat) : Nat → Nat → Iv → Iv
  | 0, _, t => { lo := 0, hi := t.hi }
  | j + 1, k, t => (t.divN k).sub (atanTail n j (k + 2) (t.divN (n * n)))

/-- π by Machin's formula. -/
def ivPi (p : Nat) : Iv :=
  ((atanTail 5 (p / 4) 1 (ivRat p 1 5)).mulN 16).sub ((atanTail 239 (p / 4) 1 (ivRat p 1 239)).mulN 4)

/-! ### Rounding an enclosure -/

/-- Rounds a value enclosed at precision p and scaled by 2^k; none where the ends round differently. The value is irrational,
so it lies strictly between two neighbouring fixed-point numbers. -/
def roundIv (f : Fmt) (md : FMode) (neg : Bool) (p : Nat) (k : Int) (x : Iv) : Option (Nat × BitVec 5) :=
  let a := roundF f md { neg := neg, m := x.lo, e := k - p, sticky := true }
  let b := roundF f md { neg := neg, m := x.hi - 1, e := k - p, sticky := true }
  if x.lo ≠ 0 ∧ a = b then some a else none

/-- The working precisions, given how many bits below one the value may lie. -/
def precisions (small : Nat) : List Nat := [320 + small, 640 + small, 2560 + small]

/-- The value of a function that `enc` encloses: rounded at the first working precision that decides; a free significand
where none does (log entry 10). -/
def decideF (f : Fmt) (md : FMode) (neg : Bool) (small fn arg : Nat) (enc : Nat → Int × Iv) : Nat × BitVec 5 :=
  match (precisions small).findSome? fun p => roundIv f md neg p (enc p).1 (enc p).2 with
  | some r => r
  | none =>
    let p := 2560 + small
    let x := enc p
    roundF f md { neg := neg, m := x.2.lo + Config.hardCase fn arg % (x.2.hi - x.2.lo + 1), e := x.1 - p, sticky := true }

/-- A value strictly between 1 and 1 + 2^−80, or between 1 − 2^−80 and 1. -/
def nearOne (neg above : Bool) : Ex := { neg := neg, m := if above then 2 ^ 80 else 2 ^ 80 - 1, e := -80, sticky := true }

/-- floor(log2 |x|) for a nonzero exact value. -/
def Ex.top (x : Ex) : Int := (x.m.log2 : Int) + x.e

/-- An exact value is an integer. -/
def Ex.isInt (x : Ex) : Bool := decide (0 ≤ x.e) || x.m % 2 ^ (-x.e).toNat == 0

/-! ### The functions -/

/-- 2^a (R119). -/
def exp2F (f : Fmt) (md : FMode) (arg : Nat) : FVal → Nat × BitVec 5
  | .nan s => nanF f s
  | .inf n => if n then (f.signed false 0, 0) else (f.inf false, 0)
  | .fin x =>
    if x.m = 0 then roundF f md { neg := false, m := 1, e := 0 }
    else if x.isInt then roundF f md { neg := false, m := 1, e := x.at 0 }
    else if x.top < -80 then roundF f md (nearOne false (!x.neg))
    else
      -- a = n + r with 0 < r < 1
      let den := 2 ^ (-x.e).toNat
      let n : Int := if x.neg then -((x.m / den : Nat) : Int) - 1 else (x.m / den : Nat)
      let r := if x.neg then den - x.m % den else x.m % den
      decideF f md false 0 0 arg fun p => (n, ivExp p (Iv.mul p (ivRat p r den) (ivLn2 p)))

/-- log2 a (R119). -/
def log2F (f : Fmt) (md : FMode) (arg : Nat) : FVal → Nat × BitVec 5
  | .nan s => nanF f s
  | .inf n => if n then nanF f true else (f.inf false, 0)
  | .fin x =>
    if x.m = 0 then (f.inf true, flagDZ)
    else if x.neg then nanF f true
    else
      let k := x.m.log2
      let t := x.top
      if x.m = 2 ^ k then roundF f md (exOfInt t)
      else
        -- a = 2^t × y with 1 < y < 2; below one the distance from t + 1 is taken
        let up := decide (t < 0)
        let z := fun p => if up then ivRat p (2 ^ (k + 1) - x.m) (2 ^ (k + 1) + x.m) else ivRat p (x.m - 2 ^ k) (x.m + 2 ^ k)
        let n : Nat := if up then (-(t + 1)).toNat else t.toNat
        decideF f md up 80 1 arg fun p => (0, ((ivOne p).mulN n).add (Iv.div p (ivLnOf p (z p)) (ivLn2 p)))

/-- The sine of π r/den for 0 < r/den < 1/2, as scale and enclosure. -/
def encSin (r den : Nat) (p : Nat) : Int × Iv :=
  if 4 * r ≤ den then (0, ivSin p (Iv.mul p (ivRat p r den) (ivPi p)))
  else (0, ivCos p (Iv.mul p (ivRat p (den - 2 * r) (2 * den)) (ivPi p)))

/-- ± sin (π r/den) for 0 ≤ r/den ≤ 1/2. -/
def sinQuarter (f : Fmt) (md : FMode) (neg : Bool) (fn arg r den : Nat) : Nat × BitVec 5 :=
  if 2 * r = den then roundF f md { neg := neg, m := 1, e := 0 }
  else if 2 ^ 80 * (den - 2 * r) < den then roundF f md (nearOne neg false)
  else decideF f md neg (den.log2 - r.log2 + 1) fn arg (encSin r den)

/-- sin πa (R119). -/
def sinF (f : Fmt) (md : FMode) (arg : Nat) : FVal → Nat × BitVec 5
  | .nan s => nanF f s
  | .inf _ => nanF f true
  | .fin x =>
    if x.m = 0 ∨ x.isInt then (f.signed x.neg 0, 0)
    else
      let den := 2 ^ (-x.e).toNat
      let q := x.m % (2 * den)
      let h := q % den
      sinQuarter f md (x.neg != decide (den ≤ q)) 2 arg (if 2 * h ≤ den then h else den - h) den

/-- cos πa (R119). -/
def cosF (f : Fmt) (md : FMode) (arg : Nat) : FVal → Nat × BitVec 5
  | .nan s => nanF f s
  | .inf _ => nanF f true
  | .fin x =>
    if x.m = 0 then roundF f md { neg := false, m := 1, e := 0 }
    else if x.isInt then roundF f md { neg := x.at 0 % 2 == 1, m := 1, e := 0 }
    else
      let den := 2 ^ (-x.e).toNat
      let q := x.m % (2 * den)
      let h := q % den
      if 2 * h = den then (f.signed false 0, 0)
      else
        -- cos πh/den = sin π(den − 2h)/(2 den)
        let below := decide (2 * h < den)
        sinQuarter f md (decide (den ≤ q) != !below) 3 arg (if below then den - 2 * h else 2 * h - den) (2 * den)

/-- tanh a (R119). -/
def tanhF (f : Fmt) (md : FMode) (arg : Nat) : FVal → Nat × BitVec 5
  | .nan s => nanF f s
  | .inf n => roundF f md { neg := n, m := 1, e := 0 }
  | .fin x =>
    if x.m = 0 then (f.signed x.neg 0, 0)
    else if 6 ≤ x.top then roundF f md (nearOne x.neg false)
    else if x.top < -64 then roundF f md { neg := x.neg, m := x.m * 2 ^ 70 - 1, e := x.e - 70, sticky := true }
    else
      -- 1 − 2/(exp(2a) + 1), with exp 2a = 2^k exp(2a − k ln 2)
      decideF f md x.neg 200 4 arg fun p =>
        let y := ivEx p x.m (x.e + 1)
        let l := ivLn2 p
        let k := y.lo / l.hi
        let e := (ivExp p (y.sub (l.mulN k))).mulN (2 ^ k)
        (0, (ivOne p).sub (Iv.div p ((ivOne p).mulN 2) (e.add (ivOne p))))

/-- a / b (R119). -/
def divF (f : Fmt) (md : FMode) (a b : FVal) : Nat × BitVec 5 :=
  match a, b with
  | .nan s, b => nanF f (s || b.snan)
  | a, .nan s => nanF f (s || a.snan)
  | .inf _, .inf _ => nanF f true
  | .inf n, b => (f.inf (n != b.sign), 0)
  | a, .inf n => (f.signed (a.sign != n) 0, 0)
  | .fin x, .fin y =>
    if y.m = 0 then (if x.m = 0 then nanF f true else (f.inf (x.neg != y.neg), flagDZ))
    else if x.m = 0 then (f.signed (x.neg != y.neg) 0, 0)
    else roundF f md (x.div y)

/-- √a (R119). -/
def sqrtF (f : Fmt) (md : FMode) : FVal → Nat × BitVec 5
  | .nan s => nanF f s
  | .inf n => if n then nanF f true else (f.inf false, 0)
  | .fin x => if x.m = 0 then (f.signed x.neg 0, 0) else if x.neg then nanF f true else roundF f md x.sqrt

/-- 1/√a (R119), from the square root of 1/a. -/
def rsqF (f : Fmt) (md : FMode) : FVal → Nat × BitVec 5
  | .nan s => nanF f s
  | .inf n => if n then nanF f true else (f.signed false 0, 0)
  | .fin x =>
    if x.m = 0 then (f.inf x.neg, flagDZ)
    else if x.neg then nanF f true
    else
      -- √(1/a): a's exponent is made even, the root of 2^k/m taken to 160 bits and more
      let m := if x.e % 2 = 0 then x.m else x.m * 2
      let e := if x.e % 2 = 0 then x.e else x.e - 1
      let k := 2 * (170 + m.log2)
      let r := isqrt (2 ^ k / m) (k / 2 + 1) 0
      roundF f md { neg := false, m := r, e := -((k / 2 : Nat) : Int) - e / 2, sticky := r * r * m != 2 ^ k }

/-- 1/a (R119). -/
def rcpF (f : Fmt) (md : FMode) (a : FVal) : Nat × BitVec 5 := divF f md (.fin { neg := false, m := 1, e := 0 }) a

end Sys2Proof.Machine
end

