-- ==== Sys2Proof/Machine/LaneFloat.lean ====
section
/-! DEFINITION. The float forms, special functions and conversions of the lane pipes, and the mode and flag forms (R117 to
R125). -/

namespace Sys2Proof.Machine

/-! ### Shapes -/

/-- The mode of a word: MD as the group holds it at issue (R124). -/
def Word.md (x : Word) : FMode := modeOf x.G.L.md

/-- The results of the sub-elements of a lane as a register, and the union of their flags. -/
def joinF (t : Ty) (rs : List (Nat × BitVec 5)) : W64 × BitVec 5 := (ofElems t (rs.map (·.1)), allFlags (rs.map (·.2)))

/-- A word of one float source. -/
def float1 (x : Word) (i : Nat) (f : Fmt → FMode → Nat → FVal → Nat × BitVec 5) : W64 × BitVec 5 :=
  let t := x.o.ty
  let g := fmtOf t
  joinF t ((elems t (x.a t i)).map fun a => f g x.md a (sourceF g x.md a))

/-- A word of two float sources. -/
def float2 (x : Word) (i : Nat) (f : Fmt → FMode → FVal → FVal → Nat × BitVec 5) : W64 × BitVec 5 :=
  let t := x.o.ty
  let g := fmtOf t
  joinF t ((List.zip (elems t (x.a t i)) (elems t (x.b t i))).map fun q =>
    f g x.md (sourceF g x.md q.1) (sourceF g x.md q.2))

/-- A word of three float sources. -/
def float3 (x : Word) (i : Nat) (f : Fmt → FMode → FVal → FVal → FVal → Nat × BitVec 5) : W64 × BitVec 5 :=
  let t := x.o.ty
  let g := fmtOf t
  let a := elems t (x.a t i)
  let b := elems t (x.b t i)
  let c := elems t (x.c t i)
  joinF t ((List.range (tyCount t)).map fun j =>
    f g x.md (sourceF g x.md (a.getD j 0)) (sourceF g x.md (b.getD j 0)) (sourceF g x.md (c.getD j 0)))

/-! ### Arithmetic -/

/-- FADD (R117). -/
def execFadd (o : LOp) (s : State) : Host.Outcome State Fault Refusal :=
  computeWord s 0x20 o fun x i => float2 x i sumF

/-- FSUB (R117). -/
def execFsub (o : LOp) (s : State) : Host.Outcome State Fault Refusal :=
  computeWord s 0x21 o fun x i => float2 x i fun g md a b => sumF g md a b.negate

/-- FMUL (R117). -/
def execFmul (o : LOp) (s : State) : Host.Outcome State Fault Refusal :=
  computeWord s 0x22 o fun x i => float2 x i mulF

/-- FMA (R117). -/
def execFma (o : LOp) (s : State) : Host.Outcome State Fault Refusal :=
  computeWord s 0x23 o fun x i => float3 x i fun g md a b c => fmaF g md false a b c

/-- FNMA (R117). -/
def execFnma (o : LOp) (s : State) : Host.Outcome State Fault Refusal :=
  computeWord s 0x24 o fun x i => float3 x i fun g md a b c => fmaF g md true a b c

/-- R118: a orders below b, with −0 below +0. -/
def belowF (a b : FVal) : Bool :=
  match a, b with
  | .inf n, .inf m => n && !m
  | .inf n, _ => n
  | _, .inf m => !m
  | .fin x, .fin y => x.lt y || (x.m == 0 && y.m == 0 && x.neg && !y.neg)
  | _, _ => false

/-- R71: a value of its format that an operation delivers, with its flags: only a flush of tiny results changes it. -/
def valF (g : Fmt) (md : FMode) : FVal → Nat × BitVec 5
  | .nan _ => (g.nan, 0)
  | .inf n => (g.inf n, 0)
  | .fin x => roundF g md x

/-- R71, R118: the lesser or the greater of two values; `nan` is the form that delivers any NaN. -/
def minmaxF (g : Fmt) (md : FMode) (greater nan : Bool) (a b : FVal) : Nat × BitVec 5 :=
  let nv := nvIf (a.snan || b.snan)
  let flagged := fun (r : Nat × BitVec 5) => (r.1, r.2 ||| nv)
  if a.isNan && b.isNan || nan && (a.isNan || b.isNan) then (g.nan, nv)
  else if a.isNan then flagged (valF g md b)
  else if b.isNan then flagged (valF g md a)
  else valF g md (if belowF a b != greater then a else b)

/-- FMIN (R118). -/
def execFmin (o : LOp) (s : State) : Host.Outcome State Fault Refusal :=
  computeWord s 0x25 o fun x i => float2 x i fun g md a b => minmaxF g md false (x.o.var == 1) a b

/-- FMAX (R118). -/
def execFmax (o : LOp) (s : State) : Host.Outcome State Fault Refusal :=
  computeWord s 0x26 o fun x i => float2 x i fun g md a b => minmaxF g md true (x.o.var == 1) a b

/-- FABS (R117). -/
def execFabs (o : LOp) (s : State) : Host.Outcome State Fault Refusal :=
  moveWord s 0x27 o fun x i => elem1 x i fun a => a % 2 ^ (tyBits x.o.ty - 1)

/-- FNEG (R117). -/
def execFneg (o : LOp) (s : State) : Host.Outcome State Fault Refusal :=
  moveWord s 0x28 o fun x i => elem1 x i fun a => (a + 2 ^ (tyBits x.o.ty - 1)) % 2 ^ tyBits x.o.ty

/-- R118: two values that are no NaN are equal; zeros are. -/
def equalF (a b : FVal) : Bool := !(belowF a b) && !(belowF b a) || (a.isZero && b.isZero)

/-- R118: a condition of `FCMP` on two values, with its flag. -/
def fcmpF (v : Nat) (a b : FVal) : Bool × BitVec 5 :=
  let lt := belowF a b && !(a.isZero && b.isZero)
  let gt := belowF b a && !(a.isZero && b.isZero)
  let un := a.isNan || b.isNan
  let sn := nvIf (a.snan || b.snan)
  match v with
  | 0 => (!un && equalF a b, sn)
  | 1 => (un || !equalF a b, sn)
  | 2 => (!un && lt, nvIf un)
  | 3 => (!un && !gt, nvIf un)
  | 4 => (!un && gt, nvIf un)
  | 5 => (!un && !lt, nvIf un)
  | 6 => (un, sn)
  | _ => (!un, sn)

/-- FCMP (R118): the condition must hold on every sub-element. -/
def execFcmp (o : LOp) (s : State) : Host.Outcome State Fault Refusal :=
  predWord s 0x29 o fun x i =>
    let t := x.o.ty
    let g := fmtOf t
    let rs := (List.zip (elems t (x.a t i)) (elems t (x.b t i))).map fun q =>
      fcmpF x.o.var.toNat (sourceF g x.md q.1) (sourceF g x.md q.2)
    (rs.all (·.1), allFlags (rs.map (·.2)))

/-- R118: the class bit of a pattern as stored. -/
def classF (g : Fmt) (v : Nat) : Nat :=
  match readF g v with
  | .nan s => if s then 0 else 1
  | .inf n => if n then 2 else 9
  | .fin x =>
    let normal := v / 2 ^ g.fbits % 2 ^ g.ebits != 0
    if x.m = 0 then (if x.neg then 5 else 6)
    else if normal then (if x.neg then 3 else 8) else if x.neg then 4 else 7

/-- FCLS (R118). -/
def execFcls (o : LOp) (s : State) : Host.Outcome State Fault Refusal :=
  moveWord s 0x2A o fun x i => elem1 x i fun a => 2 ^ classF (fmtOf x.o.ty) a

/-- R118: a value rounded to an integral value of its own type. -/
def integralF (g : Fmt) (r : Rnd) : FVal → Nat × BitVec 5
  | .nan s => nanF g s
  | .inf n => (g.inf n, 0)
  | .fin x =>
    if x.m = 0 then (g.signed x.neg 0, 0)
    else ((roundF g modePlain { neg := x.neg, m := (roundAt r x 0).1, e := 0 }).1, 0)

/-- FRND (R118): an integral value comes back unchanged, and NX is never raised. -/
def execFrnd (o : LOp) (s : State) : Host.Outcome State Fault Refusal :=
  computeWord s 0x2B o fun x i => float1 x i fun g md _ v =>
    if (match v with | .fin y => y.isInt | _ => false) then ((valF g modePlain v).1, 0)
    else integralF g (if x.o.var = 5 then md.rnd else rndOf x.o.var.toNat) v

/-- FSCL (R117): b is the signed integer of the sub-element's width. -/
def execFscl (o : LOp) (s : State) : Host.Outcome State Fault Refusal :=
  computeWord s 0x35 o fun x i =>
    let t := x.o.ty
    let g := fmtOf t
    let u := iOfBits (tyBits t)
    joinF t ((List.zip (elems t (x.a t i)) (elems u (x.b u i))).map fun q =>
      match sourceF g x.md q.1 with
      | .nan s => nanF g s
      | .inf n => (g.inf n, 0)
      | .fin y => if y.m = 0 then (g.signed y.neg 0, 0) else roundF g x.md { y with e := y.e + intOf u q.2 })

/-! ### Special functions -/

/-- FDIV (R119). -/
def execFdiv (o : LOp) (s : State) : Host.Outcome State Fault Refusal :=
  computeWord s 0x2C o fun x i => float2 x i divF

/-- FSQRT (R119). -/
def execFsqrt (o : LOp) (s : State) : Host.Outcome State Fault Refusal :=
  computeWord s 0x2D o fun x i => float1 x i fun g md _ a => sqrtF g md a

/-- RCP (R119). -/
def execRcp (o : LOp) (s : State) : Host.Outcome State Fault Refusal :=
  computeWord s 0x2E o fun x i => float1 x i fun g md _ a => rcpF g md a

/-- RSQ (R119). -/
def execRsq (o : LOp) (s : State) : Host.Outcome State Fault Refusal :=
  computeWord s 0x2F o fun x i => float1 x i fun g md _ a => rsqF g md a

/-- EXP2 (R119). -/
def execExp2 (o : LOp) (s : State) : Host.Outcome State Fault Refusal :=
  computeWord s 0x30 o fun x i => float1 x i exp2F

/-- LOG2 (R119). -/
def execLog2 (o : LOp) (s : State) : Host.Outcome State Fault Refusal :=
  computeWord s 0x31 o fun x i => float1 x i log2F

/-- SIN (R119). -/
def execSin (o : LOp) (s : State) : Host.Outcome State Fault Refusal :=
  computeWord s 0x32 o fun x i => float1 x i sinF

/-- COS (R119). -/
def execCos (o : LOp) (s : State) : Host.Outcome State Fault Refusal :=
  computeWord s 0x33 o fun x i => float1 x i cosF

/-- TANH (R119). -/
def execTanh (o : LOp) (s : State) : Host.Outcome State Fault Refusal :=
  computeWord s 0x34 o fun x i => float1 x i tanhF

/-! ### Conversions -/

/-- R120: sub-elements a[k + j] of the source type for j below n, converted; the others of the destination are 0. -/
def convWord (x : Word) (i : Nat) (f : Nat → Nat × BitVec 5) : W64 × BitVec 5 :=
  let td := x.o.ty
  let ts := x.vty
  let k := (x.o.aux.extractLsb' 0 3).toNat
  let a := x.a ts i
  joinF td ((List.range (min (tyCount ts) (tyCount td))).map fun j => f (subElem (tyBits ts) a (k + j)))

/-- FCVT (R120). -/
def execFcvt (o : LOp) (s : State) : Host.Outcome State Fault Refusal :=
  computeWord s 0x36 o fun x i => convWord x i fun v =>
    convF (fmtOf x.o.ty) x.md (sourceF (fmtOf x.vty) x.md v)

/-- ICVT (R120). -/
def execIcvt (o : LOp) (s : State) : Host.Outcome State Fault Refusal :=
  computeWord s 0x37 o fun x i => convWord x i fun v => roundF (fmtOf x.o.ty) x.md (exOfInt (intOf x.vty v))

/-- FCVTI (R120): the source is read as stored, since R71 flushes sources of conversions into float types only (log entry
22). -/
def execFcvti (o : LOp) (s : State) : Host.Outcome State Fault Refusal :=
  computeWord s 0x38 o fun x i => convWord x i fun v => toIntF x.o.ty x.md.rnd (readF (fmtOf x.vty) v)

/-! ### Modes and flags -/

/-- R123: the value of MD that `SETMD` makes of the lowest active lane's operands. -/
def mergedMd (x : Word) (l : Nat) : BitVec 16 :=
  let a := (x.a .n16 l).setWidth 16
  let m := (x.b .n16 l).setWidth 16
  (x.G.L.md &&& ~~~ m) ||| (a &&& m)

/-- R68: MD may hold the value. -/
def mdValid (v : BitVec 16) : Bool := decide ((v.extractLsb' 0 3).toNat < 5) && v.extractLsb' 11 5 == 0

/-- SETMD (R123). -/
def execSetmd (o : LOp) (s : State) : Host.Outcome State Fault Refusal :=
  lWord s 0x68 o true fun x s =>
    match x.leader with
    | none => .done s
    | some l =>
      let v := mergedMd x l
      if mdValid v then .done (x.mod s fun G => { G with L := { G.L with md := v } })
      else x.failW .modeValue 0 (v.setWidth 64)

/-- GETMD (R125). -/
def execGetmd (o : LOp) (s : State) : Host.Outcome State Fault Refusal :=
  moveWord s 0x69 o fun x _ => x.G.L.md.setWidth 64

/-- RDFL (R125). -/
def execRdfl (o : LOp) (s : State) : Host.Outcome State Fault Refusal :=
  moveWord s 0x6A o fun x i => (x.G.lane i).flags.setWidth 64

/-- CLFL (R125). -/
def execClfl (o : LOp) (s : State) : Host.Outcome State Fault Refusal :=
  lWord s 0x6B o true fun x s =>
    .done (x.mod s fun G => G.mapLanes fun i L =>
      if inMask x.act i then { L with flags := L.flags &&& ~~~ ((x.a .b64 i).setWidth 5) } else L)

end Sys2Proof.Machine
end

