-- ==== Sys2Proof/Machine/Matrix.lean ====
section
/-! DEFINITION. The matrix array: blocks of shared exponent (R79, R81), the layout of B tiles and A rows (R247, R250), the sums of
one cell (R75, R82 to R84), and a quarter operation (R254, R256). -/

namespace Sys2Proof.Machine

/-! ### Formats -/

/-- R121, R250: the width of an SX format code. -/
def sxWidth (v : Nat) : Nat := match v with | 7 => 8 | 8 => 6 | 9 => 4 | 10 => 3 | _ => 2

/-- R79, R81: what code m of a block of width w and exponent E stands for. -/
def sxValue (w E : Nat) (m : Int) : FVal :=
  if E = 255 then
    if m = 0 then .fin { neg := false, m := 0, e := 0 }
    else if 0 < m then .inf false
    else if m = -(2 ^ (w - 1)) then .nan false
    else .inf true
  else .fin { neg := decide (m < 0), m := m.natAbs, e := (E : Int) - 127 - ((w : Int) - 2) }

/-- R250: the legal pairs. -/
def matPair (a b : Nat) : Bool :=
  (a == 0 && b == 0) || (a == 1 && (b == 1 || b == 6)) || (a == 2 && b == 2)
  || ((a == 3 || a == 4) && (b == 3 || b == 4)) || (a == 5 && b == 5)
  || ((a == 7 || a == 9) && decide (7 ≤ b) && decide (b ≤ 11))

/-- R250: K of a B format. -/
def matK (b : Nat) : Nat := if b = 0 then 32 else 128

/-- R247: the lines of a B tile. -/
def bLines (b : Nat) : Nat := match b with | 0 | 3 | 4 | 5 => 16 | 1 | 2 => 32 | 6 => 10 | _ => 2 * sxWidth b + 1

/-- R250: the bytes of an A row. -/
def aBytes (a : Nat) : Nat := match a with | 0 | 3 | 4 | 5 => 128 | 1 | 2 => 256 | _ => 16 * sxWidth a

/-- R250: the alignment of an A row. -/
def aAlign (a : Nat) : Nat := match a with | 0 => 4 | 1 | 2 => 2 | _ => 1

/-- R250: the tag that a pair writes. -/
def pairTag (a : Nat) : TileTag := if a = 5 then .i32 else .f32

/-- R250: the number format of a float code. -/
def matFmt (a : Nat) : Fmt := fmtOf (match a with | 0 => .f32 | 1 => .bf16 | 2 => .f16 | 3 => .e4m3 | _ => .e5m2)

/-! ### Tiles -/

/-- R247: byte b of the tile whose first line is l. -/
def tileByte (C : Core) (l b : Nat) : Nat :=
  ((C.lines.find? fun x => x.line == l + b / 1024).map fun x => (x.bytes.getD (b % 1024) 0).toNat).getD 0

/-- R247: n bytes of a tile. -/
def tileNat (C : Core) (l b n : Nat) : Nat := (List.range n).foldr (fun i a => tileByte C l (b + i) + 256 * a) 0

/-- R247: a 4-bit field of a tile by its index. -/
def tileNibble (C : Core) (l b i : Nat) : Nat := tileByte C l (b + i / 2) / 16 ^ (i % 2) % 16

/-- R75, R247: the weight of element (k, n) of a q4 tile. -/
def q4Weight (C : Core) (l k n : Nat) : FVal :=
  let f := fmtOf .bf16
  let g := k / 32
  let z : Int := tileNibble C l 9216 (128 * g + n)
  let c : Int := tileNibble C l 0 (128 * k + n)
  readF f (mulF f modePlain (readF f (tileNat C l (8192 + 2 * (128 * g + n)) 2)) (.fin (exOfInt (c - z)))).1

/-- R247: element (k, n) of a float tile. -/
def bFloat (C : Core) (b l k n : Nat) : FVal :=
  if b = 6 then q4Weight C l k n
  else
    let w := (matFmt b).bits / 8
    readF (matFmt b) (tileNat C l ((128 * k + n) * w) w)

/-- R247: the mantissa of element (k, n) of an SX tile, from its bit planes. -/
def bMant (C : Core) (b l k n : Nat) : Int :=
  let w := sxWidth b
  let j := 128 * k + n
  signedNat w ((List.range w).foldl (fun a p => a + 2 ^ p * (tileByte C l (2048 * p + j / 8) / 2 ^ (j % 8) % 2)) 0)

/-- R247: the exponent of column n of an SX tile. -/
def bExp (C : Core) (b l n : Nat) : Nat := tileByte C l (2048 * sxWidth b + n)

/-- R250: the number of element k of an A row of elements of w bits. -/
def aNat (w k : Nat) (row : List Byte) : Nat := bytesToNat row / 2 ^ (w * k) % 2 ^ w

/-! ### Sums -/

/-- R71: rounded as if the exponent had no lower bound, the value lies below the least normal value. -/
def tinyF (f : Fmt) (x : Ex) : Bool :=
  let top : Int := x.m.log2 + x.e
  let q := roundAt .rne x (top - f.fbits)
  x.m != 0 && decide ((if q.1 = 2 ^ (f.fbits + 1) then top + 1 else top) < f.emin)

/-- R82: the exact terms, without zeros. -/
def finTerms (vs : List FVal) : List Ex := vs.filterMap fun v => match v with | .fin x => if x.m = 0 then none else some x | _ => none

/-- R82: the sum of finite terms, each cut at 64 bits below the greatest. -/
def alignedSum (ts : List Ex) : Nat × BitVec 5 :=
  let f := fmtOf .f32
  let L : Int := (ts.map fun t => (t.m.log2 : Int) + t.e).foldl max (-100000)
  let u := L - 64
  let S := (ts.map fun t => t.at u).foldl (· + ·) 0
  let cut := ts.any fun t => decide (t.e < u) && t.m % 2 ^ (u - t.e).toNat != 0
  if S = 0 then (0, if cut then flagNX else 0)
  else
    let x : Ex := { exOfInt S with e := u }
    let r := roundF f modePlain x
    (r.1, if cut then r.2 ||| flagNX ||| (if tinyF f x then flagUF else 0) else r.2)

/-- R82: the update of a float cell by its products. -/
def mmaFloat (c : FVal) (ps : List (FVal × FVal)) : Nat × BitVec 5 :=
  let f := fmtOf .f32
  let prods := ps.map fun p => prodV p.1 p.2
  let terms := c :: prods.map (·.1)
  let infs := fun (n : Bool) => terms.any fun t => t == .inf n
  if c.snan || prods.any (·.2) then nanF f true
  else if terms.any FVal.isNan then nanF f false
  else if infs true && infs false then nanF f true
  else if infs true then (f.inf true, 0)
  else if infs false then (f.inf false, 0)
  else
    match finTerms terms with
    | [] => (f.signed (terms.all FVal.sign) 0, 0)
    | ts => alignedSum ts

/-- R83: the update of an i8 cell by its products. -/
def mmaInt (c : BitVec 32) (ps : List (Int × Int)) : Nat × BitVec 5 :=
  (wrapInt 32 (ps.foldl (fun a p => a + p.1 * p.2) c.toInt), 0)

/-- R84: the chain's term where a block is special. -/
def sxSpecial (wa ea wb eb : Nat) (ps : List (Int × Int)) : FVal × BitVec 5 :=
  let prods := ps.map fun p => prodV (sxValue wa ea p.1) (sxValue wb eb p.2)
  let infs := fun (n : Bool) => prods.any fun p => p.1 == .inf n
  let both := infs true && infs false
  let nv := prods.any (·.2) || both
  if nv || prods.any (fun p => p.1.isNan) then (.nan false, nvIf nv)
  else if infs true then (.inf true, 0)
  else if infs false then (.inf false, 0)
  else (.fin (exOfInt 0), 0)

/-- R84: the update of a cell by one accumulation chain. -/
def mmaSx (c : FVal) (wa ea wb eb : Nat) (ps : List (Int × Int)) : Nat × BitVec 5 :=
  let f := fmtOf .f32
  let t : FVal × BitVec 5 :=
    if ea = 255 ∨ eb = 255 then sxSpecial wa ea wb eb ps
    else
      let e : Int := (ea : Int) + eb - 254 - ((wa : Int) - 2) - ((wb : Int) - 2)
      let r := roundF f modePlain { exOfInt (ps.foldl (fun a p => a + p.1 * p.2) 0) with e := e }
      (readF f r.1, r.2)
  let r := sumF f modePlain c t.1
  (r.1, r.2 ||| t.2)

/-! ### A quarter operation -/

/-- R254: cell n of a row: from the cell it adds to and the row's A bytes and exponent. -/
def quarterCell (C : Core) (q : Quarter) (ea : Nat) (row : List Byte) (n : Nat) (c : BitVec 32) : Nat × BitVec 5 :=
  let ks := List.range (matK q.fb)
  let c := if q.ow then 0 else c
  let old := readF (fmtOf .f32) c.toNat
  if q.fa = 5 then mmaInt c (ks.map fun k => (signedNat 8 (aNat 8 k row), signedNat 8 (tileByte C q.line (128 * k + n))))
  else if 7 ≤ q.fa then
    let wa := sxWidth q.fa
    mmaSx old wa ea (sxWidth q.fb) (bExp C q.fb q.line n)
      (ks.map fun k => (signedNat wa (aNat wa k row), bMant C q.fb q.line k n))
  else
    mmaFloat old (ks.map fun k => (readF (matFmt q.fa) (aNat (matFmt q.fa).bits k row), bFloat C q.fb q.line k n))

/-- R254: a whole row: its cells, and the flags of all of them. -/
def quarterRow (C : Core) (q : Quarter) (ea : Nat) (row : List Byte) (old : List (BitVec 32)) : List (BitVec 32) × BitVec 5 :=
  let rs := (List.range 128).map fun n => quarterCell C q ea row n (old.getD n 0)
  (rs.map fun r => BitVec.ofNat 32 r.1, (rs.map (·.2)).foldl (· ||| ·) 0)

/-- R256: a quarter operation, as the array reads for it: it comes after what its `MMA` comes after. -/
def Quarter.party (q : Quarter) (core : Nat) : Party := { who := .quarter q.wg q.group q.stamp, core := core }

/-- R240, R256: one B-line as a party reads it, after those before it: each 32-byte sector that a `BLOAD` has written without being
ordered before the read is old or new. -/
def seeLine (p : Party) (line n : Nat) (q : List BLine × State) (x : BLine) : List BLine × State :=
  if line ≤ x.line ∧ x.line < line + n then
    let r := q.2.look p (.lines p.core) (x.line * 1024) x.bytes
    (q.1 ++ [{ x with bytes := r.1 }], r.2)
  else (q.1 ++ [x], q.2)

/-- R240, R256: a core as a party reads n of its B-lines. -/
def seenLines (s : State) (p : Party) (line n : Nat) : Core × State :=
  let q := (s.core p.core).lines.foldl (seeLine p line n) ([], s)
  ({ s.core p.core with lines := q.1 }, q.2)

/-- R254, R256: the A rows of an operation as the array reads them: each 16-byte granule as it now is, or without writes that the
operation may miss, which those made since its `MMA` are. -/
def seenRows (s : State) (p : Party) (W : Wg) (q : Quarter) : List (Option (Nat × List Byte)) × State :=
  q.rows.foldl (fun acc r =>
    match r with
    | none => (acc.1 ++ [none], acc.2)
    | some r =>
      let b := acc.2.look p (.scratch q.wg) r.addr (W.bytes r.addr (aBytes q.fa)) 16
      (acc.1 ++ [some (r.exp, b.1)], b.2)) ([], s)

/-- R254: a quarter operation on its tile; the pending flags of its lanes. -/
def quarterStep (s : State) (core : Nat) (q : Quarter) : State :=
  match s.wgs[q.wg]? with
  | none => s
  | some W =>
    let view := seenLines s (q.party core) q.line (bLines q.fb)
    let read := seenRows view.2 (q.party core) W q
    read.2.modGroup q.wg q.group fun G =>
      let t := G.tiles.getD q.tile Tile.zero
      let rows := (List.range 8).map fun l =>
        let old := (t.cells.drop (128 * l)).take 128
        match read.1.getD l none with
        | none => (old, 0)
        | some r => quarterRow view.1 q r.1 r.2 old
      let G : Group := { G with tiles := G.tiles.set q.tile { t with cells := rows.flatMap (·.1) } }
      G.mapLanes fun i L => if i / 8 = q.q then { L with pend := L.pend ||| (rows.getD (i % 8) ([], 0)).2 } else L

/-- R249: a group's tile is busy. -/
def tileBusy (C : Core) (w g t : Nat) : Bool := (C.mq ++ C.arr).any fun q => q.wg == w && q.group == g && q.tile == t

end Sys2Proof.Machine
end

