-- ==== Sys2Proof/Machine/LaneCross.lean ====
section
/-! DEFINITION. Cross-lane words (R145 to R151), and the uniform registers and bq (R142 to R144, R147). -/

namespace Sys2Proof.Machine

/-! ### Moves -/

/-- R145: element number e of register v of the whole group, in a type. -/
def groupElem (x : Word) (t : Ty) (v e : Nat) : Nat := subElem (tyBits t) ((x.G.lane (e / tyCount t)).r v) (e % tyCount t)

/-- R146: an index modulo the elements of the group. -/
def indexOf (t : Ty) (b : Nat) : Nat := b % (32 * tyCount t)

/-- A word that moves elements across lanes; `pick` gives the element for lane i and sub-element j. -/
def crossWord (s : State) (op : BitVec 8) (o : LOp) (pick : Word → Nat → Nat → Nat) : Host.Outcome State Fault Refusal :=
  moveWord s op o fun x i =>
    let t := x.o.ty
    ofElems t ((List.range (tyCount t)).map fun j => groupElem x t (regNo x.o.a) (pick x i j))

/-- Sub-element j of b on lane i, read unsigned in the word's width. -/
def idxElem (x : Word) (i j : Nat) : Nat :=
  let u := nOfBits (tyBits x.o.ty)
  subElem (tyBits u) (x.b u i) j

/-- SHFL (R146). -/
def execShfl (o : LOp) (s : State) : Host.Outcome State Fault Refusal :=
  crossWord s 0x48 o fun x i j => indexOf x.o.ty (idxElem x i j)

/-- SHFX (R146). -/
def execShfx (o : LOp) (s : State) : Host.Outcome State Fault Refusal :=
  crossWord s 0x49 o fun x i j => (tyCount x.o.ty * i + j) ^^^ indexOf x.o.ty (idxElem x i j)

/-- BCST (R146). -/
def execBcst (o : LOp) (s : State) : Host.Outcome State Fault Refusal :=
  crossWord s 0x4A o fun x _ _ => indexOf x.o.ty (idxElem x (x.leader.getD 0) 0)

/-! ### Votes -/

/-- Sets a uniform register. -/
def Group.setW (G : Group) (d : Nat) (v : W64) : Group := { G with L := { G.L with w := G.L.w.set d v } }

/-- The w register that VD names. -/
def wdst (o : LOp) : Nat := (o.vd.extractLsb' 0 5).toNat

/-- BALL (R147). -/
def execBall (o : LOp) (s : State) : Host.Outcome State Fault Refusal :=
  plainWord s 0x4B o fun x G =>
    G.setW (wdst x.o) ((maskOf fun i => inMask x.act i && (x.G.lane i).p (x.o.aux.extractLsb' 0 3)).setWidth 64)

/-- R148: the value of a vote over the active lanes. -/
def voteOf (x : Word) : Bool :=
  let ls := lanesOf x.act
  let p := fun i => (x.G.lane i).p (x.o.aux.extractLsb' 0 3)
  match x.o.var.toNat with
  | 0 => ls.all p
  | 1 => ls.any p
  | _ => ls.all fun i => x.a .b64 i == x.a .b64 (x.leader.getD 0)

/-- VOTE (R148). -/
def execVote (o : LOp) (s : State) : Host.Outcome State Fault Refusal :=
  predWord s 0x4C o fun x _ => (voteOf x, 0)

/-- MBCNT (R149). -/
def execMbcnt (o : LOp) (s : State) : Host.Outcome State Fault Refusal :=
  moveWord s 0x4D o fun x i => BitVec.ofNat 64 (popNat i ((x.a x.o.ty i).toNat % 2 ^ i))

/-- CONF (R150). -/
def execConf (o : LOp) (s : State) : Host.Outcome State Fault Refusal :=
  moveWord s 0x4E o fun x i =>
    let t := x.o.ty
    let w := tyBits t
    let a := x.a t i
    ofElems t ((List.range (tyCount t)).map fun j =>
      (maskOf fun k => inMask x.act k && decide (k < i) && subElem w (x.a t k) j == subElem w a j).toNat)

/-! ### Reductions -/

/-- R151: one step of a kind on two sub-elements, with its flags. -/
def stepOf (t : Ty) (md : FMode) (kind : Nat) (p v : Nat) : Nat × BitVec 5 :=
  let w := tyBits t
  if tyFloat t then
    let g := fmtOf t
    let a := sourceF g md p
    let b := sourceF g md v
    match kind with
    | 0 => sumF g md a b
    | 1 => minmaxF g md false false a b
    | _ => minmaxF g md true false a b
  else
    match kind with
    | 0 => ((p + v) % 2 ^ w, 0)
    | 1 => (if intOf t p ≤ intOf t v then p else v, 0)
    | 2 => (if intOf t p ≤ intOf t v then v else p, 0)
    | 3 => (p &&& v, 0)
    | 4 => (p ||| v, 0)
    | _ => (p ^^^ v, 0)

/-- R71, R151: the first value as it is delivered, with the flags of its delivery: float inputs and results obey MD.sub, and NaN results
are canonical. DEDUCED (entry 63): a first value that is delivered is a result, and is flushed as one. -/
def firstOf (t : Ty) (md : FMode) (v : Nat) : Nat × BitVec 5 :=
  if tyFloat t then valF (fmtOf t) md (sourceF (fmtOf t) md v) else (v, 0)

/-- R151: the exclusive identity. -/
def identityOf (t : Ty) (kind : Nat) : Nat :=
  let g := fmtOf t
  match kind with
  | 0 => if tyFloat t then g.signed true 0 else 0
  | 1 => if tyFloat t then g.inf false else (wrapInt (tyBits t) (intMax t))
  | 2 => if tyFloat t then g.inf true else (wrapInt (tyBits t) (intMin t))
  | 3 => 2 ^ tyBits t - 1
  | _ => 0

/-- A fold so far: the partial result as the next step reads it, as it is delivered, the flags of its steps, and those raised where
it is delivered. -/
structure Fold where
  raw : Nat
  out : Nat
  steps : BitVec 5
  fl  : BitVec 5
  deriving DecidableEq, Repr

/-- R151: the folds over the active lanes up to each, in lane order; every entry is a lane, the fold before it and the fold
with it. -/
def foldsOf (t : Ty) (md : FMode) (kind : Nat) : Option Fold → List (Nat × Nat) → List (Nat × Option Fold × Fold)
  | _, [] => []
  | none, (i, v) :: rest =>
    let f : Fold := { raw := v, out := (firstOf t md v).1, steps := 0, fl := (firstOf t md v).2 }
    (i, none, f) :: foldsOf t md kind (some f) rest
  | some p, (i, v) :: rest =>
    let r := stepOf t md kind p.raw v
    let f : Fold := { raw := r.1, out := r.1, steps := p.steps ||| r.2, fl := p.steps ||| r.2 }
    (i, some p, f) :: foldsOf t md kind (some f) rest

/-- R151: the folds of sub-element j over the active lanes of a word. -/
def wordFolds (x : Word) (j : Nat) : List (Nat × Option Fold × Fold) :=
  let t := x.o.ty
  foldsOf t x.md x.o.var.toNat none ((lanesOf x.act).map fun i => (i, subElem (tyBits t) (x.a t i) j))

/-- RED (R151). -/
def execRed (o : LOp) (s : State) : Host.Outcome State Fault Refusal :=
  computeWord s 0x4F o fun x _ =>
    joinF x.o.ty ((List.range (tyCount x.o.ty)).map fun j =>
      match (wordFolds x j).getLast? with
      | some r => (r.2.2.out, r.2.2.fl)
      | none => (0, 0))

/-- SCAN (R151). -/
def execScan (o : LOp) (s : State) : Host.Outcome State Fault Refusal :=
  computeWord s 0x50 o fun x i =>
    joinF x.o.ty ((List.range (tyCount x.o.ty)).map fun j =>
      match (wordFolds x j).find? fun r => r.1 == i with
      | some (_, before, incl) =>
        if x.o.aux.getLsbD 0 then
          match before with
          | some p => (p.out, p.fl)
          | none => (identityOf x.o.ty x.o.var.toNat, 0)
        else (incl.out, incl.fl)
      | none => (0, 0))

/-! ### Uniform registers and bq -/

/-- MOVW (R143). -/
def execMovw (o : LOp) (s : State) : Host.Outcome State Fault Refusal :=
  plainWord s 0x60 o fun x G =>
    match x.leader with
    | some l => G.setW (wdst x.o) (x.a .b64 l)
    | none => G

/-- PUSHB (R144). -/
def execPushb (o : LOp) (s : State) : Host.Outcome State Fault Refusal :=
  lWord s 0x61 o true fun x s =>
    if 16 ≤ x.G.S.bq.length then .wait .queue
    else
      let v := match x.leader with | some l => x.a .b64 l | none => 0
      .done (x.mod (s.pass x.who (.entry x.E.w x.E.g false x.G.S.bq.length) How.past) fun G => { G with S := { G.S with bq := G.S.bq ++ [v] } })

/-! ### Blocks of shared exponent -/

/-- R80, R81: what `QBLK` reads: the value of element e; +0 where its lane is not active. -/
def qElem (x : Word) (e : Nat) : FVal :=
  if inMask x.act (e / 4) then readF (fmtOf x.o.ty) (subElem 16 ((x.G.lane (e / 4)).r (regNo x.o.a)) (e % 4))
  else .fin { neg := false, m := 0, e := 0 }

/-- R80: floor(log2 a) of the greatest magnitude; none where every element is zero. -/
def topOf (vs : List FVal) : Option Int :=
  vs.foldl (fun acc v =>
    match v with
    | .fin y => if y.m = 0 then acc else match acc with | none => some y.top | some t => some (max t y.top)
    | _ => acc) none

/-- R80: one mantissa of a block of width w and exponent E, with its flag. -/
def quantise (w E : Nat) (v : FVal) : Int × BitVec 5 :=
  match v with
  | .fin y =>
    let k : Int := (w : Int) - 2 - ((E : Int) - 127)
    let q := roundAt .rne { y with e := y.e + k } 0
    let t : Int := if y.neg then -(q.1 : Int) else q.1
    let hi : Int := 2 ^ (w - 1) - 1
    let lo : Int := -(2 ^ (w - 1))
    let c := max lo (min hi t)
    (c, if q.2 || c != t then flagNX else 0)
  | _ => (0, 0)

/-- R81: one code of a special block, with its flag. -/
def specialCodeSx (w : Nat) (v : FVal) : Int × BitVec 5 :=
  match v with
  | .nan _ => (-(2 ^ (w - 1)), flagNV)
  | .inf n => (if n then -1 else 1, 0)
  | .fin y => (0, if y.m = 0 then 0 else flagNX)

/-- R80, R81: a block of 128 elements: its exponent, mantissas and flags. -/
def sxBlock (w : Nat) (vs : List FVal) : Nat × List (Int × BitVec 5) :=
  if vs.any fun v => v.isNan || v.isInf then (255, vs.map (specialCodeSx w))
  else
    match topOf vs with
    | none => (0, vs.map fun _ => (0, 0))
    | some t =>
      let E := (max 0 (min 254 (t + 127))).toNat
      (E, vs.map (quantise w E))

/-- R79: the number whose bytes are the block. -/
def sxNat (w : Nat) (b : Nat × List (Int × BitVec 5)) : Nat := b.1 + 256 * joinElems w (b.2.map fun m => wrapInt w m.1)

/-- QBLK (R121): lane i holds the block's bytes 8i to 8i+7, and the flags of its own elements. -/
def execQblk (o : LOp) (s : State) : Host.Outcome State Fault Refusal :=
  computeWord s 0x40 o fun x i =>
    let w := sxWidth x.o.var.toNat
    let blk := sxBlock w ((List.range 128).map (qElem x))
    (BitVec.ofNat 64 (sxNat w blk / 2 ^ (64 * i) % 2 ^ 64), allFlags (((blk.2.drop (4 * i)).take 4).map (·.2)))

/-- R79: the bytes of a register of the whole group, lane 0 lowest. -/
def groupNat (x : Word) (v : Nat) : Nat := joinElems 64 (laneList.map fun i => ((x.G.lane i).r v).toNat)

/-- DQBLK (R121). DESIGN CHOICE, unsafe (entry 64): R79 and R121 call every value exact; the code −2^(w−1) with E = 254 stands for
−2^128, which neither bf16 nor f32 holds, and is rounded as any other value: to −infinity, with OF and NX. -/
def execDqblk (o : LOp) (s : State) : Host.Outcome State Fault Refusal :=
  computeWord s 0x41 o fun x i =>
    let w := sxWidth x.o.var.toNat
    let n := groupNat x (regNo x.o.a)
    let g := fmtOf x.o.ty
    joinF x.o.ty ((List.range 4).map fun j =>
      match sxValue w (n % 256) (signedNat w (n / 256 / 2 ^ (w * (4 * i + j)))) with
      | .nan _ => (g.nan, 0)
      | .inf b => (g.inf b, 0)
      | .fin y => if x.o.ty = .bf16 then roundF g modePlain y else roundF g x.md y)

end Sys2Proof.Machine
end

