-- ==== Sys2Proof/Machine/Scratch.lean ====
section
/-! DEFINITION. The scratchpad words of lanes: LDS, STS, ATS, WAITGE and its recheck (R156 to R160, R204, R205). -/

namespace Sys2Proof.Machine

/-! ### Addresses and checks -/

/-- R156: the address of a lane, computed exactly. -/
def scrAddr (x : Word) (i : Nat) : Int := ((x.a .n64 i).toNat : Int) + x.o.imm.toInt

/-- R156: the checks of a scratchpad word over its active lanes: range first, then alignment. The details of ATOM_ALIGN, for which R289
names a slot and a key, are the scratchpad address and 0: DESIGN CHOICE (entry 68). -/
def scrCheck (x : Word) (n align : Nat) (cas128 : Bool) : Option TrapInfo :=
  let a := scrAddr x
  let fail := fun c (m : LMask) =>
    some (x.info c .lane m (BitVec.ofInt 64 (a ((lowestLane m).getD 0))))
  let rg := maskOf fun i => inMask x.act i && (decide (a i < 0) || decide ((x.E.W.size : Int) < a i + n))
  let al := maskOf fun i => inMask x.act i && a i % align != 0
  let ah := maskOf fun i => inMask al i && a i % 16 == 8
  if rg ≠ 0 then fail .scrRange rg
  else if cas128 then
    if al &&& ~~~ ah ≠ 0 then fail .scrAlign (al &&& ~~~ ah)
    else if ah ≠ 0 then fail .atomAlign ah
    else none
  else if al ≠ 0 then fail .scrAlign al
  else none

/-- The address of a lane that has passed the checks. -/
def scrAt (x : Word) (i : Nat) : Nat := (scrAddr x i).toNat

/-- Bytes of a type in memory. -/
def tyBytes (t : Ty) : Nat := tyBits t / 8

/-- R158: the bytes that a lane of `LDS` or `STS` accesses. -/
def accBytes (o : LOp) : Nat := tyBytes o.ty * (o.var.toNat + 1)

/-- Writes lane registers from n on. -/
def Lane.wMany (L : Lane) (n : Nat) : List W64 → Lane
  | [] => L
  | v :: vs => (L.w n v).wMany (n + 1) vs

/-- A lane whose results `f` gives, on the active lanes of a word. -/
def Word.setLanes (x : Word) (G : Group) (f : Nat → List W64) : Group :=
  G.mapLanes fun i L => if inMask x.act i then L.wMany x.o.vd.toNat (f i) else L

/-- Changes one lane of the word's group. -/
def Word.modLane (x : Word) (s : State) (i : Nat) (f : Lane → Lane) : State :=
  x.mod s fun G => G.mapLanes fun j L => if j = i then f L else L

/-- The byte of a workgroup's allotment. -/
def State.scratchByte (s : State) (w a : Nat) : Byte := ((s.wgs[w]?).map fun W => memGet W.scratch a).getD 0

/-- R157, R267: a party writes bytes of a workgroup's allotment; `rmw` where it has read them in the same step; `rel`: the scope that
the write releases at. -/
def writeScratch (s : State) (p : Party) (w a : Nat) (bs : List Byte) (rmw : Bool := false) (rel : Option ScopeAt := none) : State :=
  let s := s.note p (.scratch w) a bs.length (s.scratchByte w) rmw rel
  s.modWg w fun W => W.write s.ctl.writes a bs

/-- R157, R267: n bytes of a workgroup's allotment as a party reads them. -/
def readScratch (s : State) (p : Party) (w a n : Nat) : List Byte × State :=
  s.look p (.scratch w) a (((s.wgs[w]?).map fun W => W.bytes a n).getD [])

/-! ### Loads and stores -/

/-- R158: the registers that n bytes of a type load. -/
def loadRegs (t : Ty) (bs : List Byte) : List W64 :=
  if tyBytes t = 8 then bytesToWords (bs.length / 8) bs else [widen (tySigned t) (tyBytes t) (bytesToNat bs)]

/-- R158: the load of lane i. -/
def ldsLane (x : Word) (s : State) (i : Nat) : State :=
  let q := readScratch s x.party x.E.w (scrAt x i) (accBytes x.o)
  x.modLane q.2 i fun L => L.wMany x.o.vd.toNat (loadRegs x.o.ty q.1)

/-- LDS (R158). -/
def execLds (o : LOp) (s : State) : Host.Outcome State Fault Refusal :=
  lWord s 0x70 o true fun x s =>
    match scrCheck x (accBytes x.o) (tyBytes x.o.ty) false with
    | some t => .trap t
    | none => .done ((lanesOf x.act).foldl (ldsLane x) s)

/-- R158, R189: the bytes that a lane stores from b. -/
def storeBytes (x : Word) (i : Nat) : List Byte :=
  if x.o.var = 0 then wordToBytes (tyBytes x.o.ty) (x.b x.o.ty i)
  else (List.range (x.o.var.toNat + 1)).flatMap fun r => wordToBytes 8 ((x.G.lane i).r (regNo x.o.b + r))

/-- STS (R158): lanes in ascending order, so that the higher lane's bytes remain. -/
def execSts (o : LOp) (s : State) : Host.Outcome State Fault Refusal :=
  lWord s 0x71 o true fun x s =>
    match scrCheck x (accBytes x.o) (tyBytes x.o.ty) false with
    | some t => .trap t
    | none => .done ((lanesOf x.act).foldl (fun s i => writeScratch s x.party x.E.w (scrAt x i) (storeBytes x i)) s)

/-! ### Atomics -/

/-- R159, R197: what an atomic of a kind makes of an old value of a type. -/
def atomNew (kind : Nat) (t : Ty) (old b c : Nat) : Nat :=
  let w := tyBits t
  match kind with
  | 0 => (old + b) % 2 ^ w
  | 1 => (old + 2 ^ w - b % 2 ^ w) % 2 ^ w
  | 2 => if intOf t old ≤ intOf t b then old else b
  | 3 => if intOf t old ≤ intOf t b then b else old
  | 4 => old &&& b
  | 5 => old ||| b
  | 6 => old ^^^ b
  | 7 => b
  | 8 => if old = b then c else old
  | 9 => if old = b then c else old
  | _ =>
    let g := fmtOf t
    (sumF g modePlain (readF g old) (readF g b)).1

/-- R159: bytes of an atomicity unit. -/
def atomBytes (o : LOp) : Nat := if o.var = 9 then 16 else tyBytes o.ty

/-- R159: an operand of an atomic on a lane: sub-element 0, or a register pair of `.cas128`. -/
def atomArg (x : Word) (i : Nat) (q : Src) : Nat :=
  if x.o.var = 9 then
    let L := x.G.lane i
    (L.r (regNo q)).toNat + 2 ^ 64 * (L.r (regNo q + 1)).toNat
  else subElem (tyBits x.o.ty) (x.src x.o.ty i q) 0

/-- R159: the registers that an old value is delivered in. -/
def atomRegs (o : LOp) (old : Nat) : List W64 :=
  if o.var = 9 then [BitVec.ofNat 64 old, BitVec.ofNat 64 (old / 2 ^ 64)]
  else [widen (tySigned o.ty) (tyBytes o.ty) old]

/-- R45: the order of a word. -/
def wordOrder (o : LOp) : Order := orderOfCode (o.aux.extractLsb' 0 2)
/-- R45: the scope code of a word. -/
def wordScope (o : LOp) : Nat := (o.aux.extractLsb' 2 3).toNat

/-- R264: the scope at which the word's reads acquire. -/
def Word.acqAt (x : Word) : Option ScopeAt := x.E.half acquires (wordOrder x.o) (wordScope x.o)
/-- R264: the scope at which the word's writes release. -/
def Word.relAt (x : Word) : Option ScopeAt := x.E.half releases (wordOrder x.o) (wordScope x.o)

/-- R159, R264: the step of lane i on the workgroup's allotment: its read acquires and its write releases. -/
def atsStep (x : Word) (s : State) (i : Nat) : State :=
  let n := atomBytes x.o
  let a := scrAt x i
  let old := match s.wgs[x.E.w]? with | some W => memNat W.scratch a n | none => 0
  let new := atomNew x.o.var.toNat x.o.ty old (atomArg x i x.o.b) (atomArg x i x.o.c)
  let s := s.readNow x.party (.scratch x.E.w) a n x.acqAt
  x.modLane (writeScratch s x.party x.E.w a (natToBytes n new) true x.relAt) i fun L => L.wMany x.o.vd.toNat (atomRegs x.o old)

/-- ATS (R159, R205): lanes in ascending order, each step indivisible. -/
def execAts (o : LOp) (s : State) : Host.Outcome State Fault Refusal :=
  lWord s 0x72 o true fun x s =>
    let n := atomBytes x.o
    match scrCheck x n n (x.o.var == 9) with
    | some t => .trap t
    | none => .done ((lanesOf x.act).foldl (atsStep x) s)

/-! ### Waiting on a value -/

/-- R160: the active lanes of a `WAITGE`, as they find the allotment at issue, after so many writes. -/
def waitLanes (x : Word) (writes : Nat) : List WaitLane :=
  (lanesOf x.act).map fun i =>
    let n := tyBytes x.o.ty
    let q : WaitLane := { lane := i, addr := scrAt x i, bytes := n, signed := tySigned x.o.ty,
                          bound := widen (tySigned x.o.ty) n (x.b x.o.ty i).toNat, seen := none, after := 0 }
    q.look writes x.E.W.scratch

/-- R160: every lane has seen its value. -/
def waitDone (qs : List WaitLane) : Bool := qs.all fun q => q.seen.isSome

/-- R160: writes the values seen to a register. -/
def seenRegs (vd : Nat) (qs : List WaitLane) (G : Group) : Group :=
  G.mapLanes fun i L =>
    match qs.find? fun q => q.lane == i with
    | some q => match q.seen with | some v => L.w vd v | none => L
    | none => L

/-- R160, R264: the lanes of a `WAITGE` have read what satisfied them; with `.acq` those reads acquire. -/
def Word.readWaits (x : Word) (qs : List WaitLane) (s : State) : State :=
  qs.foldl (fun s q => ((LateSpace.scratch x.E.w).units q.addr q.bytes).foldl
    (State.readAt · x.party (.scratch x.E.w) q.after x.acqAt) s) s

/-- WAITGE (R160). -/
def execWaitge (o : LOp) (s : State) : Host.Outcome State Fault Refusal :=
  lWord s 0x73 o true fun x s =>
    let n := tyBytes x.o.ty
    match scrCheck x n n false with
    | some t => .trap t
    | none =>
      let qs := waitLanes x s.ctl.writes
      if waitDone qs then .done (x.mod (x.readWaits qs s) (seenRegs x.o.vd.toNat qs))
      else .hold (.waitge qs x.takes) s

/-- The L word at the L-PC of an entry, as its group stands. -/
def wordAt (s : State) (wg g e : Nat) : Option Word :=
  match envAt s wg g with
  | none => none
  | some E =>
    let p := E.G.split e
    match decodeL E.K.header.lregs (E.K.lcode.getD p.lpc.toNat 0) with
    | .error _ => none
    | .ok i =>
      match lParts i with
      | none => none
      | some q => some { E := E, e := e, p := p, op := q.1, o := q.2, act := activeMask E.G e p q.2 }

/-- What a held `WAITGE` has seen. -/
def Split.seenAll (p : Split) : Bool := match p.wait with | .waitge qs _ => waitDone qs | _ => false

/-- WAITGE_RECHECK (R160): the word completes once every lane has seen its value; each write of the workgroup has looked. -/
def execWaitgeRecheck (wg g e : Nat) (s : State) : Host.Outcome State Fault Refusal :=
  groupEvent s wg g (fun E => E.G.L.running && (E.G.split e).st == .ready && (E.G.split e).seenAll) fun _ s =>
    match wordAt s wg g e with
    | none => s
    | some x =>
      match x.p.wait with
      | .waitge qs _ => (x.heldGone (x.readWaits qs s)).modGroup wg g fun G => x.complete (seenRegs x.o.vd.toNat qs G)
      | _ => s

end Sys2Proof.Machine
end

