-- ==== Sys2Proof/Machine/LaneTable.lean ====
section
/-! DEFINITION. Table words of lanes: KFIND, KLD, KST, KINS, KDEL, the cursors and KAT (R181 to R197), with exact cells (R77,
R78). -/

namespace Sys2Proof.Machine

/-! ### The table operand -/

/-- R181: the slot. -/
def tabSlot (o : LOp) : BitVec 6 := o.imm.extractLsb' 16 6
/-- R181: the row is named by row id. -/
def tabRid (o : LOp) : Bool := o.imm.getLsbD 22
/-- R181: the byte offset in the row. -/
def tabOff (o : LOp) : Nat := (o.imm.extractLsb' 0 16).toNat

/-- R181: a k128 key is in a register pair. -/
def keyPair (x : Word) (i : Nat) (q : Src) : Key := ((x.G.lane i).r (regNo q + 1)) ++ ((x.G.lane i).r (regNo q))

/-- R181: the key or row id of a lane. -/
def tabKey (x : Word) (k128 : Bool) (i : Nat) : Key :=
  if k128 && !tabRid x.o then keyPair x i x.o.a else (x.a .n64 i).setWidth 128

/-- A source names a lane register with the next one below lregs (R181). -/
def isPair (x : Word) (q : Src) : Bool :=
  match q with
  | .reg n => decide (n.toNat + 1 < x.E.K.header.lregs)
  | _ => false

/-- The bits of the word, as R289 reports them. -/
def Word.bits (x : Word) : LWord := x.E.K.lcode.getD x.p.lpc.toNat 0

/-- A form that the word's own entry refuses after the word faults (R183 check 6). -/
def Word.failForm (x : Word) : LRes :=
  x.failW .illegalForm (x.bits.extractLsb' 0 64) ((x.bits.extractLsb' 64 32).setWidth 64)

/-- R289: the low word of the key of the lowest lane of a mask. -/
def lowKey (x : Word) (m : LMask) : W64 := x.a .n64 ((lowestLane m).getD 0)

/-- R289: a table trap of kind W. -/
def Word.tabW (x : Word) (c : Cause) : LRes := x.failW c ((tabSlot x.o).setWidth 64) (lowKey x x.p.mask)

/-- R289: a table trap of kind L. -/
def Word.tabL (x : Word) (c : Cause) (m : LMask) : LRes := x.failL c m ((tabSlot x.o).setWidth 64) (lowKey x m)

/-- R176, R183: a word on a table whose descriptor firmware must fetch first: check 3, then the service fault where a lane is
active. -/
def Word.fetches (x : Word) (s : State) (write : Bool) (q : Binding) : LRes :=
  if write && q.ro then x.tabW .slotReadonly
  else if x.act = 0 then .done s
  else .service .dirAbsent [.descriptor q.id]

/-- R183 checks 2 to 6, the service fault of a descriptor that is not at hand, then the word's own part on the bound table.
`okKind` is check 4; `n` the bytes it touches; `align` the alignment of off, whose failure is `alignFault`. That the register pair of
a k128 key reaches lregs is judged between checks 4 and 5, the table's key type being known only then: DESIGN CHOICE (entry 12). -/
def tabWord (x : Word) (s : State) (write : Bool) (okKind : Bound → Bool) (n align : Nat) (alignFault : LRes)
    (k : State → Bound → LRes) : LRes :=
  match x.E.La.binding (tabSlot x.o) with
  | none => x.tabW .noTable
  | some q =>
    let away := !s.descHeld q.id
    match s.named q with
    | none => if away then x.fetches s write q else x.tabW .noTable
    | some b =>
    let keyed := b.t.desc.k128 && !tabRid x.o
    if write && b.ro then x.tabW .slotReadonly
    else if !okKind b || (keyed && (match x.o.a with | .reg _ => false | _ => true)) then x.tabW .kindMismatch
    else if keyed && !isPair x x.o.a then x.failForm
    else if b.t.desc.width < tabOff x.o + n then x.tabW .colRange
    else if tabOff x.o % align ≠ 0 then alignFault
    else if away && x.act != 0 then .service .dirAbsent [.descriptor b.id]
    else k (s.resolve x.E.La x.party (tabSlot x.o)) b

/-! ### Check 7 -/

/-- What check 7 finds for a lane. -/
inductive LaneChk where
  | row (r : Row)
  | none
  | fault (c : Cause)
  | service (c : Cause) (ns : List Need)
  deriving DecidableEq, Repr

/-- R183: the causes of check 7, in order. -/
def check7 : List Cause := [.keyRange, .staleRid, .keyAbsent, .notOwner, .windowRevoked, .eccUncorr]

/-- R176, R177, R372: the checks of a lane on the bytes of a row that it has found. -/
def laneAccess (s : State) (world : BitVec 16) (b : Bound) (r : Row) (off n : Nat) (rt : Right) (reads : Bool) : LaneChk :=
  match accessCheck s b.v b.t world rt (r.addr + off) n with
  | .service c q => .service c q
  | .fault c => .fault c
  | .ok => if reads && b.t.badData (r.addr + off) n then .fault .eccUncorr else .row r

/-- R183: every lane's finding; service faults come before every cause, and the first cause in order decides. -/
def judgeBy (fail : Cause → LMask → LRes) (cs : List (Nat × LaneChk)) (k : LRes) : LRes :=
  let needs := cs.filterMap fun q => match q.2 with | .service c n => some (c, n) | _ => none
  match needs with
  | (c, _) :: _ => .service c (needs.flatMap (·.2)).eraseDups
  | [] =>
    match check7.find? fun c => cs.any fun q => q.2 == .fault c with
    | some c => fail c (maskOf fun i => cs.any fun q => q.1 == i && q.2 == .fault c)
    | none => k

/-- R183, R289: the lanes' findings for a word with a table operand. -/
def judge (x : Word) (cs : List (Nat × LaneChk)) (k : LRes) : LRes := judgeBy x.tabL cs k

/-- The row that check 7 found for a lane. -/
def rowIn (cs : List (Nat × LaneChk)) (i : Nat) : Option Row :=
  match cs.find? fun q => q.1 == i with
  | some (_, .row r) => some r
  | _ => none

/-- R182: the row that a lane names; `cached` is the free number whose bits choose the row-cache copy for a read, where there is
one. -/
def laneRow (s : State) (x : Word) (b : Bound) (cached : Option Nat) (off n i : Nat) : Except Cause Row :=
  let k := tabKey x b.t.desc.k128 i
  match cached with
  | some d => pickRow s (d / 2 ^ i % 2 == 1) x.E.W.coreNo b.v b.t (tabRid x.o) k off n
  | none => b.t.rowOf (tabRid x.o) k

/-- R182, R183: check 7 over the active lanes of a word that accesses n bytes at an offset of its rows. -/
def checkLanes (x : Word) (s : State) (b : Bound) (cached : Option Nat) (off n : Nat) (rt : Right) (reads : Bool) :
    List (Nat × LaneChk) :=
  (lanesOf x.act).map fun i =>
    (i, match laneRow s x b cached off n i with
        | .error c => .fault c
        | .ok r => laneAccess s x.E.world b r off n rt reads)

/-! ### Finding and reading -/

/-- R190, R191: the predicate form's predicate, or that of `KFIND`. -/
def tabPred (o : LOp) : BitVec 3 := o.aux.extractLsb' 0 3

/-- KFIND (R187). Of a found ARRAY row that spans two slabs, only the slab and the window of byte 0 are checked: DESIGN CHOICE
(entry 67). -/
def execKfind (o : LOp) (s : State) : Host.Outcome State Fault Refusal :=
  lWord s 0x80 o true fun x s =>
    tabWord x s false (fun _ => true) 0 1 x.failForm fun s b =>
      let find := fun i => match b.t.rowOf false (tabKey x b.t.desc.k128 i) with | .ok r => some r | .error _ => none
      let cs := (lanesOf x.act).map fun i =>
        (i, match find i with
            | none => LaneChk.none
            | some r => laneAccess s x.E.world b r 0 1 .rd false)
      judge x cs <| .done (x.mod s fun G => G.mapLanes fun i L =>
        if inMask x.act i then
          match find i with
          | some r => (L.w x.o.vd.toNat r.rid).wp (tabPred x.o) true
          | none => (L.w x.o.vd.toNat 0).wp (tabPred x.o) false
        else L)

/-- R188, R189: the bytes that a lane of a table load or store touches. -/
def tabBytes (o : LOp) : Nat := if o.ty = .none then 0 else if o.var = 0 then tyBytes o.ty else 8 * (o.var.toNat + 1)

/-- R188: the alignment of off. -/
def tabAlign (o : LOp) : Nat := if o.ty = .none then 1 else min (tabBytes o) 8

/-- R77: a cell's value and status, from its 40 bytes. -/
def cellVal (n : Nat) : Int := signedNat 312 n
def cellStatus (n : Nat) : Nat := n / 2 ^ 312 % 256

/-- R78: an f32 pattern as a cell: its value in the low 312 bits and the status bits it sets above. -/
def cellOf (v : Nat) : Nat :=
  match readF (fmtOf .f32) v with
  | .nan _ => 4 * 2 ^ 312
  | .inf n => (if n then 2 else 1) * 2 ^ 312
  | .fin y =>
    let m : Int := shiftBy y.m (y.e + 160)
    wrapInt 312 (if y.neg then -m else m)

/-- R78: a cell with another added. -/
def cellAdd (a b : Nat) : Nat := (a + b) % 2 ^ 312 + (cellStatus a ||| cellStatus b) * 2 ^ 312

/-- R78: a cell read as f32. -/
def cellRead (n : Nat) : Nat :=
  let f := fmtOf .f32
  let st := cellStatus n
  if st / 4 % 2 = 1 ∨ (st % 2 = 1 ∧ st / 2 % 2 = 1) then f.nan
  else if st % 2 = 1 then f.inf false
  else if st / 2 % 2 = 1 then f.inf true
  else (roundF f modePlain { exOfInt (cellVal n) with e := -160 }).1

/-- R188: one lane's read through the row cache, and the registers it loads. -/
def kldLane (x : Word) (b : Bound) (cs : List (Nat × LaneChk)) (s0 s : State) (i : Nat) : State :=
  match rowIn cs i with
  | none => s
  | some r =>
    let n := tabBytes x.o
    let q := readRow s0 s x.party b.v r (r.addr + tabOff x.o) n
    let vs := if n ≤ 8 then [widen (tySigned x.o.ty) n (bytesToNat q.1)] else bytesToWords (n / 8) q.1
    x.modLane q.2 i fun L => L.wMany x.o.vd.toNat vs

/-- R267: a lane has read n bytes of its row at home, as they now are. -/
def readHome (x : Word) (b : Bound) (cs : List (Nat × LaneChk)) (n : Nat) (s : State) (i : Nat) : State :=
  match rowIn cs i with
  | some r => s.readNow x.party (.rows b.v) (r.addr + tabOff x.o) n
  | none => s

/-- R372: a word's access at home to n bytes of its lanes' rows corrects the errors that it meets. -/
def correctLanes (x : Word) (b : Bound) (cs : List (Nat × LaneChk)) (off n : Nat) (s : State) : State :=
  (lanesOf x.act).foldl (fun s i =>
    match rowIn cs i with
    | some r => s.correct b.v (r.addr + off) n
    | none => s) s

/-- KLD (R188); the `.xc` form reads a cell at home. -/
def execKld (o : LOp) (s : State) : Host.Outcome State Fault Refusal :=
  lWord s 0x81 o true fun x s =>
    if x.o.var = 4 then
      tabWord x s false (fun b => b.t.desc.isCell (tabOff x.o)) 40 1 x.failForm fun s b =>
        let cs := checkLanes x s b none (tabOff x.o) 40 .rd true
        judge x cs <| .done (x.mod ((lanesOf x.act).foldl (readHome x b cs 40) (correctLanes x b cs (tabOff x.o) 40 s)) fun G =>
          x.setLanes G fun i =>
            match rowIn cs i with
            | some r => [BitVec.ofNat 64 (cellRead (bytesToNat (b.t.bytes (r.addr + tabOff x.o) 40)))]
            | none => [])
    else
      tabWord x s false (fun _ => true) (tabBytes x.o) (tabAlign x.o) x.failForm fun s b =>
        let d := s.draw
        let cs := checkLanes x d.2 b (some d.1) (tabOff x.o) (tabBytes x.o) .rd true
        judge x cs <| .done ((lanesOf x.act).foldl (kldLane x b cs d.2) d.2)

/-- KST (R189). -/
def execKst (o : LOp) (s : State) : Host.Outcome State Fault Refusal :=
  lWord s 0x82 o true fun x s =>
    tabWord x s true (fun _ => true) (tabBytes x.o) (tabAlign x.o) x.failForm fun s b =>
      let cs := checkLanes x s b none (tabOff x.o) (tabBytes x.o) .wr false
      judge x cs <| .done ((lanesOf x.act).foldl (fun s i =>
        match rowIn cs i with
        | some r => storeRow s x.party b.v (r.addr + tabOff x.o) (storeBytes x i)
        | none => s) s)

/-! ### Inserting and deleting -/

/-- R190, R191: AUX selects the predicate form. -/
def predForm (o : LOp) : Bool := o.aux.getLsbD 3

/-- R184, R281: a trap of kind P at lane i: the done mask holds the lanes that have completed, in this issue or before. -/
def Word.failP (x : Word) (c : Cause) (i : Nat) (done : LMask) (s : State) : LRes :=
  .part { cause := c, kind := .partial_, lStream := true, lanes := x.act &&& ~~~ done,
          done := done ||| skipMask x.G x.e x.p, split := some x.e, fpc := x.p.lpc,
          d0 := (tabSlot x.o).setWidth 64, d1 := x.a .n64 i } s

/-- R190: writes what an insert answers into a lane. -/
def kinsOut (x : Word) (rid : W64) (new : Bool) (L : Lane) : Lane :=
  let L := L.w x.o.vd.toNat rid
  if predForm x.o then L.wp (tabPred x.o) new else L

/-- R176, R301: the slabs that the inserts of some lanes need, in which the first finds no row slot that is present. -/
def kinsNeeds (x : Word) (s : State) (b : Bound) (is : List Nat) : List Need :=
  match s.table? b.v with
  | none => []
  | some t =>
    let keys := is.map fun i => tabKey x b.t.desc.k128 i
    let new := if t.desc.unique then (keys.filter fun k => (t.lookup k).isNone).eraseDups else keys
    (t.neededSlabs (min new.length (t.desc.rows - t.liveCount))).map (Need.slab b.v)

/-- R184, R190: the lanes of `KINS`, one at a time. Where one would need a row slot of an absent slab, no lane acts (R176, R183). -/
def kinsLanes (x : Word) (b : Bound) : List Nat → LMask → State → LRes
  | [], _, s => .done s
  | i :: is, done, s =>
    match insertRow s b.v (tabKey x b.t.desc.k128 i) with
    | .full c => x.failP c i done s
    | .absent => .service .rowAbsent (kinsNeeds x s b (i :: is))
    | .present rid =>
      if predForm x.o then kinsLanes x b is (done ||| (1#32 <<< i)) (x.modLane s i (kinsOut x rid false))
      else x.failP .dupKey i done s
    | .done rid addr s =>
      let s := if x.o.ty = .none then s else
        s.modTable b.v fun t => { t with rows := memWrite t.rows (addr + tabOff x.o) (storeBytes x i) }
      kinsLanes x b is (done ||| (1#32 <<< i)) (x.modLane s i (kinsOut x rid true))

/-- R177, R183: the ownership check of an insert, against the table's owner; the row slot is the engine's to choose. -/
def tableAccess (s : State) (world : BitVec 16) (b : Bound) (rt : Right) : LaneChk :=
  match windowCheck s (s.idOf b.v b.t) b.t.desc.owner world rt 0 (2 ^ 64 - 1) with
  | .service c n => .service c n
  | .fault c => .fault c
  | .ok => .none

/-- R171: an index that takes inserts and deletes. -/
def indexed (b : Bound) : Bool := !b.t.desc.isArray

/-- KINS (R190). -/
def execKins (o : LOp) (s : State) : Host.Outcome State Fault Refusal :=
  lWord s 0x83 o true fun x s =>
    tabWord x s true indexed (tabBytes x.o) (tabAlign x.o) x.failForm fun s b =>
      judge x ((lanesOf x.act).map fun i => (i, tableAccess s x.E.world b .wr)) <| kinsLanes x b (lanesOf x.act) 0 s

/-- R191: the entry and row that a lane of `KDEL` names at the engine's point. -/
def kdelRow (x : Word) (t : Table) (i : Nat) : Option ((Key × W64) × Row) :=
  if tabRid x.o then do
    let r ← t.liveRow ((tabKey x t.desc.k128 i).setWidth 64)
    let e ← t.entryOf r.rid
    pure (e, r)
  else do
    let k := tabKey x t.desc.k128 i
    let rid ← t.lookup k
    let r ← t.liveRow rid
    pure ((k, rid), r)

/-- R184, R191: the lanes of `KDEL`, one at a time; the issuing core reads its own delete (R277). -/
def kdelLanes (x : Word) (b : Bound) : List Nat → LMask → State → LRes
  | [], _, s => .done s
  | i :: is, done, s =>
    let step := fun s v => kdelLanes x b is (done ||| (1#32 <<< i))
      (if predForm x.o then x.modLane s i fun L => L.wp (tabPred x.o) v else s)
    match (s.table? b.v).bind fun t => kdelRow x t i with
    | some (e, r) => step (dropLines (deleteRow s b.v e r) x.E.W.coreNo b.v r.addr b.t.desc.width) true
    | none => if tabRid x.o then x.failP .staleRid i done s else step s false

/-- R183, R191: check 7 of `KDEL`: a row that is there is checked, a row id by its place alone. -/
def kdelCheck (x : Word) (s : State) (b : Bound) (i : Nat) : LaneChk :=
  let r : Option Row :=
    if tabRid x.o then
      let rid : W64 := (tabKey x b.t.desc.k128 i).setWidth 64
      (b.t.slotNo rid).map (b.t.rowAt rid)
    else ((kdelRow x b.t i).map (·.2))
  match r with
  | some r => laneAccess s x.E.world b r 0 1 .wr false
  | none => .none

/-- KDEL (R191). -/
def execKdel (o : LOp) (s : State) : Host.Outcome State Fault Refusal :=
  lWord s 0x84 o true fun x s =>
    tabWord x s true indexed 0 1 x.failForm fun s b =>
      judge x ((lanesOf x.act).map fun i => (i, kdelCheck x s b i)) <| kdelLanes x b (lanesOf x.act) 0 s

/-! ### Cursors -/

/-- R193: the cursor that AUX names. -/
def curNo (o : LOp) : Nat := (o.aux.extractLsb' 0 2).toNat

/-- A cursor of a lane. -/
def Lane.cursor (L : Lane) (c : Nat) : Option Cursor := L.cur.getD c none

/-- Sets a cursor of a lane. -/
def Lane.setCursor (L : Lane) (c : Nat) (v : Option Cursor) : Lane := { L with cur := L.cur.set c v }

/-- R193: an ORDERED table, whose bounds are register pairs where its keys are k128. A high bound in no lane register is
KIND_MISMATCH, as R182 says of the low one: DESIGN CHOICE (entry 67). -/
def seekOk (x : Word) (b : Bound) : Bool :=
  b.t.desc.kind == kindOrdered && (!b.t.desc.k128 || (match x.o.b with | .reg _ => true | _ => false))

/-- KSEEK (R193). CURSOR_FULL comes after the ownership check: DESIGN CHOICE (entry 67). -/
def execKseek (o : LOp) (s : State) : Host.Outcome State Fault Refusal :=
  lWord s 0x85 o true fun x s =>
    tabWord x s false (seekOk x) 0 1 x.failForm fun s b =>
      if b.t.desc.k128 && !isPair x x.o.b then x.failForm
      else
        let c := curNo x.o
        let full := maskOf fun i => inMask x.act i && ((x.G.lane i).cursor c).isSome
        judge x ((lanesOf x.act).map fun i => (i, tableAccess s x.E.world b .rd)) <|
          if full ≠ 0 then x.tabL .cursorFull full
          else .done (x.mod s fun G => G.mapLanes fun i L =>
            if inMask x.act i then
              let hi : Key := if b.t.desc.k128 then keyPair x i x.o.b else (x.b .n64 i).setWidth 128
              L.setCursor c (some { slot := tabSlot x.o, version := b.v, lo := tabKey x b.t.desc.k128 i, hi := hi, last := none })
            else L)

/-- R194: an entry lies after the last one returned: by key alone on a unique index. -/
def afterLast (t : Table) (c : Cursor) (e : Key × W64) : Bool :=
  match c.last with
  | none => decide (c.lo.toNat ≤ e.1.toNat)
  | some l => if t.desc.unique then decide (l.1.toNat < e.1.toNat) else entryLt l e

/-- R194: the entry that a step of a cursor returns. -/
def nextEntry (t : Table) (c : Cursor) : Option (Key × W64) :=
  t.entries.find? fun e => afterLast t c e && decide (e.1.toNat ≤ c.hi.toNat)

/-- R194: the version and the entry of a lane's step. -/
def stepOfLane (x : Word) (s : State) (i : Nat) : Option (Table × Cursor × Option (Key × W64)) := do
  let c ← (x.G.lane i).cursor (curNo x.o)
  let t ← s.table? c.version
  pure (t, c, nextEntry t c)

/-- R194: the registers that a step writes: the row id, and the key where it is asked for. -/
def stepRegs (o : LOp) (t : Table) (e : Key × W64) : List W64 :=
  e.2 :: (if o.var = 1 then
            e.1.setWidth 64 :: (if t.desc.k128 then [e.1.extractLsb' 64 64] else [])
          else [])

/-- R194: the ownership check of the row that a step returns. -/
def stepCheck (x : Word) (s : State) (i : Nat) : LaneChk :=
  match stepOfLane x s i with
  | some (t, c, some e) =>
    match t.liveRow e.2 with
    | some r => laneAccess s x.E.world { slot := c.slot, id := s.idOf c.version t, ro := false, v := c.version, t := t } r 0 1 .rd false
    | none => .none
  | _ => .none

/-- R194: `.wk` on a k128 table needs three registers. -/
def wideStep (x : Word) (s : State) : Bool :=
  x.o.var == 1 && decide (x.E.K.header.lregs < x.o.vd.toNat + 3) &&
  (lanesOf x.act).any fun i => (stepOfLane x s i).any fun q => q.1.desc.k128

/-- R194, R289: a trap of a row that a step returns reports the slot that the cursor was opened through, and the row's id. -/
def stepFail (x : Word) (s : State) (c : Cause) (m : LMask) : LRes :=
  match stepOfLane x s ((lowestLane m).getD 0) with
  | some (_, q, some e) => x.failL c m (q.slot.setWidth 64) e.2
  | _ => x.failL c m

/-- R194, R289: a cursor that is not open: the trap's slot and key, which nothing names, are free. -/
def shutFail (x : Word) (s : State) (m : LMask) : LRes :=
  let a := s.draw
  let b := a.2.draw
  .trapWith (x.info .cursorBad .lane m (BitVec.ofNat 64 a.1) (BitVec.ofNat 64 b.1)) b.2

/-- KNEXT (R194). -/
def execKnext (o : LOp) (s : State) : Host.Outcome State Fault Refusal :=
  lWord s 0x86 o true fun x s =>
    let c := curNo x.o
    let pd := x.o.aux.extractLsb' 2 3
    let shut := maskOf fun i => inMask x.act i && ((x.G.lane i).cursor c).isNone
    if wideStep x s then x.failForm
    else if shut ≠ 0 then shutFail x s shut
    else
      judgeBy (stepFail x s) ((lanesOf x.act).map fun i => (i, stepCheck x s i)) <| .done (x.mod s fun G => G.mapLanes fun i L =>
        if inMask x.act i then
          match stepOfLane x s i with
          | some (t, q, some e) =>
            ((L.wMany x.o.vd.toNat (stepRegs x.o t e)).wp pd true).setCursor c (some { q with last := some e })
          | _ => (L.w x.o.vd.toNat 0).wp pd false
        else L)

/-- KCLOSE (R195). -/
def execKclose (o : LOp) (s : State) : Host.Outcome State Fault Refusal :=
  lWord s 0x87 o true fun x s =>
    .done (x.mod s fun G => G.mapLanes fun i L => if inMask x.act i then L.setCursor (curNo x.o) none else L)

/-! ### Atomics on rows -/

/-- R197: the bytes of a unit of `KAT`. -/
def katBytes (o : LOp) : Nat := if o.var = 11 then 40 else atomBytes o

/-- R197, R264: the step of lane i at the home die: its read acquires and its write releases. -/
def katStep (x : Word) (b : Bound) (cs : List (Nat × LaneChk)) (s : State) (i : Nat) : State :=
  match rowIn cs i with
  | none => s
  | some r =>
    let n := katBytes x.o
    let a := r.addr + tabOff x.o
    let old := match s.table? b.v with | some t => bytesToNat (t.bytes a n) | none => 0
    let s := s.readNow x.party (.rows b.v) a n x.acqAt
    if x.o.var = 11 then
      storeRow s x.party b.v a (natToBytes 40 (cellAdd old (cellOf (subElem 32 (x.b .f32 i) 0)))) true x.relAt
    else
      let new := atomNew x.o.var.toNat x.o.ty old (atomArg x i x.o.b) (atomArg x i x.o.c)
      let s := storeRow s x.party b.v a (natToBytes n new) true x.relAt
      x.modLane s i fun L => L.wMany x.o.vd.toNat (atomRegs x.o old)

/-- R180: an acquire of the word at `.clu` or wider drops the core's row-cache lines. -/
def Word.dropLines (x : Word) (s : State) : State :=
  if x.act = 0 then s else dropFor s (wordOrder x.o) (wordScope x.o) x.E.W.coreNo

/-- KAT (R197). -/
def execKat (o : LOp) (s : State) : Host.Outcome State Fault Refusal :=
  lWord s 0x88 o true fun x s =>
    let cell := x.o.var == 11
    let n := katBytes x.o
    tabWord x s true (fun b => !cell || b.t.desc.isCell (tabOff x.o)) n (if cell then 1 else n) (x.tabW .atomAlign) fun s b =>
      let cs := checkLanes x s b none (tabOff x.o) n .at_ true
      judge x cs <| .done ((lanesOf x.act).foldl (katStep x b cs)
        (x.dropLines (correctLanes x b cs (tabOff x.o) n s)))

end Sys2Proof.Machine
end

