-- ==== Sys2Proof/Machine/Jobs.lean ====
section
/-! DEFINITION. What the engines do while a job runs: its start, each sector, element and line, counter adds, completion, and the
failures they record (R227, R229, R232 to R245). -/

namespace Sys2Proof.Machine

/-! ### Start -/

/-- R237: the index vector of a `GATHER`, read whole. -/
def gatherKeys (s : State) (p : Party) (w : Nat) (c : GatherD) (t : Table) : List Key × State :=
  let n := c.entryBytes t
  let q := readScratch s p w c.ivec (c.count * n)
  ((List.range c.count).map fun i => BitVec.ofNat 128 (bytesToNat ((q.1.drop (i * n)).take n)), q.2)

/-- The table slot of a job; none where it touches no table. -/
def Job.slot (j : Job) : Option (BitVec 6) :=
  let d := ((j.slices.head?).map (·.d)).getD []
  match j.kind with
  | .copy _ _ => if (copyD d).mode = 2 then none else some (copyD d).slot
  | .gather _ => some (gatherD d).slot
  | .bload => some (bloadD d).slot

/-- The table slots that a job resolves: its table's and its counters'. -/
def Job.tabSlots (j : Job) : List (BitVec 6) :=
  j.slot.toList ++ j.slices.filterMap fun q => match q.ctr with | .table slot _ _ => some slot | .scratch _ => none

/-- R176, R178: descriptors that a job needs and firmware must fetch first: its table's and its counters'. -/
def Job.lacks (s : State) (La : Launch) (j : Job) : List Need :=
  (j.tabSlots.filterMap fun slot => match slotOf s La slot with | .absent id => some (.descriptor id) | _ => none).eraseDups

/-- R178, R278: a job resolves its descriptors: each of its slices acquires from the exchanges that installed them. -/
def State.resolveJob (s : State) (La : Launch) (n : Nat) (j : Job) : State :=
  (List.range j.slices.length).foldl (fun s k => j.tabSlots.foldl (fun s slot => s.resolve La (j.party n k) slot) s) s

/-- R178, R232, R237, R242: a job that may start does, after those that it overlaps: it resolves its descriptor and its counters, and
reads its index vector. While firmware fetches a descriptor that it needs, it waits. -/
def startJob (s : State) (n : Nat) (j : Job) : State :=
  match envAt s j.wg (((j.slices.head?).map (·.group)).getD 0) with
  | none => s
  | some E =>
    if !(j.lacks s E.La).isEmpty then driverServes s (j.lacks s E.La) else
    let b := j.slot.bind fun slot => match slotOf s E.La slot with | .bound b => some b | _ => none
    let s := (s.afterJobs n j).resolveJob E.La n j
    let keys : List Key × State := match j.kind, b with
      | .gather _, some b => gatherKeys s (j.party n 0) E.w (gatherD (((j.slices.head?).map (·.d)).getD [])) b.t
      | _, _ => ([], s)
    keys.2.modJob n fun j =>
      { j with state := .started, version := b.map (·.v), keys := keys.1
               slices := j.slices.map fun q => { q with ctr := q.ctr.resolve s E.La } }

/-- A `COPY` job. -/
def JobKind.isCopy : JobKind → Bool
  | .copy _ _ => true
  | _ => false

/-- COPY_JOB_START (R232, R242): every live group has brought its slice, and no earlier job holds it back. -/
def execCopyJobStart (job : Nat) (s : State) : Host.Outcome State Fault Refusal :=
  match s.jobs[job]? with
  | none => .next s
  | some j => event s (j.kind.isCopy && j.state == .forming && j.gathered s && footFree s job j) fun s => startJob s job j

/-- R242: a `GATHER` or `BLOAD` job starts with its first element or line. -/
def begun (s : State) (n : Nat) (j : Job) : State := if j.state == .forming && footFree s n j then startJob s n j else s

/-! ### Failures -/

/-- The engine tag of a job (R241). -/
def JobKind.tag : JobKind → BitVec 8
  | .copy t _ => t
  | .gather t => t
  | .bload => 0

/-- R288: the source code of a job's entries. -/
def JobKind.src : JobKind → BitVec 3
  | .copy _ _ => 1
  | .gather _ => 2
  | .bload => 3

/-- R288: a record entry of an engine. -/
def engineEntry (c : Cause) (src : BitVec 3) (tag : BitVec 8) (slot : BitVec 6) (what more : Nat) : ElemEntry :=
  { d0 := 0#31 ++ tag ++ slot ++ 0#8 ++ src ++ causeCode c, d1 := BitVec.ofNat 64 what, d2 := BitVec.ofNat 64 more }

/-- R241: `more` sectors from table byte `what` follow those of an entry in one slab. -/
def ElemEntry.continues (e : ElemEntry) (f : ElemEntry) : Bool :=
  e.d0 == f.d0 && f.d1.toNat == e.d1.toNat + 32 * e.d2.toNat && e.d1.toNat / 65536 == f.d1.toNat / 65536

/-- R241: two entries of consecutive sectors as one. -/
def ElemEntry.join (a b : ElemEntry) : Option ElemEntry :=
  if a.continues b then some { a with d2 := a.d2 + b.d2 }
  else if b.continues a then some { b with d2 := b.d2 + a.d2 }
  else none

/-- R241: an entry joined with those of a list that its sectors follow or precede, without them; fuel counts the entries. -/
def joinEntries (own : List ElemEntry) : Nat → List ElemEntry → ElemEntry → List ElemEntry × ElemEntry
  | 0, es, e => (es, e)
  | fuel + 1, es, e =>
    match es.findIdx? fun a => own.contains a && (a.join e).isSome with
    | none => (es, e)
    | some k => joinEntries own fuel (es.eraseIdx k) (((es[k]?).bind fun a => a.join e).getD e)

/-- R241: failed sectors of job n go into the record of group g: with the job's entries there that they are consecutive to, as one
entry. -/
def recordSectors (s : State) (n : Nat) (j : Job) (g : Nat) (e : ElemEntry) : State :=
  match s.group? j.wg g with
  | none => s
  | some G =>
    let q := joinEntries j.bad (G.T.elems.length + 1) G.T.elems e
    let s := s.modGroup j.wg g fun G => { G with T := { G.T with elems := q.1 } }
    (recordElem s j.wg g q.2).modJob n fun j => { j with bad := q.2 :: j.bad }

/-- R177, R241, R372: what an engine finds at n bytes of its table: nothing wrong, a cause, or an absent slab or a window under
repair, on which the job waits. -/
def engineCheck (s : State) (v : Nat) (t : Table) (world : BitVec 16) (rt : Right) (addr n : Nat) (reads : Bool) : Check :=
  match accessCheck s v t world rt addr n with
  | .ok => if reads && t.badData addr n then .fault .eccUncorr else .ok
  | c => c

/-! ### Counting -/

/-- A unit has been handled, and its sectors are owed to a counter. -/
def Job.handled (j : Job) (u : JobUnit) (count : Nat) : Job :=
  let here := fun (o : Owed) => o.slice == u.slice && o.recv == u.recv
  let had := ((j.owed.find? here).map (·.n)).getD 0
  { j with done := u :: j.done
           owed := if count = 0 then j.owed
                   else { slice := u.slice, recv := u.recv, n := had + count } :: j.owed.filter fun o => !here o }

/-- R229: a failed add: its record entry stands for the sectors it should have added. -/
def failAdd (s : State) (j : Job) (q : Slice) (slot : BitVec 6) (c : Cause) (n : Nat) : State :=
  recordElem s j.wg q.group { engineEntry c 4 j.kind.tag slot 0 n with d1 := q.d.getD 3 0 }

/-- R227: n of the sectors that a job owes to a counter are added. -/
def payOwed (s : State) (job slice recv n : Nat) : State :=
  let here := fun (o : Owed) => o.slice == slice && o.recv == recv
  s.modJob job fun j =>
    { j with owed := (j.owed.filter fun o => !here o) ++
        ((j.owed.filter here).filter fun o => decide (n < o.n)).map fun o => { o with n := o.n - n } }

/-- The workgroup of a launch with a linear index. -/
def wgOfIndex (s : State) (launch : BitVec 32) (w : Nat) : Option Nat :=
  s.wgs.findIdx? fun W => W.launch == launch && W.w == w && !W.child

/-- R235: where a receiver stands: over, out, or resident as a workgroup. -/
inductive Receiver where
  | ended | away | here (w : Nat)
  deriving DecidableEq, Repr

/-- R235, R302: the workgroup that receiver r of a slice's job is. One that a service fault is taking off its core still has its
allotment, and a job writes its own workgroup's wherever that is. -/
def receiverOf (s : State) (E : Env) (c : CopyD) (r : Nat) : Receiver :=
  if !c.mc then .here E.w
  else
    let i := receiverIndex E.La E.W r
    if E.La.done.contains i then .ended
    else
      match wgOfIndex s E.La.handle i with
      | none => .away
      | some w =>
        match (s.wgs[w]?).map Wg.place with
        | some .active | some .leaving | some .shadow => .here w
        | some .completed => .ended
        | _ => if w = E.w then .here w else .away

/-- R227: a scratchpad counter of a workgroup grows; whoever sleeps on it looks again. -/
def addScratch (s : State) (p : Party) (rel : Option ScopeAt) (w off n : Nat) : State :=
  match s.wgs[w]? with
  | none => s
  | some W => writeScratch s p w off (natToBytes 8 (memNat W.scratch off 8 + n)) true rel

/-- COUNTER_ADD (R227, R229): n of the sectors owed to a counter are added in one indivisible add, a release at the counter's declared
scope (R264); a failed add is recorded. -/
def execCounterAdd (job slice recv n : Nat) (s : State) : Host.Outcome State Fault Refusal :=
  match s.jobs[job]? with
  | none => .next s
  | some j =>
    match j.slices[slice]?, j.owed.find? fun o => o.slice == slice && o.recv == recv with
    | some q, some o =>
      match envAt s j.wg q.group with
      | none => .next s
      | some E =>
        let paid := payOwed s job slice recv n
        event s (j.state == .started && decide (0 < n) && decide (n ≤ o.n)) fun s =>
          let at_ := some (E.scopeAt (locScope (q.d.getD 3 0)).toNat)
          match q.ctr with
          | .scratch off =>
            let r := if j.kind.isCopy then receiverOf s E (copyD q.d) recv else .here j.wg
            match r with
            | .here w => addScratch paid (j.party job slice) at_ w off n
            | .ended => paid
            | .away => s
          | .table slot v addr =>
            match s.table? v with
            | none => s
            | some t =>
              match engineCheck s v t E.world .at_ addr 8 true with
              | .service _ ns => driverServes s ns
              | .fault c => failAdd paid j q slot c n
              | .ok => addDword (paid.correct v addr 8) (j.party job slice).who at_ v addr n
    | _, _ => .next s

/-! ### COPY -/

/-- R233, R235: the rows of a slice that a receiver takes: its own, then the common ones. -/
def CopyD.rowsPer (c : CopyD) : Nat := c.rows + c.crows

/-- R233, R235: the table byte of a sector. -/
def CopyD.tableAt (c : CopyD) (width recv row sec : Nat) : Nat :=
  c.tofs + (if row < c.rows then recv * c.rows + row else c.receivers * c.rows + (row - c.rows)) * width + 32 * sec

/-- R233, R235: the scratchpad byte of a sector on the side of sofs. -/
def CopyD.scratchAt (c : CopyD) (recv row sec : Nat) : Nat :=
  (if row < c.rows then c.sofs + recv * (if c.mc then c.stride else 0) + row * c.pitch
   else c.cdst + (row - c.rows) * c.pitch) + 32 * sec

/-- R233: a sector of a slice. -/
def CopyD.hasSector (c : CopyD) (recv row sec : Nat) : Bool :=
  decide (recv < c.receivers) && decide (row < c.rowsPer) && decide (sec < c.rbytes / 32)

/-- R233, R241: a sector that has failed is handled, and recorded. -/
def sectorFails (s : State) (n : Nat) (j : Job) (q : Slice) (u : JobUnit) (a : Nat) (c : Cause) : State :=
  recordSectors (s.modJob n fun j => j.handled u 0) n j q.group (engineEntry c j.kind.src j.kind.tag (copyD q.d).slot a 1)

/-- R233, R234: a sector between a table and the allotment of workgroup w. -/
def tableSector (s : State) (n : Nat) (j : Job) (q : Slice) (E : Env) (u : JobUnit) (w v : Nat) (t : Table) : State :=
  let c := copyD q.d
  let p := j.party n u.slice
  let a := c.tableAt t.desc.width u.recv u.row u.sec
  let b := c.scratchAt u.recv u.row u.sec
  let handle := fun (s : State) (k : Nat) => s.modJob n fun j => j.handled u k
  if t.desc.rows * t.desc.width < a + 32 then handle s 0
  else
    match engineCheck s v t E.world (if c.mode = 1 then .wr else .rd) a 32 (c.mode == 0) with
    | .service _ ns => driverServes s ns
    | .fault e => sectorFails s n j q u a e
    | .ok =>
      if c.mode = 0 then
        let r := readCached s p v (t.arrayRow 0) 1 a 32
        handle (writeScratch r.2 p w b r.1) 1
      else
        let r := readScratch s p w b 32
        handle (storeRowDrop r.2 p v a r.1) 1

/-- COPY_SECTOR (R233 to R235): one sector is moved, clipped, skipped or recorded. -/
def execCopySector (job slice recv row sec : Nat) (s : State) : Host.Outcome State Fault Refusal :=
  match s.jobs[job]? with
  | none => .next s
  | some j =>
    match j.slices[slice]? with
    | none => .next s
    | some q =>
      match envAt s j.wg q.group with
      | none => .next s
      | some E =>
        let c := copyD q.d
        let u : JobUnit := { slice := slice, recv := recv, row := row, sec := sec }
        event s (j.kind.isCopy && j.state == .started && c.hasSector recv row sec && !j.done.contains u) fun s =>
          match receiverOf s E c recv with
          | .away => s
          | .ended => s.modJob job fun j => j.handled u 0
          | .here w =>
            if c.mode = 2 then
              let from_ := c.tofs + row * c.stride + 32 * sec
              let r := readScratch s (j.party job slice) w from_ 32
              (writeScratch r.2 (j.party job slice) w (c.scratchAt recv row sec) r.1).modJob job fun j => j.handled u 1
            else
              match j.version.bind fun v => (s.table? v).map fun t => (v, t) with
              | none => s
              | some p => tableSector s job j q E u w p.1 p.2

/-! ### GATHER -/

/-- R76: a coded value: code × scale + offset, rounded once. -/
def decodeCode (f : Fmt) (header : List Byte) (code : Nat) : Nat :=
  let half := fun (bs : List Byte) => readF (fmtOf .f16) (bytesToNat bs)
  (fmaF f modePlain false (.fin (exOfInt code)) (half (header.take 2)) (half ((header.drop 2).take 2))).1

/-- R76, R237: the bytes that a `.dq` gather makes of codes first to first + n - 1 of a range that begins with `span`. -/
def decodeRange (c : GatherD) (fmt : Nat) (span : List Byte) : List Byte :=
  let header := span.take 4
  let f := fmtOf (if c.mode = 1 then .bf16 else .f32)
  (List.range c.n).flatMap fun i =>
    let k := c.first + i
    let code := if fmt = 0 then (span.getD (4 + k) 0).toNat
      else (span.getD (4 + k / 2) 0).toNat / 16 ^ (k % 2) % 16
    natToBytes (f.bits / 8) (decodeCode f header code)

/-- R236: bytes of a row that an element touches: the slice, or the range down to its last code. -/
def gatherSpan (c : GatherD) (fmt : Nat) : Nat :=
  if c.mode = 0 then c.n else 4 + (if fmt = 0 then c.first + c.n else (c.first + c.n + 1) / 2)

/-- R237: what becomes of an element. -/
inductive GatherRes where
  | deliver (addr : Nat)
  | miss
  | fault (c : Cause)
  | waits (ns : List Need)
  deriving DecidableEq, Repr

/-- R174, R236: the codes of a `.dq` gather lie in a coded range of the table. -/
def GatherD.coded (c : GatherD) (d : Desc) : Bool := (d.codedAt c.off).any fun q => decide (c.first + c.n ≤ q.2)

/-- R237: resolves and checks an element. -/
def gatherOne (s : State) (E : Env) (c : GatherD) (v : Nat) (t : Table) (k : Key) : GatherRes :=
  let fmt := ((t.desc.codedAt c.off).map (·.1)).getD 0
  match t.rowOf (c.rids && !t.desc.isArray) k with
  | .error .keyAbsent => .miss
  | .error e => .fault e
  | .ok r =>
    if c.mode ≠ 0 ∧ !c.coded t.desc then .fault .kindMismatch else
    match engineCheck s v t E.world .rd (r.addr + c.off) (gatherSpan c fmt) true with
    | .service _ ns => .waits ns
    | .fault e => .fault e
    | .ok =>
      if c.mode ≠ 0 ∧ t.sealed.isSome then .fault .kindMismatch else .deliver (r.addr + c.off)

/-- R237, R267, R372: the bytes that an element delivers from a table byte on, read at home; the errors in them are corrected. -/
def gatherBytes (s : State) (p : Party) (c : GatherD) (v : Nat) (t : Table) (addr : Nat) : List Byte × State :=
  let fmt := ((t.desc.codedAt c.off).map (·.1)).getD 0
  let n := gatherSpan c fmt
  let q := (s.correct v addr n).look p (.rows v) addr (t.bytes addr n)
  (if c.mode = 0 then q.1 else decodeRange c fmt q.1, q.2)

/-- R238: writes an element's status, and its bytes where it has any. -/
def gatherPut (s : State) (p : Party) (w : Nat) (c : GatherD) (i : Nat) (status : BitVec 8) (bytes : List Byte) : State :=
  writeScratch (writeScratch s p w (c.dst + i * c.out) bytes) p w (c.stat + i) [status]

/-- R237, R238, R241: element i of a `GATHER` names no row, and is zero-filled; or it has failed, and is recorded. -/
def elementFails (s : State) (n : Nat) (j : Job) (q : Slice) (i : Nat) (e : Cause) : State :=
  let c := gatherD q.d
  let put := gatherPut s (j.party n 0) j.wg c i
  let handle := fun (s : State) (k : Nat) => s.modJob n fun j => j.handled { slice := 0, recv := 0, row := i, sec := 0 } k
  if e = .keyAbsent then handle (put 0x01 (List.replicate c.out 0)) (c.out / 32)
  else recordElem (handle (put (causeCode e) []) 0) j.wg q.group (engineEntry e 2 j.kind.tag c.slot i (c.out / 32))

/-- GATHER_ELEMENT (R237, R238): the job starts with its first element; one element is delivered, zero-filled or recorded. -/
def execGatherElement (job i : Nat) (s : State) : Host.Outcome State Fault Refusal :=
  match s.jobs[job]? with
  | none => .next s
  | some j0 =>
    let s := match j0.kind with | .gather _ => begun s job j0 | _ => s
    match s.jobs[job]? with
    | none => .next s
    | some j =>
      match j.kind, j.slices.head? with
      | .gather _, some q =>
        let c := gatherD q.d
        let u : JobUnit := { slice := 0, recv := 0, row := i, sec := 0 }
        match envAt s j.wg q.group, j.version.bind fun v => (s.table? v).map fun t => (v, t) with
        | some E, some (v, t) =>
          event s (j.state == .started && decide (i < c.count) && !j.done.contains u) fun s =>
            match gatherOne s E c v t (j.keys.getD i 0) with
            | .waits ns => driverServes s ns
            | .deliver addr =>
              let q := gatherBytes s (j.party job 0) c v t addr
              (gatherPut q.2 (j.party job 0) j.wg c i 0x00 q.1).modJob job fun j => j.handled u (c.out / 32)
            | .miss => elementFails s job j q i .keyAbsent
            | .fault e => elementFails s job j q i e
        | _, _ => .next s
      | _, _ => .next s

/-! ### BLOAD -/

/-- R240, R349: a unit of a sealed table as the load port decrypts it. -/
def unsealed (s : State) (t : Table) (unit : Nat) (bytes : List Byte) : List Byte :=
  match t.sealed with
  | none => bytes
  | some r => Config.xtsOpen (sealKey s t.desc.owner r) (sealTweak r unit) bytes

/-- R240, R246: the bytes of a B-line for a world: zero where the line is another world's (log entry 61). -/
def Core.lineOf (C : Core) (line : Nat) (world : BitVec 16) : List Byte :=
  ((C.lines.find? fun l => l.line == line && l.world == world).map (·.bytes)).getD (List.replicate 1024 0)

/-- R240: writes sectors of a B-line: those of `keep` new, the others as they were. -/
def writeLine (C : Core) (line : Nat) (world : BitVec 16) (bytes : List Byte) (keep : Nat → Bool) : Core :=
  let old := C.lineOf line world
  let new := (List.range 1024).map fun b => if keep (b / 32) then bytes.getD b 0 else old.getD b 0
  { C with lines := { line := line, world := world, bytes := new } :: C.lines.filter fun l => l.line != line }

/-- R246: a quarter operation in flight still reads a line that another world's job would write. -/
def lineHeld (s : State) (core line : Nat) (world : BitVec 16) : Bool :=
  (s.core core).mq.any fun q =>
    decide (q.line ≤ line) && decide (line < q.line + bLines q.fb) && (envAt s q.wg q.group).any fun E => E.world != world

/-- R241: the runs of consecutive sectors with one cause, first sector and length. -/
def faultRuns : List (Nat × Cause) → List (Nat × Cause × Nat)
  | [] => []
  | (k, c) :: rest =>
    match faultRuns rest with
    | (k', c', n) :: more => if k' = k + 1 ∧ c' = c then (k, c, n + 1) :: more else (k, c, 1) :: (k', c', n) :: more
    | [] => [(k, c, 1)]

/-- R241: runs of sectors of line k of a job are recorded, each with its cause. -/
def recordRuns (s : State) (n k : Nat) (q : Slice) (runs : List (Nat × Cause × Nat)) : State :=
  let c := bloadD q.d
  runs.foldl (fun s r =>
    match s.jobs[n]? with
    | some j => recordSectors s n j q.group (engineEntry r.2.1 3 0 c.slot (c.tofs + 1024 * k + 32 * r.1) r.2.2)
    | none => s) s

/-- R240, R241: writes line j of a job, and records its failed sectors, `failed` among them. A line of a sealed table with a failed sector is not
written at all. -/
def loadLine (s : State) (n : Nat) (j : Job) (q : Slice) (E : Env) (v : Nat) (t : Table) (k : Nat)
    (failed : List (Nat × Cause) := []) : State :=
  let c := bloadD q.d
  let a := c.tofs + 1024 * k
  let checks := (List.range 32).map fun z =>
    (z, match lookupNat z failed with | some e => Check.fault e | none => engineCheck s v t E.world .rd (a + 32 * z) 32 true)
  let needs := checks.flatMap fun p => match p.2 with | .service _ ns => ns | _ => []
  if !needs.isEmpty then driverServes s needs
  else
    let bad := checks.filterMap fun p => match p.2 with | .fault e => some (p.1, e) | _ => none
    let whole := t.sealed.isSome && !bad.isEmpty
    let good := fun z => !whole && !bad.any fun p => p.1 == z
    let read := (s.correct v a 1024).look (j.party n 0) (.rows v) a (t.bytes a 1024)
    let bytes := unsealed s t (a / 1024) read.1
    let s := read.2
    let s := if (List.range 32).any good then
        let line := c.line0 + k
        let was := (s.core j.core).lineOf line E.world
        let s := (List.range 32).foldl (fun (s : State) z =>
          if good z then s.note (j.party n 0) (.lines j.core) (line * 1024 + 32 * z) 32 fun a => was.getD (a - line * 1024) 0
          else s) s
        s.setCore j.core (writeLine (s.core j.core) line E.world bytes good) else s
    let s := s.modJob n fun j => j.handled { slice := 0, recv := 0, row := k, sec := 0 } ((List.range 32).filter good).length
    let runs := match bad, whole with
      | p :: _, true => [(p.1, p.2, 32)]
      | _, _ => faultRuns bad
    recordRuns s n k q runs

/-- BLOAD_LINE (R240): the job starts with its first line; one B-line is written and tagged. -/
def execBloadLine (job j : Nat) (s : State) : Host.Outcome State Fault Refusal :=
  match s.jobs[job]? with
  | none => .next s
  | some b0 =>
    let s := match b0.kind with | .bload => begun s job b0 | _ => s
    match s.jobs[job]? with
    | none => .next s
    | some b =>
      match b.kind, b.slices.head? with
      | .bload, some q =>
        let c := bloadD q.d
        match envAt s b.wg q.group, b.version.bind fun v => (s.table? v).map fun t => (v, t) with
        | some E, some (v, t) =>
          event s (b.state == .started && decide (j < c.lines)
              && !b.done.contains { slice := 0, recv := 0, row := j, sec := 0 }
              && !lineHeld s b.core (c.line0 + j) E.world) fun s => loadLine s job b q E v t j
        | _, _ => .next s
      | _, _ => .next s

/-! ### Completion -/

/-- R225: how many units a job has. -/
def Job.units (j : Job) : Nat :=
  match j.kind with
  | .copy _ _ => j.slices.foldl (fun a q => a + (copyD q.d).receivers * (copyD q.d).rowsPer * ((copyD q.d).rbytes / 32)) 0
  | .gather _ => (gatherD (((j.slices.head?).map (·.d)).getD [])).count
  | .bload => (bloadD (((j.slices.head?).map (·.d)).getD [])).lines

/-- JOB_COMPLETE (R225): every unit handled and every add made, the job leaves its slot. -/
def execJobComplete (job : Nat) (s : State) : Host.Outcome State Fault Refusal :=
  match s.jobs[job]? with
  | none => .next s
  | some j =>
    event s (j.state == .started && decide (j.done.length = j.units) && j.owed.isEmpty) fun s =>
      s.modJob job fun j => { j with state := .complete, done := [], keys := [] }

/-! ### CWAIT -/

/-- R230: the counter at home. -/
def counterValue (s : State) (w : Nat) : Counter → W64
  | .scratch off => match s.wgs[w]? with | some W => bytesToWord (W.bytes off 8) | none => 0
  | .table _ v addr => match s.table? v with | some t => bytesToWord (t.bytes addr 8) | none => 0

/-- R177, R230: the check of a counter's read. -/
def counterCheck (s : State) (E : Env) (l : W64) (c : Counter) (k : SRes) : SRes :=
  match c with
  | .scratch _ => k
  | .table slot v addr =>
    match s.table? v with
    | none => k
    | some t =>
      match engineCheck s v t E.world .rd addr 8 true with
      | .service e ns => .service e ns
      | .fault e => tableFail e slot (BitVec.ofNat 64 (locKey l))
      | .ok => k

/-- R230, R267: what the read that completes a `CWAIT` orders: an acquire where the word names the counter's declared scope, nothing
otherwise. -/
def cwaitSeen (s : State) (E : Env) (o : Order) (sc : Scope) (l : W64) (c : Counter) : State :=
  let s := match c with
    | .scratch _ => s
    | .table _ v addr => s.correct v addr 8
  let acq := if scopeCode sc = locScope l then E.half acquires o (scopeCode sc).toNat else none
  let s := if scopeCode sc = locScope l then dropFor s o (scopeCode sc).toNat E.W.coreNo else s
  match c with
  | .scratch off => s.readNow E.party (.scratch E.w) off 8 acq
  | .table slot v addr =>
    ((s.resolve E.La E.party slot).readNow E.party (.rows v) addr 8 acq).tell E.C.tenant E.world v addr 8 .load

/-- R230: reads the counter: the wait completes where it has reached or passed the target, wrap-safe; else it sleeps. -/
def cwaitTry (s : State) (E : Env) (reg : BitVec 6) (o : Order) (sc : Scope) (l target : W64) : SRes :=
  locateCounter s E l reg { adds := false, clu := true, onlyClu := false } fun c =>
    counterCheck s E l c <|
      if (counterValue s E.w c - target).toNat < 2 ^ 63 then
        .done (cwaitSeen s E o sc l c)
      else .wait (.cwait l target) s

/-- CWAIT (R230). -/
def execCwait (a b : BitVec 6) (o : Order) (sc : Scope) (s : State) : Host.Outcome State Fault Refusal :=
  sWord s fun E => sFencePoint s E fun s => cwaitTry s E a o sc (E.G.rS a) (E.G.rS b)

/-- CWAIT_WAKE (R230): a sleeping `CWAIT` looks at its counter again; an entry in the record ends it with the trap. -/
def execCwaitWake (wg g : Nat) (s : State) : Host.Outcome State Fault Refusal :=
  groupEvent s wg g (fun _ => true) fun E s =>
    match E.G.S.stall with
    | .cwait l target =>
      if !E.G.T.handler && !E.G.T.elems.isEmpty then takeTrap s wg g { cause := .elemFault, kind := .deferred }
      else
        match decodeS (E.K.scode.getD E.G.S.pc.toNat 0) with
        | .ok (.cwait a _ o sc) => applyS s E (cwaitTry s E a o sc l target)
        | _ => s
    | _ => s

end Sys2Proof.Machine
end

