-- ==== Sys2Proof/Machine/Ordering.lean ====
section
/-! DEFINITION. Fences and barriers: FENCE, FENCEL, BAR and the departure from a barrier (R202, R268 to R271). -/

namespace Sys2Proof.Machine

/-! ### Fences -/

/-- R269: the jobs of the group that have started and are in flight, by their place in the list. -/
def startedJobs (s : State) (E : Env) : List Nat :=
  (List.range s.jobs.length).filter fun n =>
    (s.jobs[n]?).any fun j => j.wg == E.w && j.state == .started && j.slices.any fun q => q.group == E.g

/-- R269: some job of a list is not complete. -/
def jobsPending (s : State) (ns : List Nat) : Bool := ns.any fun n => (s.jobs[n]?).any fun j => j.state != .complete

/-- R269: the jobs of the group that have started, complete or not. -/
def begunJobs (s : State) (E : Env) : List Nat :=
  (List.range s.jobs.length).filter fun n =>
    (s.jobs[n]?).any fun j => j.wg == E.w && j.state != .forming && j.slices.any fun q => q.group == E.g

/-- R269: the earlier set of a `FENCE` holds what the group's slices of some jobs have done. -/
def State.fenceJobs (s : State) (E : Env) (ns : List Nat) : State :=
  s.passIf (fun h => match h with
    | .slice n k => ns.contains n && ((s.jobs[n]?).bind fun j => j.slices[k]?).any fun q => q.group == E.g
    | _ => false) (.fence E.w E.g) How.past

/-- R269: the halves of a `FENCE`: the later set is the S-stream's, the earlier set that and the jobs'. -/
def fenceS (s : State) (E : Env) (o : Order) (code : Nat) : State :=
  let s := s.pass E.who (.fence E.w E.g) How.past
  let s := fencedAt s E (.fence E.w E.g) o code
  let keep : How → Option How := fun h => match h with
    | .later c => if releases o then some (.later c) else none
    | .order (some c) => if acquires o && c == E.scopeAt code then some (.order (some c)) else none
    | _ => none
  (s.pass (.fence E.w E.g) E.who keep).forgets (.fence E.w E.g)

/-- FENCE (R269): its fence point is passed once; its release half then holds for the jobs that had started when it was, and a
re-check goes on from there. -/
def execFence (o : Order) (sc : Scope) (s : State) : Host.Outcome State Fault Refusal :=
  sWord s fun E =>
    let code := (scopeCode sc).toNat
    match E.G.S.stall with
    | .release ns => if jobsPending s ns then .wait (.release ns) s else .done (fenceS (s.fenceJobs E ns) E o code)
    | _ => sFencePoint s E fun s =>
      let ns := startedJobs s E
      let s := s.fenceJobs E (begunJobs s E)
      if releases o && !ns.isEmpty then .wait (.release ns) s else .done (fenceS s E o code)

/-- R131, R202: a reduction whose `SCAT` lies in the split's program-order past is in flight. -/
def splitReds (s : State) (x : Word) : Bool :=
  s.reds.any fun r => r.wg == x.E.w && r.group == x.E.g && r.blockSeq == x.G.L.blockSeq && r.issuer &&& x.p.mask != 0

/-- R202, R268: the reductions that a `FENCEL` covers come before it. -/
def Word.redsPast (x : Word) (s : State) : State :=
  s.pass (.reds x.E.w x.E.g x.G.L.blockSeq x.p.mask) x.who How.ordered

/-- FENCEL (R202, R270). -/
def execFencel (o : LOp) (s : State) : Host.Outcome State Fault Refusal :=
  lWord s 0xC1 o true fun x s =>
    if splitReds s x then .wait .fence
    else if !x.G.T.handler && !x.G.T.elems.isEmpty then
      .trap { x.info .elemFault .deferred 0 with lanes := 0 }
    else .done (fencedAt (x.redsPast s) x.E x.who (wordOrder x.o) (wordScope x.o))

/-! ### Barriers -/

/-- The groups of a workgroup that have not ended. -/
def Wg.liveGroups (W : Wg) : List Nat :=
  (List.range W.groups.length).filter fun g => (W.groups[g]?).any fun G => G.fin == .running

/-- A barrier of a workgroup. -/
def Wg.bar (W : Wg) (id : Nat) : Barrier := W.bars.getD id { arrived := [], leaving := [] }

/-- R271: the instance is complete once every live group has arrived; its groups may depart. -/
def Barrier.settle (live : List Nat) (b : Barrier) : Barrier :=
  if !b.arrived.isEmpty && live.all fun g => b.arrived.contains g then
    { arrived := [], leaving := b.leaving ++ b.arrived.filter fun g => live.contains g }
  else b

/-- R271: a group waits at a barrier: its arrival, which a trap or a restore leaves as it is, is not yet departed from. -/
def Wg.waitsAt (W : Wg) (g : Nat) : Bool := W.bars.any fun b => b.arrived.contains g

/-- R271: the arrival of group g at barrier id. -/
def Wg.arrive (W : Wg) (g id : Nat) : Wg :=
  let live := W.liveGroups
  { W with bars := W.bars.modify id fun b =>
      Barrier.settle live (if b.arrived.contains g then b else { b with arrived := b.arrived ++ [g] }) }

/-- R271: group g departs from barrier id. -/
def Wg.depart (W : Wg) (g id : Nat) : Wg :=
  { W with bars := W.bars.modify id fun b => { b with leaving := b.leaving.erase g } }

/-- R264, R271: an instance of barrier n is complete: the groups that leave it come after all that arrived. -/
def State.barDone (s : State) (w n : Nat) : State :=
  match s.wgs[w]? with
  | none => s
  | some W =>
    if !(W.bar n).arrived.isEmpty then s
    else ((W.bar n).leaving.foldl (fun s g => s.pass (.bar w n) (.depart w n g) How.ordered) s).forgets (.bar w n)

/-- R264, R271: the departure of a group from a barrier, an acquire at `.wg`. -/
def departFrom (s : State) (E : Env) (n : Nat) : State :=
  ((s.pass (.depart E.w n E.g) E.who How.ordered).forgets (.depart E.w n E.g)).modWg E.w fun W => W.depart E.g n

/-- R264, R271: the arrival of a group at a barrier, a release at `.wg`. -/
def arriveTo (s : State) (E : Env) (n : Nat) : State :=
  let s := if (E.W.bar n).arrived.contains E.g then s else s.pass E.who (.bar E.w n) (How.through (E.scopeAt 1))
  (s.modWg E.w fun W => W.arrive E.g n).barDone E.w n

/-- R271: the arrival at a barrier, and what follows from it. A `BAR` that is issued again has arrived already; it is the arrival
that completes the state of BAR_MISMATCH that traps, and the trap leaves it unmade. -/
def arriveAt (s : State) (E : Env) (id : BitVec 4) : SRes :=
  let n := id.toNat
  if (E.W.bar n).leaving.contains E.g then .done (departFrom s E n)
  else
    let W := E.W.arrive E.g n
    if (W.bar n).leaving.contains E.g then .done (departFrom (arriveTo s E n) E n)
    else if !(E.W.bar n).arrived.contains E.g && W.liveGroups.all fun h => h == E.g || W.waitsAt h then .fail .barMismatch
    else .wait (.bar id) (arriveTo s E n)

/-- BAR (R271). -/
def execBar (id : BitVec 4) (s : State) : Host.Outcome State Fault Refusal :=
  sWord s fun E => impliedWait s E fun s E => sFencePoint s E fun s => arriveAt s E id

/-- BAR_DEPART (R271): a group whose instance is complete goes on. -/
def execBarDepart (wg g : Nat) (s : State) : Host.Outcome State Fault Refusal :=
  groupEvent s wg g (fun E => match E.G.S.stall with | .bar id => (E.W.bar id.toNat).leaving.contains g | _ => false)
    fun E s =>
      match E.G.S.stall with
      | .bar id => (departFrom s E id.toNat).modGroup wg g Group.retire
      | _ => s

end Sys2Proof.Machine
end

