-- ==== Sys2Proof/Machine/Life.lean ====
section
/-! DEFINITION. The life of a workgroup: bind records and dispatch (R331 to R335), restores and the Dusk bank (R299 to R313),
service faults (R301 to R304), child tasks (R336, R337), EXIT and completion (R338). -/

namespace Sys2Proof.Machine

/-! ### Groups that start -/

/-- R20, R153: the allotment of a kernel, rounded up to a multiple of 1 KiB. -/
def Header.allot (h : Header) : Nat := (h.scratch + 1023) / 1024 * 1024

/-- R271: sixteen barriers at which nobody has arrived. -/
def freshBars : List Barrier := List.replicate 16 { arrived := [], leaving := [] }

/-! ### What a core holds -/

/-- R255, R261: quarter operations of a workgroup are in flight. -/
def wgOps (s : State) (w : Nat) : Bool := s.cores.any fun p => (p.2.mq ++ p.2.arr).any fun q => q.wg == w

/-- R338: a group still holds its slot, registers and tiles. -/
def groupHeld (s : State) (w g : Nat) (G : Group) : Bool :=
  G.fin == .running || s.cores.any fun p => (p.2.mq ++ p.2.arr).any fun q => q.wg == w && q.group == g

/-- R301: a workgroup stands in a bank; one whose image is not yet whole keeps what it has in the active bank. -/
def Wg.inBank (W : Wg) (place : Place) : Bool := W.place == place || (place == .active && W.place == .leaving)

/-- The workgroups of a core that stand in one of its banks. -/
def bankWgs (s : State) (core : Nat) (place : Place) : List Nat :=
  (List.range s.wgs.length).filter fun w => (s.wgs[w]?).any fun W => W.coreNo == core && W.inBank place

/-- What a workgroup holds in its bank: workgroup slot, group slots, lane registers, tiles, and its scratchpad bytes. -/
structure Alloc where
  wslot : Nat
  slots : List Nat
  lregs : Nat
  accs  : Nat
  lo    : Nat
  hi    : Nat
  deriving DecidableEq, Repr

/-- The kernel of a launch. -/
def kernelOf (s : State) (launch : BitVec 32) : Option Kernel := (s.launch? launch).bind fun l => s.kernel? l.kernel

/-- R20, R334: what a workgroup still holds. -/
def allocOf (s : State) (w : Nat) (W : Wg) : Alloc :=
  let h := (kernelOf s W.launch).map (·.header)
  let live := (List.range W.groups.length).filter fun g => (W.groups[g]?).any (groupHeld s w g)
  { wslot := W.wslot.toNat, slots := live.map W.slotOf, lregs := live.length * (h.map (·.lregs)).getD 0
    accs := live.length * (h.map (·.accs)).getD 0, lo := W.sbase, hi := W.sbase + W.size }

/-- R14, R335: an allocation fits beside those held: nothing overlaps, and registers, tiles and scratchpad suffice. -/
def fits (held : List Alloc) (a : Alloc) : Bool :=
  held.all (fun b =>
    b.wslot != a.wslot && a.slots.all (fun x => !b.slots.contains x) && (b.lo == b.hi || a.lo == a.hi || decide (a.hi ≤ b.lo)
      || decide (b.hi ≤ a.lo)))
  && decide (held.foldl (fun n b => n + b.lregs) a.lregs ≤ 4096)
  && decide (held.foldl (fun n b => n + b.accs) a.accs ≤ 128)
  && decide (a.hi ≤ 1048576)

/-- The allocations held in a bank of a core. -/
def bankHeld (s : State) (core : Nat) (place : Place) : List Alloc :=
  (bankWgs s core place).filterMap fun w => (s.wgs[w]?).map (allocOf s w)

/-! ### Bind records -/

/-- R334: the fields of a bind record. -/
structure BindRec where
  op     : Nat
  wslot  : BitVec 4
  launch : BitVec 32
  gslots : BitVec 48
  w      : Nat
  idx    : List (BitVec 32)
  image  : Nat
  sbase  : Nat
  resv   : Bool
  deriving DecidableEq, Repr

/-- R334: a bind record from its eight doublewords; `resv` where a reserved field is set. -/
def bindRec (d : List W64) : BindRec :=
  let d0 := d.getD 0 0
  let d1 := d.getD 1 0
  let d2 := d.getD 2 0
  let d7 := d.getD 7 0
  { op := bitsOf d0 63 60, wslot := d0.extractLsb' 48 4, launch := d0.extractLsb' 0 32, gslots := d1.extractLsb' 0 48
    w := bitsOf d2 31 0
    idx := d2.extractLsb' 32 32 :: [3, 4, 5].flatMap fun k => [(d.getD k 0).extractLsb' 0 32, (d.getD k 0).extractLsb' 32 32]
    image := (d.getD 6 0).toNat, sbase := 1024 * bitsOf d7 9 0
    resv := bitsOf d0 59 52 != 0 || bitsOf d0 47 32 != 0 || bitsOf d1 63 48 != 0 || bitsOf d7 63 10 != 0 }

/-- The set bits of a gslots field. -/
def slotBits (g : BitVec 48) : List Nat := (List.range 48).filter fun i => g.getLsbD i

/-- R335: the record at the head of a core's slot table, which dispatch still reads. -/
def headRec (C : Core) : Option BindRec := if C.slotStop then none else (C.slots.head?).map bindRec

/-- R335: the record at the head has been obeyed. -/
def popRec (s : State) (core : Nat) : State := s.setCore core { s.core core with slots := (s.core core).slots.drop 1 }

/-- R335: the record at the head is refused: dispatch stops reading the slot table, and reports the record to the scheduling core. -/
def refuseRec (s : State) (core : Nat) : State :=
  s.setCore core { s.core core with slotStop := true, refused := (s.core core).slots.head? }

/-- R306, R335: the record at the head, while no swap that an earlier record asked for is still to come. -/
def nextRec (C : Core) : Option BindRec := if C.swapReq then none else headRec C

/-- R331: the linear index of level indices. -/
def linearIndex (La : Launch) (idx : List (BitVec 32)) : Nat :=
  (List.range La.extents.length).foldl
    (fun a i => if i = 0 then a else a + (idx.getD (i - 1) 0).toNat * La.instSize i) 0

/-- R331: level indices lie in their extents, and indices of undeclared levels are 0. -/
def indicesGood (La : Launch) (idx : List (BitVec 32)) : Bool :=
  (List.range 7).all fun k =>
    let v := (idx.getD k 0).toNat
    if k + 1 < La.extents.length then decide (v < La.extents.getD (k + 1) 0) else v == 0

/-- R331: two workgroups lie in one instance of a level. -/
def sameInstance (level : Nat) (a b : List (BitVec 32)) : Bool :=
  (List.range 7).all fun k => decide (k + 1 < level) || a.getD k 0 == b.getD k 0

/-- R19, R331: every workgroup of one instance of a level bound to a cluster or a die is placed on one die. -/
def placementGood (s : State) (La : Launch) (die : Nat) (idx : List (BitVec 32)) : Bool :=
  (List.range La.extents.length).all fun l =>
    decide (l < 2) || !(La.doms.getD (l - 2) 0 == 2 || La.doms.getD (l - 2) 0 == 3) ||
    s.wgs.all fun W => W.launch != La.handle || W.child || W.die == die || !sameInstance l W.idx idx

/-! ### Starts -/

/-- R333: a dependence of consumer workgroup w is met. Of a producer on the module that the launch has left only what was ready then is
known (R350; log entry 33). -/
def depMet (s : State) (w : Nat) (d : Dependence) : Bool :=
  let tile := fun (last : Nat) => min (w / 2 ^ d.cshift + d.base) last
  match s.launch? d.producer with
  | none => d.tile && d.known.any fun k => k.2.contains (tile k.1)
  | some P => P.status.isSome || (d.tile && P.tileReady (tile P.lastTile))

/-- R328: every launch accepted before into the same queue has begun dispatch. -/
def queueTurn (s : State) (La : Launch) : Bool :=
  (s.drv.launches.takeWhile fun l => l.handle != La.handle).all fun l =>
    l.queue != La.queue || l.started.isSome || l.status.isSome

/-- R328, R332, R333: what the scheduling core promises of a start. -/
def mayStart (s : State) (La : Launch) (w : Nat) : Bool :=
  queueTurn s La && (decide (w < 256) || La.done.contains (w - 256)) && La.deps.all (depMet s w)

/-- R335: a start record that dispatch obeys: every field well formed, the workgroup not begun, and room for it. -/
def startGood (s : State) (core : Nat) (La : Launch) (K : Kernel) (r : BindRec) : Bool :=
  let h := K.header
  let n := (slotBits r.gslots).length
  r.op == 1 && !r.resv && n == h.groups && indicesGood La r.idx && linearIndex La r.idx == r.w && !La.begun.contains r.w
  && placementGood s La (core / 16) r.idx
  && fits (bankHeld s core .active) { wslot := r.wslot.toNat, slots := slotBits r.gslots, lregs := n * h.lregs,
                                      accs := n * h.accs, lo := r.sbase, hi := r.sbase + h.allot }

/-- A workgroup as it starts on a core, its resources tagged with its world (R341). -/
def freshWg (world : BitVec 16) (launch : BitVec 32) (w : Nat) (idx : List (BitVec 32)) (core : Nat) (wslot : BitVec 4)
    (gslots : BitVec 48) (sbase size : Nat) (groups : List Group) : Wg :=
  { launch := launch, w := w, idx := idx, child := false, place := .active, die := core / 16, core := core % 16, wslot := wslot
    gslots := gslots, sbase := sbase, size := size, scratch := [], bars := freshBars, groups := groups, faults := [], holds := []
    ranOn := some core, tags := Tags.all world, sealedBy := none }

/-- R275, R333: what workgroup w of a launch comes after: the tiles that it depends on, or every tile of a producer that is to be
complete. -/
def consumes (s : State) (La : Launch) (w : Nat) (h : Holder) : Bool :=
  match h with
  | .tile p k => La.deps.any fun d => d.producer == p && (!d.tile || (s.launch? p).any fun P =>
      k / 2 ^ P.tshift == min (w / 2 ^ d.cshift + d.base) P.lastTile)
  | _ => false

/-- R275: the groups of a workgroup that starts acquire at `.dom` from the flags that released it. -/
def State.acquireTiles (s : State) (La : Launch) (w new groups : Nat) : State :=
  (List.range groups).foldl (fun s g => s.passIf (consumes s La w) (.stream new g) (How.through domAll)) s

/-- R335: the workgroup of a start record begins; a consumer released on its dependences acquires at `.dom` (R275). -/
def startWg (s : State) (core : Nat) (La : Launch) (K : Kernel) (r : BindRec) : State :=
  let h := K.header
  let W := freshWg La.world La.handle r.w r.idx core r.wslot r.gslots r.sbase h.allot (List.replicate h.groups (Group.reset h.lregs h.accs))
  let s := s.modLaunch La.handle fun l =>
    { l with begun := l.begun ++ [r.w], started := if l.started.isSome then l.started else some s.time.clock }
  let s := if La.deps.isEmpty then s else (dropCache s core).acquireTiles La r.w s.wgs.length h.groups
  popRec { s with wgs := s.wgs ++ [W] } core

/-- BIND_START (R334, R335): the head record, of op 1 or of an op that is refused. A record of a launch that has ended starts
nothing. -/
def execBindStart (core : Nat) (s : State) : Host.Outcome State Fault Refusal :=
  match nextRec (s.core core) with
  | none => .next s
  | some r =>
    if 2 ≤ r.op ∧ r.op ≤ 4 then .next s
    else if r.op ≠ 1 ∨ r.resv then .next (refuseRec s core)
    else
      match s.launch? r.launch with
      | none => .next (refuseRec s core)
      | some La =>
        if La.status.isSome then .next (popRec s core)
        else
          match s.kernel? La.kernel with
          | none => .next (refuseRec s core)
          | some K =>
            if startGood s core La K r then event s (mayStart s La r.w) fun s => startWg s core La K r
            else .next (refuseRec s core)

/-! ### Restores -/

/-- R140, R311 steps 3 to 5 for one group: yielded splits are ready again; the release check, a pending event, or the rebuilding of the windows. -/
def restoreGroup (s : State) (w g : Nat) : State :=
  match s.group? w g with
  | none => s
  | some G =>
    if G.fin != .running || G.stopped.isSome then s
    else
      let s := (emitEvent s w g 3 0).modGroup w g Group.awake
      if G.T.entry.isSome then s
      else
        let due := G.T.timer != 0 && decide (G.T.timer.toNat ≤ s.time.clock.toNat)
        let s := s.modGroup w g fun G =>
          if due then { G with T := { G.T with timer := 0, pending := some (.timer G.T.timer) } } else G
        let s := resumeCheck s w g
        match s.group? w g with
        | none => s
        | some G =>
          match G.T.pending, G.T.handler with
          | some (.timer deadline), false =>
            let s := s.modGroup w g fun G => { G with T := { G.T with pending := none } }
            takeTrap s w g { cause := .timer, kind := .event, d0 := deadline, d1 := s.time.clock }
          | _, _ => s.modGroup w g Group.rebuild

/-- R311: a workgroup's groups may issue again in the active bank of their core: stale row-cache lines go, unformed `COPY` jobs are
formed here, and each group is restored. DESIGN CHOICE, unsafe (entry 59): a `COPY` job that is re-formed holds a job slot again even
where all 512 of the core are held; R18 and R245 do not say what becomes of it then. -/
def restoreWg (s : State) (w : Nat) : State :=
  match s.wgs[w]? with
  | none => s
  | some W =>
    let core := W.coreNo
    let s := if W.ranOn = some core then s else dropCache s core
    let s := s.modWg w fun W => { W with place := .active, ranOn := some core, sealedBy := none }
    let s : State := { s with jobs := s.jobs.map fun j => if j.wg = w ∧ j.state = .forming then { j with core := core } else j }
    (List.range W.groups.length).foldl (fun s g => restoreGroup s w g) s

/-- R302, R309: nothing of the workgroup that an image must hold is still in flight: quarter operations, and words that have issued.
A job that has started runs on, and what it writes after the image is saved goes into the image (R245; log entry 70). -/
def imageWhole (s : State) (w : Nat) (W : Wg) : Bool := !wgOps s w && W.groups.all fun G => !G.inFlight

/-- R300, R345: the workgroup's image is sealed under its context's image key. -/
def sealImage (s : State) (w : Nat) : State :=
  match s.wgs[w]? with
  | none => s
  | some W => s.modWg w fun W' => { W' with sealedBy := ((s.launch? W.launch).bind fun l => s.context? l.ctx).map (imageKey s) }

/-- R301 step 4: the image of a workgroup that a service fault has stopped is whole, and its slots are freed. -/
def imaged (s : State) (w : Nat) : State :=
  match s.wgs[w]? with
  | none => s
  | some W =>
    if W.place = .leaving ∧ imageWhole s w W then sealImage (s.modWg w fun W => { W with place := .image }) w else s

/-- What the head record of op 2 or 3 asks for: the record is refused; it is over since the workgroup's context has ended; it
waits; or the workgroup may come in. -/
inductive Incoming where
  | refused | ended | waits | comes
  deriving DecidableEq, Repr

/-- R304, R335: tells what becomes of a resume or fill record, for the bank it would fill. -/
def incoming (s : State) (core : Nat) (r : BindRec) (bank : Place) : Incoming :=
  match s.wgs[r.image]? with
  | none => .refused
  | some W =>
    if W.place = .completed then .ended
    else if r.resv || r.launch != W.launch || (!W.child && r.w != W.w) || W.die != core / 16
        || (slotBits r.gslots).length != W.groups.length then .refused
    else
      match W.place with
      | .active | .incoming => .refused
      | .shadow | .image | .leaving => .waits
      | _ =>
        let moved := { W with wslot := r.wslot, gslots := r.gslots, sbase := r.sbase }
        if fits (bankHeld s core bank) (allocOf s r.image moved) then
          if imageWhole s r.image W then .comes else .waits
        else .refused

/-- R304: the workgroup leaves the resume queue of its die, and takes the resources that a record names on a core. -/
def takePlace (s : State) (core : Nat) (r : BindRec) (bank : Place) : State :=
  let D := s.die (core / 16)
  (s.setDie (core / 16) { D with resume := D.resume.erase r.image }).modWg r.image fun W =>
    { W with place := bank, core := core % 16, wslot := r.wslot, gslots := r.gslots, sbase := r.sbase }

/-- BIND_RESUME (R304, R311, R335). -/
def execBindResume (core : Nat) (s : State) : Host.Outcome State Fault Refusal :=
  match nextRec (s.core core) with
  | none => .next s
  | some r =>
    if r.op = 2 then
      match incoming s core r .active with
      | .refused => .next (refuseRec s core)
      | .ended => .next (popRec s core)
      | .waits => .next s
      | .comes => .next (popRec (restoreWg (takePlace s core r .active) r.image) core)
    else .next s

/-! ### The Dusk bank -/

/-- BIND_FILL (R306, R335): the spill engine begins to fill the shadow bank, once it has drained (R310). -/
def execBindFill (core : Nat) (s : State) : Host.Outcome State Fault Refusal :=
  match nextRec (s.core core) with
  | none => .next s
  | some r =>
    if r.op = 3 ∧ (s.core core).shadow ≠ .draining then
      match incoming s core r .incoming with
      | .refused => .next (refuseRec s core)
      | .ended => .next (popRec s core)
      | .waits => .next s
      | .comes =>
        let s := popRec (takePlace s core r .incoming) core
        .next (s.setCore core { s.core core with shadow := .filling })
    else .next s

/-- SPILL_FILL_DONE (R306). -/
def execSpillFillDone (core : Nat) (s : State) : Host.Outcome State Fault Refusal :=
  event s ((s.core core).shadow == .filling) fun s => s.setCore core { s.core core with shadow := .ready }

/-- BIND_SWAP (R306, R335): a swap is requested. -/
def execBindSwap (core : Nat) (s : State) : Host.Outcome State Fault Refusal :=
  match nextRec (s.core core) with
  | none => .next s
  | some r =>
    if r.op = 4 then
      if r.resv then .next (refuseRec s core)
      else
        let s := popRec s core
        .next (s.setCore core { s.core core with swapReq := true })
    else .next s

/-- R307: a workgroup goes into the shadow bank, its groups stopped. -/
def swapAway (s : State) (w : Nat) : State :=
  match s.wgs[w]? with
  | none => s
  | some W =>
    let s := if W.place = .active then W.running.foldl (fun s g => emitEvent s w g 2 1) s else s
    s.modWg w fun W =>
      { W with place := .shadow, groups := W.groups.map fun G => if G.fin == .running then G.halt 0 else G }

/-- DUSK_SWAP (R306, R307, R311): a requested swap takes effect: the banks exchange roles, and the incoming groups are
restored. -/
def execDuskSwap (core : Nat) (s : State) : Host.Outcome State Fault Refusal :=
  let C := s.core core
  event s (C.swapReq && (C.shadow == .empty || C.shadow == .ready)) fun s =>
    let out := bankWgs s core .active
    let s' := out.foldl swapAway (s.setCore core { C with swapReq := false, shadow := .draining })
    (bankWgs s core .incoming).foldl restoreWg s'

/-- SPILL_DRAIN_DONE (R308 to R310): every in-flight writer of the outgoing state has finished, and it is in its images. A workgroup
that has met a service fault meanwhile goes the way of R303. -/
def execSpillDrainDone (core : Nat) (s : State) : Host.Outcome State Fault Refusal :=
  let out := bankWgs s core .shadow
  event s ((s.core core).shadow == .draining && out.all fun w => (s.wgs[w]?).all (imageWhole s w)) fun s =>
    let s := out.foldl sealImage (s.setCore core { s.core core with shadow := .empty })
    let rest := fun (W : Wg) => { W with place := if W.faults.all (·.served) then .resumable else .image }
    { s with wgs := s.wgs.mapIdx fun w W => if out.contains w then rest W else W }

/-! ### Service faults -/

/-- R301: the service time is written to the open log entries of a workgroup. -/
def stampLog (s : State) (w : Nat) : State :=
  let stamp := fun (e : LogEntry) => if e.wg = some w then { e with detail := s.time.clock, wg := none } else e
  { s with drv := { s.drv with log := s.drv.log.map stamp } }

/-- SERVICE_COMPLETE (R303, R304): every entry of the list is serviced and the workgroup joins its die's resume queue; or servicing
has failed and the context ends. -/
def execServiceComplete (wg : Nat) (r : ServiceResult) (s : State) : Host.Outcome State Fault Refusal :=
  match s.wgs[wg]? with
  | none => .next s
  | some W =>
    event s (W.place == .image) fun s =>
      let ctx := ((s.launch? W.launch).map (·.ctx)).getD 0
      let s := stampLog s wg
      match r with
      | .ownerEnded => endContext s ctx (causeCode .ownerEnded) 0 []
      | .stateUncorr => endContext s ctx (causeCode .stateUncorr) 0 []
      | .serviced =>
        let needs := W.faults.flatMap (·.needs)
        let s := (needs.foldl provide s).modWg wg fun W =>
          { W with place := .serviced, holds := needs, ranOn := none, faults := W.faults.map fun f => { f with served := true } }
        let D := s.die W.die
        s.setDie W.die { D with resume := D.resume ++ [wg] }

/-! ### Child tasks -/

/-- SPAWN (R336). -/
def execSpawn (d a : BitVec 6) (s : State) : Host.Outcome State Fault Refusal :=
  sWord s fun E =>
    let v := E.G.rS a
    let entry := v.extractLsb' 0 26
    let C := s.core E.W.coreNo
    if E.K.header.ssize ≤ entry.toNat then .fail .spawnDesc
    else if 64 ≤ C.tasks.length then .group s E fun G => G.wS d 0
    else
      let t : TaskEntry := { entry := entry, arg := v.extractLsb' 26 38, launch := E.La.handle, idx := E.W.idx }
      let s := s.pass E.who (.task E.W.coreNo C.tasks.length) How.ordered
      .group (s.setCore E.W.coreNo { C with tasks := C.tasks ++ [t] }) E fun G => G.wS d 1

/-- R337: the head of the slot table is a start of a higher launch priority. -/
def startAhead (s : State) (C : Core) (prio : Nat) : Bool :=
  (headRec C).any fun r => r.op == 1 && (s.launch? r.launch).any fun l => decide (prio < l.prio)

/-- R337: the child of a task: one group, no allotment, the parent's indices, s1 and S-PC from the task word. -/
def childWg (world : BitVec 16) (t : TaskEntry) (h : Header) (core wslot gslot : Nat) : Wg :=
  let G := Group.reset h.lregs h.accs
  let G := { G.wS 1 (t.arg.setWidth 64) with S := { (G.wS 1 (t.arg.setWidth 64)).S with pc := t.entry.setWidth 64 } }
  { freshWg world t.launch 0 t.idx core (BitVec.ofNat 4 wslot) (1#48 <<< gslot) 0 0 [G] with child := true }

/-- R336: the task at the head of a core's queue starts as workgroup w, after what its `SPAWN` comes after. -/
def State.startTask (s : State) (core w : Nat) : State :=
  (s.pass (.task core 0) (.stream w 0) How.ordered).rename fun h => match h with
    | .task c k => if c = core then (if k = 0 then none else some (.task core (k - 1))) else some h
    | _ => some h

/-- CHILD_TASK_START (R337): the head of the task queue starts; which free slots it takes is free. -/
def execChildTaskStart (core : Nat) (s : State) : Host.Outcome State Fault Refusal :=
  let C := s.core core
  match C.tasks with
  | [] => .next s
  | t :: rest =>
    match s.launch? t.launch, kernelOf s t.launch with
    | some La, some K =>
      let held := bankHeld s core .active
      let wused := held.map (·.wslot)
      let gused := held.flatMap (·.slots)
      let room := decide (wused.length < 16) && decide (gused.length < 48)
        && decide (held.foldl (fun n b => n + b.lregs) K.header.lregs ≤ 4096)
        && decide (held.foldl (fun n b => n + b.accs) K.header.accs ≤ 128)
      event s (room && !startAhead s C La.prio) fun s =>
        let a := s.drawUnused wused 0 15
        let b := a.2.drawUnused gused 0 47
        let s := (b.2.startTask core b.2.wgs.length).setCore core { C with tasks := rest }
        { s with wgs := s.wgs ++ [childWg La.world t K.header core a.1 b.1] }
    | _, _ => .next s

/-! ### The end -/

/-- R338: a group that has ended: its cursors are closed, its queues and saved blocks discarded. -/
def Group.ended (G : Group) : Group :=
  let G := G.clearingPoint
  { G with
    S := { G.S with uq := [], bq := [], dq := [], stall := .none }
    lanes := G.lanes.map fun L => { L with cur := [none, none, none, none] }
    T := { G.T with saved := { ovf := [], ohead := 0, splits := [], blockStart := 0, blockSeq := 0 }, pending := none }
    fin := .exited }

/-- R271, R338: a group ends, and counts as arrived at every barrier. -/
def Wg.endGroup (W : Wg) (g : Nat) : Wg :=
  let W := { W with groups := W.groups.modify g Group.ended }
  let live := W.liveGroups
  { W with bars := W.bars.map (Barrier.settle live) }

/-- EXIT (R338). -/
def execExit (s : State) : Host.Outcome State Fault Refusal :=
  sWord s fun E => impliedWait s E fun s E => sFencePoint s E fun s =>
    .left ((List.range 16).foldl (State.barDone · E.w) (s.modWg E.w fun W => W.endGroup E.g))

/-- R338: the last group has ended, and jobs, reductions and quarter operations are over. -/
def wgOver (s : State) (w : Nat) (W : Wg) : Bool :=
  W.place != .completed && W.groups.all (fun G => G.fin != .running)
  && s.jobs.all (fun j => j.wg != w || j.state == .complete) && s.reds.all (fun r => r.wg != w) && !wgOps s w

/-- WORKGROUP_COMPLETE (R332, R338). -/
def execWorkgroupComplete (wg : Nat) (s : State) : Host.Outcome State Fault Refusal :=
  match s.wgs[wg]? with
  | none => .next s
  | some W =>
    event s (wgOver s wg W) fun s =>
      completeWg { s with dies := s.dies.map fun p => (p.1, { p.2 with resume := p.2.resume.erase wg }) } wg

end Sys2Proof.Machine
end

