-- ==== Sys2Proof/Machine/Clients.lean ====
section
/-! DEFINITION. Client requests (R325 to R327): sessions and replies, contexts, the loading of containers (R36 to R39), unloading,
level templates, WAIT. -/

namespace Sys2Proof.Machine

/-! ### Bytes -/

/-- The little-endian number of n bytes at a place of a body (R6). -/
def le (bs : List Byte) (at_ n : Nat) : Nat := bytesToNat ((bs.drop at_).take n)

/-- The doubleword at a byte place of a body. -/
def leW (bs : List Byte) (at_ : Nat) : W64 := BitVec.ofNat 64 (le bs at_ 8)

/-- n bytes at a place. -/
def slice (bs : List Byte) (at_ n : Nat) : List Byte := (bs.drop at_).take n

/-! ### Requests -/

/-- What the driver does with a request: refuses it with a status (and a cause, for status 5); answers it; or answers it
once something has come. -/
inductive Ans where
  | no (status : Nat) (cause : Option Cause := none)
  | yes (s : State) (body : List Byte)
  | later (s : State) (w : ReplyWait)
  deriving DecidableEq, Repr

/-- R326: a reply to a message. -/
def answerTo (m : Msg) (status : Nat) (body : List Byte) : Reply :=
  { session := m.session, op := m.op, status := BitVec.ofNat 16 status, req := m.req, ctx := m.ctx, body := body }

/-- R326: a malformed request. -/
def malformed : Ans := .no 1

/-- R326: what a refusal, an answer or a wait makes of the state. -/
def applyAns (s : State) (m : Msg) : Ans → State
  | .no status cause => reply s .ready (answerTo m status (cause.toList.map causeCode))
  | .yes s' body => reply s' .ready (answerTo m 0 body)
  | .later s' w => reply s' w (answerTo m 0 [])

/-- R326: a header with a reserved bit set or a length beyond the limit closes its session. -/
def closesSession (m : Msg) : Bool := m.resv != 0 || decide (2 ^ 30 < m.length.toNat)

/-- R326: closes a session. -/
def closeSession (s : State) (id : Nat) : State :=
  let close := fun (x : Session) => if x.id = id then { x with isOpen := false } else x
  { s with drv := { s.drv with sessions := s.drv.sessions.map close } }

/-- An open session. -/
def State.session? (s : State) (id : Nat) : Option Session := s.drv.sessions.find? fun x => x.id == id && x.isOpen

/-- R326: a request on an open session, given the tenant that the session acts for. -/
def request (s : State) (m : Msg) (f : BitVec 64 → Ans) : Host.Outcome State Fault Refusal :=
  match s.time.boot, s.session? m.session with
  | .running, some x =>
    .next <|
      if closesSession m then closeSession s m.session
      else if m.status ≠ 0 ∨ m.body.length ≠ m.length.toNat then applyAns s m malformed
      else if (s.tenant? x.tenant).isNone then applyAns s m (.no 3)
      else applyAns s m (f x.tenant)
  | _, _ => .next s

/-- R326: a message whose op or subcode the driver does not know. -/
def unknownRequest (s : State) (m : Msg) : Host.Outcome State Fault Refusal := request s m fun _ => malformed

/-! ### Worlds -/

/-- R325, R340: the world that a request asks for: a free one for 0, else one that the tenant holds. -/
def pickWorld (s : State) (tenant : BitVec 64) (w : BitVec 16) : Except Nat (BitVec 16 × State) :=
  if w = 0 then
    let used := heldWorlds s
    if 0xFFFE ≤ used.eraseDups.length then .error 4
    else
      let d := s.drawUnused used 1 0xFFFE
      .ok (BitVec.ofNat 16 d.1, d.2)
  else if holdsWorld s tenant w then .ok (w, s)
  else .error 3

/-- R325: a new context of a tenant in a world; its handle is not 0, and its bank key is drawn. -/
def newContext (s : State) (tenant : BitVec 64) (world : BitVec 16) : BitVec 32 × State :=
  let d := s.drawUnused (s.drv.contexts.map fun c => c.handle.toNat) 1 (2 ^ 32 - 1)
  let k := d.2.draw
  let h := BitVec.ofNat 32 d.1
  let C : Context := { handle := h, tenant := tenant, world := world, bankKey := BitVec.ofNat 32 k.1, right := none, dbgctl := 0,
                       breaks := [], watches := [], ended := none }
  (h, ({ k.2 with drv := { k.2.drv with contexts := k.2.drv.contexts ++ [C] } } : State).giveWorld world tenant)

/-- R326: the context that a request names: it must run and be the tenant's. -/
def withContext (s : State) (m : Msg) (tenant : BitVec 64) (f : Context → Ans) : Ans :=
  match s.context? m.ctx with
  | none => .no 2
  | some C => if C.tenant ≠ tenant then .no 3 else if C.ended.isSome then .no 2 else f C

/-- CONTEXT_CREATE (R325, R327). -/
def execContextCreate (m : Msg) (s : State) : Host.Outcome State Fault Refusal :=
  request s m fun tenant =>
    if m.body.length ≠ 2 then malformed
    else
      match pickWorld s tenant (BitVec.ofNat 16 (le m.body 0 2)) with
      | .error n => .no n
      | .ok (world, s) =>
        let c := newContext s tenant world
        .yes c.2 (natToBytes 4 c.1.toNat ++ natToBytes 2 world.toNat)

/-- CONTEXT_END (R325, R327, R332): the context ends with KILLED; the reply follows the final adds. -/
def execContextEnd (m : Msg) (s : State) : Host.Outcome State Fault Refusal :=
  request s m fun tenant =>
    if m.body ≠ [] then malformed
    else
      match s.context? m.ctx with
      | none => .no 2
      | some C =>
        if C.tenant ≠ tenant then .no 3
        else .later (endContext s m.ctx (causeCode .killed) 0 []) (.ctxEnd m.ctx)

/-! ### Containers -/

/-- One bit of CRC-32 (IEEE 802.3, reflected). -/
def crcBit (c : BitVec 32) : BitVec 32 := if c.getLsbD 0 then (c >>> 1) ^^^ 0xEDB88320 else c >>> 1

/-- One byte of CRC-32. -/
def crcByte (c : BitVec 32) (b : Byte) : BitVec 32 :=
  (List.range 8).foldl (fun c _ => crcBit c) (c ^^^ b.setWidth 32)

/-- R37: the CRC-32 of a section. -/
def crc32 (bs : List Byte) : BitVec 32 := ~~~ bs.foldl crcByte 0xFFFFFFFF

/-- R37: a section: its type, its kernel, its bytes. -/
structure Section where
  ty     : Nat
  kernel : Nat
  bytes  : List Byte
  deriving DecidableEq, Repr

/-- R37: the section of entry i of a container; none where it runs past the file or its check value is wrong. -/
def readSection (file : List Byte) (i : Nat) : Option Section :=
  let e := 16 + 16 * i
  let off := le file (e + 4) 4
  let n := le file (e + 8) 4
  let bs := slice file off n
  if e + 16 ≤ file.length ∧ off + n ≤ file.length ∧ (crc32 bs).toNat = le file (e + 12) 4 then
    some { ty := le file e 2, kernel := le file (e + 2) 2, bytes := bs }
  else none

/-- No two sections of one type for one kernel (R37). -/
def sectionsDiffer : List Section → Bool
  | [] => true
  | x :: xs => xs.all (fun y => !(x.ty == y.ty && x.kernel == y.kernel)) && sectionsDiffer xs

/-- R37: the sections of a container. -/
def readContainer (file : List Byte) : Option (List Section) := do
  guard (16 ≤ file.length && le file 0 4 == 0x3147424F && le file 4 2 == 1 && le file 8 8 == file.length)
  let ss ← (List.range (le file 6 2)).mapM (readSection file)
  guard (ss.all (fun x => decide (1 ≤ x.ty) && decide (x.ty ≤ 8)) && sectionsDiffer ss)
  pure ss

/-- A section of a type for a kernel. -/
def sectionOf (ss : List Section) (k ty : Nat) : Option (List Byte) :=
  (ss.find? fun x => x.kernel == k && x.ty == ty).map (·.bytes)

/-- R20: how many workgroups of a kernel a core holds at once. -/
def perCore (h : Header) : Nat :=
  let a := min 48 (4096 / h.lregs) / h.groups
  let b := if h.accs = 0 then 16 else 128 / (h.accs * h.groups)
  let c := if h.allot = 0 then 16 else 1048576 / h.allot
  min (min a b) (min c 16)

/-- R36: a header; none where a reserved bit is set or a field is out of range. -/
def readHeader (bs : List Byte) : Option Header := do
  guard (bs.length == 24)
  let d0 := leW bs 0
  let d1 := leW bs 8
  let d2 := leW bs 16
  let h : Header := { scratch := bitsOf d0 42 22, accs := bitsOf d0 21 17, groups := bitsOf d0 16 12 + 1
                      nbind := bitsOf d0 11 5, lregs := 16 * bitsOf d0 4 0, lsize := bitsOf d1 63 32, ssize := bitsOf d1 31 0
                      psize := bitsOf d2 63 32, csize := bitsOf d2 31 0 }
  guard (bitsOf d0 63 43 == 0 && decide (h.scratch ≤ 1048576) && decide (h.accs ≤ 16) && decide (h.nbind ≤ 64)
    && decide (16 ≤ h.lregs) && decide (h.lregs ≤ 256) && h.psize % 8 == 0 && decide (h.psize ≤ 4096))
  pure h

/-- R37: bytes of the L-code with its padding. -/
def Header.lbytes (h : Header) : Nat := (12 * h.lsize + 7) / 8 * 8

/-- R36, R37: a native section is as long as its header says. -/
def nativeFits (h : Header) (n : List Byte) : Bool := n.length == 4 * h.ssize + h.lbytes + h.csize

/-- R37: the words of the S-code. -/
def readS (h : Header) (n : List Byte) : List SWord := (List.range h.ssize).map fun i => BitVec.ofNat 32 (le n (4 * i) 4)

/-- R37: the words of the L-code, bits 7:0 first. -/
def readL (h : Header) (n : List Byte) : List LWord :=
  (List.range h.lsize).map fun i => BitVec.ofNat 96 (le n (4 * h.ssize + 12 * i) 12)

/-- R165: a binding template; none where a reserved bit is set. -/
def readTemplate (bs : List Byte) (i : Nat) : Option Template :=
  let f := fun (at_ n : Nat) => le bs (16 * i + at_) n
  if f 0 1 / 64 = 0 ∧ f 1 1 / 2 = 0 ∧ f 2 2 = 0 ∧ f 14 2 = 0 ∧ f 12 1 ≤ 2 ∧ f 13 1 ≤ 1 then
    some { slot := BitVec.ofNat 6 (f 0 1), ro := f 1 1 % 2 == 1, id := BitVec.ofNat 32 (f 4 4), width := f 8 4, kind := f 12 1,
           ktype := f 13 1 }
  else none

/-- Nothing occurs twice in a list of numbers. -/
def distinct : List Nat → Bool
  | [] => true
  | x :: xs => !xs.contains x && distinct xs

/-- R31, R165: the templates of a section. -/
def readTemplates (h : Header) (bs : List Byte) : Option (List Template) := do
  guard (bs.length == 16 * h.nbind)
  let ts ← (List.range h.nbind).mapM (readTemplate bs)
  guard (distinct (ts.map fun t => t.slot.toNat))
  pure ts

/-- R329, R33: the levels of a record: extents of levels 0 to k - 1 and the domains of levels 2 and above. -/
structure Levels where
  extents : List Nat
  doms    : List Nat
  deriving DecidableEq, Repr

/-- R329: reads levels from nlev, the dom field and four doublewords of extents; none where a level is malformed. -/
def readLevels (nlev : Nat) (dom : Nat) (ext : List W64) : Option Levels := do
  let all := ext.flatMap fun d => [bitsOf d 31 0, bitsOf d 63 32]
  let doms := (List.range 6).map fun j => dom / 8 ^ j % 8
  guard (decide (1 ≤ nlev) && (all.take (nlev + 1)).all (fun e => decide (0 < e)) && (all.drop (nlev + 1)).all (fun e => e == 0)
    && (doms.take (nlev - 1)).all (fun d => decide (2 ≤ d) && decide (d ≤ 5)) && (doms.drop (nlev - 1)).all (fun d => d == 0))
  pure { extents := all.take (nlev + 1), doms := doms }

/-- R38: the levels of a level template. -/
def templateLevels (bs : List Byte) : Option Levels := do
  guard (bs.length == 48)
  let d0 := leW bs 0
  let d1 := leW bs 8
  guard (bitsOf d0 63 7 == 0 && bitsOf d0 3 0 == 0 && bitsOf d1 63 18 == 0)
  readLevels (bitsOf d0 6 4) (bitsOf d1 17 0) ((List.range 4).map fun k => leW bs (16 + 8 * k))

/-- R33, R38: a level template that a container may carry. -/
def levelsGood (h : Header) (bs : List Byte) : Bool := (templateLevels bs).any fun l => l.extents.head? == some h.groups

/-- R38: a table record of a test section. -/
structure TestTable where
  slot  : BitVec 6
  kind  : BitVec 3
  k128  : Bool
  multi : Bool
  leaf  : BitVec 3
  homed : Bool
  home  : BitVec 5
  width : Nat
  size  : Nat
  deriving DecidableEq, Repr

/-- R31, R164: what kind, key type, multi, leaf and home a table may have together. -/
def shapeGood (kind : BitVec 3) (k128 multi : Bool) (leaf : BitVec 3) : Bool :=
  decide (kind.toNat ≤ 2) && !(k128 && kind == kindArray) && !(multi && kind != kindOrdered)
  && (if kind == kindOrdered then decide (leaf.toNat ≤ 4) else leaf == 0)

/-- R38: reads a table record. -/
def readTestTable (bs : List Byte) : Option TestTable :=
  let d0 := leW bs 0
  let d1 := leW bs 8
  let t : TestTable :=
    { slot := d0.extractLsb' 0 6, kind := d0.extractLsb' 8 3, k128 := d0.getLsbD 11, multi := d0.getLsbD 12
      leaf := d0.extractLsb' 13 3, homed := d0.getLsbD 16, home := d0.extractLsb' 17 5, width := 32 * (bitsOf d0 42 32 + 1)
      size := bitsOf d1 39 0 }
  if bitsOf d0 63 43 = 0 ∧ bitsOf d0 31 22 = 0 ∧ bitsOf d0 7 6 = 0 ∧ bitsOf d1 63 40 = 0 ∧ (t.homed || t.home == 0)
      ∧ shapeGood t.kind t.k128 t.multi t.leaf then some t else none

/-- R38: a row record: slot, key and data. -/
structure RowRec where
  slot : BitVec 6
  key  : Key
  data : List Byte
  deriving DecidableEq, Repr

/-- R38: row records read one after the other; none where one runs past the bytes or is malformed. DESIGN CHOICE, unsafe (entry
62): bytes after the last record, and padding that is not zero, are refused. -/
def readRows : Nat → List Byte → Option (List RowRec)
  | 0, bs => if bs.isEmpty then some [] else none
  | n + 1, bs => do
    let d0 := leW bs 0
    let len := bitsOf d0 63 32
    let pad := (len + 7) / 8 * 8
    guard (decide (24 + pad ≤ bs.length) && bitsOf d0 31 6 == 0 && decide (len ≤ 65536)
      && ((bs.drop (24 + len)).take (pad - len)).all (fun b => b == 0))
    let r : RowRec := { slot := d0.extractLsb' 0 6, key := leW bs 16 ++ leW bs 8, data := slice bs 24 len }
    let rest ← readRows n (bs.drop (24 + pad))
    pure (r :: rest)

/-- How many row records the bytes hold, with fuel. -/
def countRows : Nat → List Byte → Nat
  | 0, _ => 0
  | fuel + 1, bs => if bs.isEmpty then 0 else 1 + countRows fuel (bs.drop (24 + (le bs 4 4 + 7) / 8 * 8))

/-- R38: a test section: its tables, parameters and rows. -/
structure TestSection where
  tables : List TestTable
  params : List Byte
  rows   : List RowRec
  deriving DecidableEq, Repr

/-- R32, R38: the rows of one table of a test section keep its limits. -/
def rowsGood (t : TestTable) (rs : List RowRec) : Bool :=
  let mine := rs.filter fun r => r.slot == t.slot
  mine.all (fun r => decide (r.data.length ≤ t.width) && (t.k128 || decide (r.key.toNat < 2 ^ 64))
      && (t.kind != kindArray || decide (r.key.toNat ≤ t.size)))
  && (t.multi || distinct (mine.map fun r => r.key.toNat)) && (t.kind == kindArray || decide (mine.length ≤ t.size + 1))

/-- R38: reads a test section. -/
def readTest (bs : List Byte) : Option TestSection := do
  let d := leW bs 0
  let nt := bitsOf d 7 0
  let np := bitsOf d 25 16
  let nr := bitsOf d 63 32
  guard (decide (8 ≤ bs.length) && decide (8 + 16 * nt + 8 * np ≤ bs.length) && decide (nt ≤ 64) && decide (np ≤ 512) && bitsOf d 15 8 == 0
    && bitsOf d 31 26 == 0)
  let tables ← (List.range nt).mapM fun i => readTestTable (slice bs (8 + 16 * i) 16)
  let rows ← readRows nr (bs.drop (8 + 16 * nt + 8 * np))
  guard (distinct (tables.map fun t => t.slot.toNat) && tables.all (fun t => rowsGood t rows)
    && rows.all (fun r => tables.any fun t => t.slot == r.slot))
  pure { tables := tables, params := slice bs (8 + 16 * nt) (8 * np), rows := rows }

/-- The bytes before the first zero byte; none where there is none. -/
def cString : List Byte → Option (List Byte)
  | [] => none
  | b :: bs => if b = 0 then some [] else (cString bs).map (b :: ·)

/-- R38: one entry of a symbol section: its section code, value and name. -/
def readSymbol (entry area : List Byte) : Option (Nat × W64 × List Byte) := do
  let d0 := leW entry 0
  let sect := bitsOf d0 3 0
  let v := leW entry 8
  guard (bitsOf d0 31 4 == 0 && (decide (sect ≤ 2) || (sect == 15 && v == 0)))
  let name ← cString (area.drop (bitsOf d0 63 32))
  pure (sect, v, name)

/-- R38: the symbols of a section. DESIGN CHOICE, unsafe (entry 62): a section longer than its string area is refused. -/
def readSymbols (bs : List Byte) : Option (List (Nat × W64 × List Byte)) := do
  let n := le bs 0 4
  guard (decide (8 ≤ bs.length) && bs.length == 8 + 16 * n + le bs 4 4)
  (List.range n).mapM fun i => readSymbol (slice bs (8 + 16 * i) 16) (bs.drop (8 + 16 * n))

/-- R39: what `llyn-fin` made of Vrelmufa sections, by check value. -/
abbrev Finals := List (BitVec 32 × Option (List Byte))

/-- R39: the cached result of a Vrelmufa section. -/
def Finals.get (c : Finals) (v : List Byte) : Option (Option (List Byte)) := (c.find? fun p => p.1 == crc32 v).map (·.2)

/-- R39: the cache with the Vrelmufa section of a kernel that has no native E2 section finalised, where it is not cached yet. A hit by
check value is taken whatever header the cached result was made for: DESIGN CHOICE, unsafe (entry 62). -/
def Finals.add (ss : List Section) (c : Finals) (k : Nat) : Finals :=
  match sectionOf ss k 3, sectionOf ss k 4, sectionOf ss k 1 with
  | none, some v, some header => if (c.get v).isSome then c else (crc32 v, Config.finalise header v) :: c
  | _, _, _ => c

/-- R39: the code that the driver chooses for a kernel: native E2, else what `llyn-fin` made of Vrelmufa. -/
def chooseCode (c : Finals) (ss : List Section) (k : Nat) : Option (List Byte) :=
  match sectionOf ss k 3 with
  | some n => some n
  | none => (sectionOf ss k 4).bind fun v => (c.get v).join

/-- A section that may be absent, and passes a check where it is there. -/
def optSection (ss : List Section) (k ty : Nat) (good : List Byte → Bool) : Option (List Byte) :=
  match sectionOf ss k ty with
  | none => some []
  | some b => if good b then some b else none

/-- R36 to R39: the kernel of index k of a container, as it is loaded; none where the load is refused. DESIGN CHOICE, unsafe (entry
62): a kernel without a symbol section, or whose section names no kernel, loads under an empty name, and a test section whose table
records do not match the binding templates is judged at the test launch. -/
def readKernel (c : Finals) (ss : List Section) (world : BitVec 16) (tenant : BitVec 64) (k : Nat) : Option Kernel := do
  let hb ← sectionOf ss k 1
  let h ← readHeader hb
  let code ← chooseCode c ss k
  guard (nativeFits h code)
  let temps ← readTemplates h ((sectionOf ss k 5).getD [])
  let lv ← optSection ss k 6 (levelsGood h)
  let test ← optSection ss k 7 fun b => (readTest b).isSome
  let syms ← match sectionOf ss k 8 with
    | some b => readSymbols b
    | none => some []
  let name := ((syms.find? fun y => y.1 == 15).map (·.2.2)).getD []
  pure { handle := 0, world := world, tenant := tenant, name := name, header := h, scode := readS h code, lcode := readL h code
         consts := code.drop (4 * h.ssize + h.lbytes), temps := temps, levels := lv, test := test, unloaded := false }

/-- The kernel indices of a container, rising. -/
def kernelIndices (ss : List Section) : List Nat :=
  (ss.map (·.kernel)).foldl (fun l k => if l.contains k then l else (l.filter fun x => decide (x < k)) ++ [k]
    ++ l.filter fun x => decide (k < x)) []

/-- R39: a loaded kernel gets its handle. -/
def addKernel (s : State) (K : Kernel) : BitVec 32 × State :=
  let d := s.drawUnused (s.drv.kernels.map fun k => k.handle.toNat) 1 (2 ^ 32 - 1)
  let h := BitVec.ofNat 32 d.1
  (h, { d.2 with drv := { d.2.drv with kernels := d.2.drv.kernels ++ [{ K with handle := h }] } })

/-- Loads kernels one after the other; the reply names each by handle and name. -/
def addKernels (s : State) : List Kernel → List Byte × State
  | [] => ([], s)
  | K :: Ks =>
    let a := addKernel s K
    let b := addKernels a.2 Ks
    (natToBytes 4 a.1.toNat ++ K.name ++ [0] ++ b.1, b.2)

/-- R36 to R39: loads a container for a world; the reply names its kernels. A refused load keeps none of the results that it has just
finalised: DESIGN CHOICE, unsafe (entry 62). -/
def loadContainer (s : State) (world : BitVec 16) (tenant : BitVec 64) (body : List Byte) : Ans :=
  match readContainer body with
  | none => malformed
  | some ss =>
    let c : Finals := (kernelIndices ss).foldl (Finals.add ss) s.drv.finals
    match (kernelIndices ss).mapM (readKernel c ss world tenant) with
    | none => malformed
    | some Ks =>
      let r := addKernels { s with drv := { s.drv with finals := c } } Ks
      .yes r.2 r.1

/-- LOAD (R36 to R39, R327): the world of the context that the request names owns the kernels; the world 0 where it names none. -/
def execLoad (m : Msg) (s : State) : Host.Outcome State Fault Refusal :=
  request s m fun tenant =>
    if m.ctx = 0 then loadContainer s 0 tenant m.body
    else withContext s m tenant fun C => loadContainer s C.world tenant m.body

/-- R326: the kernel that a request names: the tenant holds the world that owns it, or loaded it for none (log entry 16). -/
def withKernel (s : State) (h : BitVec 32) (tenant : BitVec 64) (f : Kernel → Ans) : Ans :=
  match s.kernel? h with
  | none => .no 2
  | some K =>
    if K.unloaded then .no 2
    else if (if K.world = 0 then K.tenant == tenant else holdsWorld s tenant K.world) then f K else .no 3

/-- UNLOAD (R327): the reply follows the last launch of the kernel. -/
def execUnload (m : Msg) (s : State) : Host.Outcome State Fault Refusal :=
  request s m fun tenant =>
    if m.body.length ≠ 4 then malformed
    else
      let h := BitVec.ofNat 32 (le m.body 0 4)
      withKernel s h tenant fun _ => .later s (.unload h)

/-- LEVELS (R38, R327). DESIGN CHOICE, unsafe (entry 62): a kernel without a level template is answered with an empty body. -/
def execLevels (m : Msg) (s : State) : Host.Outcome State Fault Refusal :=
  request s m fun tenant =>
    if m.body.length ≠ 4 then malformed
    else withKernel s (BitVec.ofNat 32 (le m.body 0 4)) tenant fun K => .yes s K.levels

/-- WAIT (R327, R332, R353). -/
def execWait (m : Msg) (s : State) : Host.Outcome State Fault Refusal :=
  request s m fun tenant =>
    if m.body.length ≠ 4 then malformed
    else
      let h := BitVec.ofNat 32 (le m.body 0 4)
      match s.launch? h with
      | none => .no 2
      | some La => if holdsWorld s tenant La.world then .later s (.launchDone h) else .no 3

end Sys2Proof.Machine
end

