-- ==== Sys2Proof/Machine/TableReq.lean ====
section
/-! DEFINITION. Client requests on tables and windows (R164, R327, R343, R344). -/

namespace Sys2Proof.Machine

/-! ### Creating a table -/

/-- R174: a format range that a row of a width may declare. -/
def rangeGood (width : Nat) (r : BitVec 32) : Bool :=
  decide (rangeFmt r ≤ 2) && !r.getLsbD 15 && decide (4 ≤ rangeLen r) && decide (rangeStart r + rangeLen r ≤ width)
  && (rangeFmt r != 2 || (rangeStart r % 8 == 0 && rangeLen r % 40 == 0))

/-- R174: format ranges do not overlap. -/
def rangesApart : List (BitVec 32) → Bool
  | [] => true
  | r :: rs =>
    rs.all (fun q => decide (rangeStart r + rangeLen r ≤ rangeStart q) || decide (rangeStart q + rangeLen q ≤ rangeStart r))
      && rangesApart rs

/-- R164: the descriptor of a TABLE_CREATE body, owned by a world, before it has an id and slabs. -/
def readDesc (bs : List Byte) (world : BitVec 16) : Option Desc :=
  let d0 := leW bs 0
  let d1 := leW bs 8
  let d : Desc :=
    { id := 0, kind := d0.extractLsb' 29 3, k128 := d0.getLsbD 28, multi := d0.getLsbD 27, leaf := d0.extractLsb' 24 3
      homed := d0.getLsbD 23, home := d0.extractLsb' 18 5, width := 32 * (bitsOf d0 10 0 + 1), owner := world
      nranges := bitsOf d1 47 44, size := bitsOf d1 39 0, root := 0, nslabs := 0, slab0 := 0
      ranges := (List.range 8).map fun k => BitVec.ofNat 32 (le bs (16 + 4 * k) 4) }
  if bs.length = 48 ∧ bitsOf d0 63 32 = 0 ∧ bitsOf d0 17 11 = 0 ∧ bitsOf d1 43 40 = 0 ∧ d.nranges ≤ 8
      ∧ shapeGood d.kind d.k128 d.multi d.leaf ∧ d.fmtRanges.all (rangeGood d.width) ∧ rangesApart d.fmtRanges then some d
  else none

/-- R170: the slabs that a table needs. -/
def Desc.slabsNeeded (d : Desc) : Nat :=
  if d.isArray then (d.rows * d.width + 65535) / 65536 else (d.rows + d.perSlab - 1) / d.perSlab

/-- R166, R168: a table as it is created: no index entry, an ORDERED index of one empty leaf. -/
def blankTable (d : Desc) (pool : Nat) : Table :=
  { desc := d, rows := [], slots := [], hash := []
    leaves := if d.kind == kindOrdered then [{ low := none, entries := [] }] else [], inner := [], pool := pool, absent := []
    owners := [], moves := [], sealed := none, bad := [], weak := [], retired := false }

/-- The tables of this module that are not retired: they hold slabs. -/
def slabOwners (s : State) : List Table := s.mem.tables.filter fun t => !t.retired && idModule t.desc.id == s.drv.module

/-- R164: slab numbers from `a` on that no table holds, where they fit the 32 bits of slab0. -/
def slabsFree (s : State) (n a : Nat) : Bool :=
  decide (a + n ≤ 2 ^ 32) && (slabOwners s).all fun t =>
    n == 0 || t.desc.nslabs == 0 || decide (a + n ≤ t.desc.slab0) || decide (t.desc.slab0 + t.desc.nslabs ≤ a)

/-- R164: the first slab of a new table: the number drawn, or, where slabs from it are held, the lowest that ends a table. -/
def placeSlabs (s : State) (n a : Nat) : Option Nat :=
  (a :: 0 :: (slabOwners s).map fun t => t.desc.slab0 + t.desc.nslabs).find? (slabsFree s n)

/-- R11: slabs of 64 KiB in the HBM of one C-die. -/
def slabsPerDie : Nat := 1572864

/-- R170: how many slabs of a table home on a die. -/
def Desc.slabsOn (d : Desc) (die : Nat) : Nat :=
  if d.homed then (if d.home.toNat = die then d.nslabs else 0)
  else d.nslabs / 32 + (if (die + 32 - bitsOf (d.id.setWidth 64) 4 0) % 32 < d.nslabs % 32 then 1 else 0)

/-- R11, R170: every die has room for the slabs that home on it. -/
def dieRoom (s : State) (d : Desc) : Bool :=
  (List.range 32).all fun die => decide ((slabOwners s).foldl (fun n t => n + t.desc.slabsOn die) (d.slabsOn die) ≤ slabsPerDie)

/-- R163, R164: creates a table from a descriptor: its index in the directory, its slabs, its index root and its node pool are
free; the pool holds at least the two nodes that R324 needs (log entry 8). None where the module has no room. -/
def createTable (s : State) (d : Desc) : Option (BitVec 32 × State) :=
  let n := d.slabsNeeded
  let used := (s.mem.dir.filter fun p => idModule p.1 == s.drv.module).map fun p => (p.1.extractLsb' 0 19).toNat
  if 2 ^ 19 - 1 ≤ used.length then none
  else
    let i := s.drawUnused used 1 (2 ^ 19 - 1)
    let a := i.2.draw
    let b := a.2.draw
    let c := b.2.draw
    let s := c.2
    let id : BitVec 32 := s.drv.module ++ BitVec.ofNat 19 i.1
    match placeSlabs s n (a.1 % 2 ^ 32) with
    | none => none
    | some slab0 =>
      let d := { d with id := id, root := BitVec.ofNat 64 b.1, nslabs := n, slab0 := slab0 }
      let v := s.mem.tables.length
      if dieRoom s d then
        some (id, { s with mem := { s.mem with tables := s.mem.tables ++ [blankTable d (2 + c.1)], dir := (id, v) :: s.mem.dir } })
      else none

/-- TABLE_CREATE (R164, R327): the owner is the context's world. -/
def execTableCreate (m : Msg) (s : State) : Host.Outcome State Fault Refusal :=
  request s m fun tenant =>
    withContext s m tenant fun C =>
      match readDesc m.body C.world with
      | none => malformed
      | some d =>
        match createTable s d with
        | none => .no 4
        | some (id, s) => .yes s (natToBytes 4 id.toNat)

/-! ### Reaching tables -/

/-- R326, R343: the tenant holds the world that owns the table, or one that a window grants the right over bytes of it. -/
def mayReach (s : State) (tenant : BitVec 64) (id : BitVec 32) (t : Table) (r : Right) : Bool :=
  holdsWorld s tenant t.desc.owner ||
  s.mem.windows.any fun p => p.2.st == .active && p.2.owner == t.desc.owner && p.2.table == id && p.2.has r
    && holdsWorld s tenant p.2.grantee

/-- R343: the tenant reaches bytes of a table with a right: as holder of its owner, or through a window that covers them. -/
def mayTouch (s : State) (tenant : BitVec 64) (id : BitVec 32) (t : Table) (r : Right) (addr n : Nat) : Bool :=
  let q := t.winRange addr n
  holdsWorld s tenant t.desc.owner ||
  s.mem.windows.any fun p => p.2.st == .active && p.2.owner == t.desc.owner && p.2.table == id && p.2.has r
    && holdsWorld s tenant p.2.grantee && decide (p.2.lo.toNat ≤ q.1) && decide (q.2 ≤ p.2.hi.toNat)

/-- R327, R371: a request on a table of another module is passed on to that module, which answers it; no module has a number of 6,144 or
more. -/
def forward (s : State) (m : Msg) (tenant : BitVec 64) (module : BitVec 13) : Ans :=
  if 6144 ≤ module.toNat then .no 2
  else
    let link := Config.linkTo module.toNat % Config.links
    let used := s.drv.pend.filterMap fun p => match p.1 with | .remote l k => if l = link then some k else none | _ => none
    let d := s.drawUnused used 0 (2 ^ 32 - 1)
    .later (d.2.post link tenant 0 (.client d.1 m)) (.remote link d.1)

/-- R327, R371: a request on a table is served here where the table is this module's, and passed on otherwise. -/
def served (s : State) (m : Msg) (tenant : BitVec 64) (id : BitVec 32) (k : Ans) : Ans :=
  if idModule id = s.drv.module then k else forward s m tenant (idModule id)

/-- R326: the table that a request names, which a right of the tenant must reach. -/
def withTable (s : State) (id : BitVec 32) (tenant : BitVec 64) (r : Right) (f : Nat → Table → Ans) : Ans :=
  match s.versionOf id with
  | none => .no 2
  | some v =>
    match s.table? v with
    | none => .no 2
    | some t => if mayReach s tenant id t r then f v t else .no 3

/-- R326: the table that a request names, whose owner world the tenant holds. -/
def withOwnTable (s : State) (id : BitVec 32) (tenant : BitVec 64) (f : Nat → Table → Ans) : Ans :=
  match s.versionOf id with
  | none => .no 2
  | some v =>
    match s.table? v with
    | none => .no 2
    | some t => if holdsWorld s tenant t.desc.owner then f v t else .no 3

/-- TABLE_RETIRE (R163, R327): the reply follows the last launch that binds it. -/
def execTableRetire (m : Msg) (s : State) : Host.Outcome State Fault Refusal :=
  request s m fun tenant =>
    if m.body.length ≠ 4 then malformed
    else
      let id := BitVec.ofNat 32 (le m.body 0 4)
      served s m tenant id <| withOwnTable s id tenant fun _ _ => .later s (.retire id)

/-! ### Rows -/

/-- R176: an insert by the driver, which makes a slab resident itself where one is needed. -/
def driverInsert (s : State) (v : Nat) (k : Key) : InsertRes :=
  match insertRow s v k with
  | .absent =>
    insertRow (((((s.table? v).map fun t => t.neededSlabs 1).getD []).map (Need.slab v)).foldl provide s) v k
  | r => r

/-- R322, R327: puts one row record into a table: an ARRAY row, or a row present under its key, is written where `may` allows its
bytes; another is inserted as a `KINS` without data inserts it, and written. An error without a cause is a want of permission. -/
def putRecord (s : State) (v : Nat) (may : Nat → Nat → Bool) (r : RowRec) : Except (Option Cause) State :=
  match s.table? v with
  | none => .error (some .noTable)
  | some t =>
    if t.desc.width < r.data.length then .error (some .colRange)
    else if !t.desc.k128 && decide (2 ^ 64 ≤ r.key.toNat) then .error (some .keyRange)
    else
      match if t.desc.unique then t.rowOf false r.key else .error .keyAbsent with
      | .ok row => if may row.addr r.data.length then .ok (writeHome s v row.addr r.data) else .error none
      | .error .keyAbsent =>
        match driverInsert s v r.key with
        | .done _ addr s => .ok (writeHome s v addr r.data)
        | .full c => .error (some c)
        | .present _ => .error (some .dupKey)
        | .absent => .error (some .tableFull)
      | .error c => .error (some c)

/-- Puts row records one after the other, in their order (R322). -/
def putRecords (s : State) (v : Nat) (may : Nat → Nat → Bool) : List RowRec → Except (Option Cause) State
  | [] => .ok s
  | r :: rs =>
    match putRecord s v may r with
    | .ok s => putRecords s v may rs
    | .error c => .error c

/-- R326: the refusal of an access to rows: by a cause, or for want of permission. -/
def refusedRows : Option Cause → Ans
  | some c => .no 5 (some c)
  | none => .no 3

/-- ROWS_WRITE (R38, R327, R343): a refused record leaves every row as it was. -/
def execRowsWrite (m : Msg) (s : State) : Host.Outcome State Fault Refusal :=
  request s m fun tenant =>
    let bs := m.body.drop 4
    match if 4 ≤ m.body.length then readRows (countRows bs.length bs) bs else none with
    | none => malformed
    | some rs =>
      let id := BitVec.ofNat 32 (le m.body 0 4)
      served s m tenant id <| withTable s id tenant .wr fun v t =>
        match putRecords s v (mayTouch s tenant id t .wr) rs with
        | .ok s => .yes s []
        | .error c => refusedRows c

/-- The row ids or keys of a ROWS_READ body. -/
def readKeys (k128 byRid : Bool) (bs : List Byte) : Option (List Key) :=
  let n := if k128 && !byRid then 16 else 8
  if bs.length % n = 0 then some ((List.range (bs.length / n)).map fun i => BitVec.ofNat 128 (le bs (n * i) n)) else none

/-- R327: the bytes of one row, where `may` allows them. -/
def rowAnswer (t : Table) (may : Nat → Nat → Bool) (byRid : Bool) (off n : Nat) (k : Key) : Except (Option Cause) (List Byte) :=
  if t.desc.width < off + n then .error (some .colRange)
  else
    match t.rowOf byRid k with
    | .ok r =>
      if !may (r.addr + off) n then .error none
      else if t.badData (r.addr + off) n then .error (some .eccUncorr)
      else .ok (t.bytes (r.addr + off) n)
    | .error c => .error (some c)

/-- R372: the errors that the rows of a `ROWS_READ` correct. -/
def rowsCorrect (s : State) (v : Nat) (t : Table) (byRid : Bool) (off n : Nat) (ks : List Key) : State :=
  ks.foldl (fun s k => match t.rowOf byRid k with | .ok r => s.correct v (r.addr + off) n | .error _ => s) s

/-- ROWS_READ (R327): the body holds the table id, byte offset, length, and 0 for keys or 1 for row ids, 4 bytes each, then the
list (log entry 50). -/
def execRowsRead (m : Msg) (s : State) : Host.Outcome State Fault Refusal :=
  request s m fun tenant =>
    if m.body.length < 16 then malformed
    else
      let id := BitVec.ofNat 32 (le m.body 0 4)
      served s m tenant id <| withTable s id tenant .rd fun v t =>
        let byRid := le m.body 12 4 == 1
        match readKeys t.desc.k128 byRid (m.body.drop 16) with
        | none => malformed
        | some ks =>
          match ks.mapM (rowAnswer t (mayTouch s tenant id t .rd) byRid (le m.body 4 4) (le m.body 8 4)) with
          | .ok bs => .yes (rowsCorrect s v t byRid (le m.body 4 4) (le m.body 8 4) ks) bs.flatten
          | .error c => refusedRows c

/-- TABLE_SWAP (R107, R327). -/
def execTableSwap (m : Msg) (s : State) : Host.Outcome State Fault Refusal :=
  request s m fun tenant =>
    if m.body.length ≠ 8 then malformed
    else
      let x := BitVec.ofNat 32 (le m.body 0 4)
      let y := BitVec.ofNat 32 (le m.body 4 4)
      served s m tenant x <| withOwnTable s x tenant fun vx tx =>
        withOwnTable s y tenant fun vy ty =>
          if tx.desc.owner ≠ ty.desc.owner then .no 5 (some .notOwner)
          else if kindsDiffer tx.desc ty.desc then .no 5 (some .kindMismatch)
          else .yes (swapTables s x y vx vy) []

/-! ### Windows -/

/-- R343: a window entry as a client writes it: active, no reserved bit set. -/
def readWindow (bs : List Byte) : Option Window :=
  let d0 := leW bs 0
  let d1 := leW bs 8
  if bs.length = 32 ∧ bitsOf d1 63 3 = 0 then
    some { owner := d0.extractLsb' 48 16, grantee := d0.extractLsb' 32 16, table := d0.extractLsb' 0 32, st := .active
           at_ := d1.getLsbD 2, wr := d1.getLsbD 1, rd := d1.getLsbD 0, lo := leW bs 16, hi := leW bs 24 }
  else none

/-- R343: window indices in use: those that are not revoked, and those whose revocation is not acknowledged. -/
def usedWindows (s : State) : List Nat :=
  (s.mem.windows.filter fun p => decide (p.1 < 4096) && (p.2.st != .revoked || s.drv.notices.any fun n => n.window == p.1 && !n.acked)).map (·.1)

/-- R343: writes a window at a free index; none where all 4,096 are in use. -/
def addWindow (s : State) (w : Window) : Option (Nat × State) :=
  let used := usedWindows s
  if 4096 ≤ used.length then none
  else
    let d := s.drawUnused used 0 4095
    some (d.1, { d.2 with mem := { d.2.mem with windows := insertNat d.1 w d.2.mem.windows } })

/-- R327: the authority of another tenant must have admitted the grant: that of the world's holder, or, for a world that nobody holds
on this module, some tenant's. -/
def authorityAdmits (s : State) (w : Window) : Bool :=
  match worldHolder s w.grantee with
  | some t => s.drv.grants.contains (t, w.owner, w.grantee, w.table)
  | none => s.drv.grants.any fun g => g.2 == (w.owner, w.grantee, w.table)

/-- R327: a grant of a tenant that needs no admission, since it holds the grantee world itself, or that has been admitted. -/
def grantAdmitted (s : State) (tenant : BitVec 64) (w : Window) : Bool :=
  worldHolder s w.grantee == some tenant || authorityAdmits s w

/-- R327, R343: the index of a new window as the client that asked for it names it: from another module, by its number (log entry 58). -/
def windowBody (s : State) (session : Nat) (i : Nat) : List Byte :=
  natToBytes 4 (if s.drv.sessions.any fun x => x.id == session && x.caller.isSome then windowNumber s.drv.module i else i)

/-- WINDOW_SET (R327, R343): a grant to another tenant's world is held until that tenant's authority has admitted it. -/
def execWindowSet (m : Msg) (s : State) : Host.Outcome State Fault Refusal :=
  request s m fun tenant =>
    match readWindow m.body with
    | none => malformed
    | some w =>
      served s m tenant w.table <| withOwnTable s w.table tenant fun _ t =>
        if t.desc.owner ≠ w.owner then .no 3
        else if !t.desc.isArray && !(w.lo == 0 && w.hi == BitVec.allOnes 64) then malformed
        else if grantAdmitted s tenant w then
          match addWindow s w with
          | none => .no 4
          | some (i, s) => .yes s (windowBody s m.session i)
        else .later s (.grant w)

/-- R344: a notice goes out on each virtual lane of a link that carries accesses of the grantee's tenant under the window, after the
replies that wait there; whether any are in flight on a lane is free. -/
def sendNotice (w : Nat) (holder : BitVec 64) (link : Nat) (s : State) (lane : Nat) : State :=
  let d := s.draw
  if d.1 % 2 = 0 then d.2
  else
    let n : Notice := { id := d.2.drv.notices.length, window := w, link := link, lane := lane, acked := false }
    ({ d.2 with drv := { d.2.drv with notices := d.2.drv.notices ++ [n] } } : State).post link holder lane
      (.notice n.id (windowNumber d.2.drv.module w))

/-- R344: the notices of a window on one link. -/
def sendNotices (w : Nat) (holder : Option (BitVec 64)) (s : State) (l : Nat × Link) : State :=
  match holder with
  | none => s
  | some h => if l.2.owners.any fun o => o.owner == h then (List.range 8).foldl (sendNotice w h l.1) s else s

/-- R344: the window is revoked at one point, and the notices go out. -/
def revokeWindow (s : State) (i : Nat) (w : Window) : State :=
  let s : State := { s with mem := { s.mem with windows := insertNat i { w with st := .revoked } s.mem.windows } }
  s.links.foldl (sendNotices i (worldHolder s w.grantee)) s

/-- WINDOW_REVOKE (R327, R344): the reply follows the last acknowledgement. A number from 4,096 up names a window of another module
(log entry 58). -/
def execWindowRevoke (m : Msg) (s : State) : Host.Outcome State Fault Refusal :=
  request s m fun tenant =>
    if m.body.length ≠ 4 then malformed
    else
      let i := le m.body 0 4
      if 4096 ≤ i then
        if i / 4096 - 1 = s.drv.module.toNat then .no 2
        else forward s { m with body := natToBytes 4 (i % 4096) } tenant (BitVec.ofNat 13 (min (i / 4096 - 1) 8191))
      else
      match lookupNat i s.mem.windows with
      | none => .no 2
      | some w =>
        if !holdsWorld s tenant w.owner then .no 3
        else if w.st = .revoked then .no 2
        else .later (revokeWindow s i w) (.revoke i)

/-- R344: a notice has been acknowledged. -/
def ackNotice (s : State) (notice : Nat) : State :=
  let ack := fun (n : Notice) => if n.id = notice then { n with acked := true } else n
  settle { s with drv := { s.drv with notices := s.drv.notices.map ack } }

/-- NOTICE_ACKNOWLEDGEMENT (R344). -/
def execNoticeAcknowledgement (notice : Nat) (s : State) : Host.Outcome State Fault Refusal :=
  event s (s.drv.notices.any fun n => n.id == notice && !n.acked) fun s => ackNotice s notice

/-- R343: the right that an operation needs. -/
def FabOp.right : FabOp → Right
  | .load => .rd
  | .store _ => .wr
  | _ => .at_

/-- R344: an access under a window that is revoked at its home fails where it has no reply yet. -/
def Ask.failUnder (s : State) (w : Window) (q : Ask) : Ask :=
  let range := ((s.table? q.ver).map fun t => t.winRange q.addr q.a.len).getD (q.addr, q.addr + q.a.len)
  if q.reply.isNone && q.a.table == w.table && q.world == w.grantee && w.has q.a.op.right && decide (w.lo.toNat ≤ range.1)
      && decide (range.2 ≤ w.hi.toNat) then
    { q with reply := some (causeCode .windowRevoked, []) }
  else q

/-- R344: this module issues under a window that is revoked at its home: whatever has no reply yet fails, and so does everything
after. -/
def noticeWindow (s : State) (number : Nat) : State :=
  match lookupNat number s.mem.windows with
  | none => s
  | some w =>
    { s with
      mem := { s.mem with windows := insertNat number { w with st := .revoked } s.mem.windows }
      links := s.links.map fun l => (l.1, { l.2 with asks := l.2.asks.map (Ask.failUnder s w) }) }

/-- REVOCATION_NOTICE (R344): the notice of a window of another module, by its number there; the acknowledgement goes back on the link
to that module. -/
def execRevocationNotice (notice : Nat) (s : State) : Host.Outcome State Fault Refusal :=
  match lookupNat notice s.mem.windows with
  | none => .next s
  | some w =>
    .next ((noticeWindow s notice).post (Config.linkTo (notice / 4096 - 1) % Config.links) ((worldHolder s w.grantee).getD 0) 0 (.ack notice))

/-- R327, R343: one reply that waits for a grant: where the grant has been admitted, the window is written, and the reply is ready
in its place. -/
def openGrant (q : List (ReplyWait × Reply) × State) (p : ReplyWait × Reply) : List (ReplyWait × Reply) × State :=
  match p.1 with
  | .grant w =>
    if authorityAdmits q.2 w then
      match addWindow q.2 w with
      | none => (q.1 ++ [(.ready, { p.2 with status := 4 })], q.2)
      | some (i, s) => (q.1 ++ [(.ready, { p.2 with body := windowBody s p.2.session i })], s)
    else (q.1 ++ [p], q.2)
  | _ => (q.1 ++ [p], q.2)

/-- R327, R343: the windows that waited for a grant that has been admitted are written, and their requests answered in their turn
(R326). -/
def openWanted (s : State) : State :=
  let q := s.drv.pend.foldl openGrant ([], s)
  settle { q.2 with drv := { q.2.drv with pend := q.1 } }

/-- GRANT_ADMISSION (R327): the authority of the tenant that holds the grantee world admits a grant. -/
def execGrantAdmission (tenant : BitVec 64) (owner grantee : BitVec 16) (table : BitVec 32) (s : State) :
    Host.Outcome State Fault Refusal :=
  event s ((s.tenant? tenant).isSome && !s.drv.grants.contains (tenant, owner, grantee, table)) fun s =>
    openWanted { s with drv := { s.drv with grants := s.drv.grants ++ [(tenant, owner, grantee, table)] } }

end Sys2Proof.Machine
end

