-- ==== Sys2Proof/Machine/LaunchReq.lean ====
section
/-! DEFINITION. Launches: the record and its entries (R329, R330), the refusals of R331, R165, R349 and R353, acceptance, and the test
loader (R33, R38, R322). -/

namespace Sys2Proof.Machine

/-! ### The record -/

/-- R329, R330: a launch record with its entries. -/
structure LaunchRec where
  queue   : Nat
  kernel  : BitVec 32
  world   : BitVec 16
  levels  : Levels
  counter : W64
  ptable  : BitVec 32
  poff    : Nat
  plen    : Nat
  tlimit  : Nat
  tshift  : Nat
  binds   : List Binding
  deps    : List Dependence
  deriving DecidableEq, Repr

/-- R330: a binding entry. -/
def readBinding (bs : List Byte) : Option Binding :=
  let d := leW bs 0
  if bitsOf d 31 7 = 0 then some { slot := d.extractLsb' 0 6, id := d.extractLsb' 32 32, ro := d.getLsbD 6 } else none

/-- R330: a dependence entry. -/
def readDependence (bs : List Byte) : Option Dependence :=
  let d0 := leW bs 0
  let d1 := leW bs 8
  if bitsOf d0 31 8 = 0 ∧ bitsOf d0 7 6 ≤ 1 ∧ d0.getLsbD 5 = false ∧ bitsOf d1 63 32 = 0 then
    some { producer := d0.extractLsb' 32 32, tile := bitsOf d0 7 6 == 1, cshift := bitsOf d0 4 0, base := bitsOf d1 31 0 }
  else none

/-- R331: bound domains do not narrow as the level number rises. -/
def widening : List Nat → Bool
  | a :: b :: rest => (b == 0 || decide (a ≤ b)) && widening (b :: rest)
  | _ => true

/-- R327, R329, R330: reads a LAUNCH body; none where it is malformed. -/
def readLaunch (body : List Byte) : Option LaunchRec := do
  let r := body.drop 1
  let d := fun k => leW r (8 * k)
  let nb := bitsOf (d 4) 63 56
  let nd := bitsOf (d 4) 55 48
  guard (decide (129 ≤ body.length) && r.length == 128 + 8 * nb + 16 * nd && decide (nb ≤ 64) && decide (nd ≤ 16))
  guard (bitsOf (d 0) 15 7 == 0 && bitsOf (d 0) 3 0 == 0 && bitsOf (d 3) 63 42 == 0 && bitsOf (d 4) 47 18 == 0
    && bitsOf (d 9) 63 5 == 0 && (List.range 6).all (fun k => d (10 + k) == 0) && decide (bitsOf (d 3) 41 32 ≤ 512))
  let levels ← readLevels (bitsOf (d 0) 6 4) (bitsOf (d 4) 17 0) ((List.range 4).map fun k => d (5 + k))
  let binds ← (List.range nb).mapM fun i => readBinding (slice r (128 + 8 * i) 8)
  let deps ← (List.range nd).mapM fun i => readDependence (slice r (128 + 8 * nb + 16 * i) 16)
  guard (widening levels.doms && distinct (binds.map fun b => b.slot.toNat))
  pure { queue := le body 0 1, kernel := (d 0).extractLsb' 32 32, world := (d 0).extractLsb' 16 16, levels := levels
         counter := d 1, ptable := (d 2).extractLsb' 32 32, poff := 8 * bitsOf (d 2) 31 0, plen := 8 * bitsOf (d 3) 41 32
         tlimit := bitsOf (d 3) 31 0, tshift := bitsOf (d 9) 4 0, binds := binds, deps := deps }

/-! ### Refusals -/

/-- A check of the driver: it passes, or refuses with a status and perhaps a cause. -/
abbrev Chk := Option (Nat × Option Cause)

/-- The first check that refuses. -/
def firstRefusal : List Chk → Chk
  | [] => none
  | c :: cs => match c with | some x => some x | none => firstRefusal cs

/-- A refusal where a test fails. -/
def must (ok : Bool) (status : Nat) (c : Option Cause := none) : Chk := if ok then none else some (status, c)

/-- R165, R330: the bindings of a launch: the templates that name a table, each replaced by an entry of its slot. -/
def mergedBinds (K : Kernel) (binds : List Binding) : List Binding :=
  let own := K.temps.filterMap fun t =>
    if t.id = 0 || binds.any (fun b => b.slot == t.slot) then none
    else some { slot := t.slot, id := t.id, ro := t.ro }
  own ++ binds

/-- R165: the world reaches the table, as its owner or through a window, be it under repair. -/
def worldReaches (s : State) (world : BitVec 16) (id : BitVec 32) (t : Table) : Bool :=
  world == t.desc.owner ||
  s.mem.windows.any fun p => p.2.st != .revoked && p.2.owner == t.desc.owner && p.2.grantee == world && p.2.table == id

/-- R165, R349: one binding. -/
def bindingChk (s : State) (K : Kernel) (world : BitVec 16) (b : Binding) : Chk :=
  match (s.versionOf b.id).bind fun v => s.table? v with
  | none => some (5, some .noTable)
  | some t =>
    let fits := (K.temps.find? fun q => q.slot == b.slot).all fun q =>
      q.kind == t.desc.kind.toNat && (q.ktype == 1) == t.desc.k128 && (q.width == 0 || q.width == t.desc.width)
    firstRefusal [must fits 5 (some .kindMismatch), must (worldReaches s world b.id t) 5 (some .notOwner),
                  must (t.sealed.isNone || b.ro) 5 (some .slotReadonly)]

/-- R165: a slot that the templates name has a table. -/
def templateChk (binds : List Binding) (q : Template) : Chk :=
  must (binds.any fun b => b.slot == q.slot) 5 (some .noTable)

/-- R331: an access that the owner has granted, whatever firmware must serve before it. -/
def Check.granted : Check → Bool
  | .fault _ => false
  | _ => true

/-- R228, R329, R331, R353: the completion counter: a table counter of scope `.mod` or `.dom` in a row that the launch can write
and that holds the status word and the time-accounting record too. -/
def counterChk (s : State) (binds : List Binding) (world : BitVec 16) (l : W64) : Chk :=
  let sc := (locScope l).toNat
  if !locKind l || l.getLsbD 59 || !(sc == 4 || sc == 5) then some (5, some .counterLoc)
  else
    match binds.find? fun b => b.slot == locSlot l with
    | none => some (5, some .noTable)
    | some b =>
      match (s.versionOf b.id).bind fun v => (s.table? v).map fun t => (v, t) with
      | none => some (5, some .noTable)
      | some (v, t) =>
        let a := locKey l * t.desc.width + locOff l
        firstRefusal [must (!b.ro) 5 (some .slotReadonly), must t.desc.isArray 5 (some .kindMismatch),
          must (decide (locKey l < t.desc.rows)) 5 (some .keyRange),
          must (decide (locOff l + 80 ≤ t.desc.width)) 5 (some .colRange),
          must ((accessCheck s v t world .wr a 80).granted && (accessCheck s v t world .at_ a 8).granted) 5 (some .notOwner)]

/-- R329: the parameter block: bytes of an ARRAY table that the world may read. -/
def paramChk (s : State) (r : LaunchRec) : Chk :=
  if r.plen = 0 then none
  else
    match (s.versionOf r.ptable).bind fun v => (s.table? v).map fun t => (v, t) with
    | none => some (2, none)
    | some (v, t) =>
      firstRefusal [must t.desc.isArray 5 (some .kindMismatch),
        must (decide (r.poff + r.plen ≤ t.desc.rows * t.desc.width)) 5 (some .keyRange),
        must (accessCheck s v t r.world .rd r.poff r.plen).granted 3]

/-- R331: the workgroups of one instance of every level bound to a cluster or a die fit the 16 cores of a die. -/
def clustersFit (h : Header) (l : Levels) : Bool :=
  (List.range l.extents.length).all fun i =>
    decide (i < 2) || !(l.doms.getD (i - 2) 0 == 2 || l.doms.getD (i - 2) 0 == 3)
      || decide (((l.extents.take i).drop 1).foldl (· * ·) 1 ≤ 16 * perCore h)

/-- R328: the queue is opened to the tenant. -/
def queueOpen (s : State) (q : Nat) (tenant : BitVec 64) : Bool :=
  match lookupNat q s.drv.queues with
  | some (_, some t) => t == tenant
  | _ => true

/-- R328: the priority of a queue. -/
def queuePrio (s : State) (q : Nat) : Nat := ((lookupNat q s.drv.queues).map (·.1)).getD 0

/-- R326, R330: a producer is a launch whose world the tenant holds. -/
def producerChk (s : State) (tenant : BitVec 64) (d : Dependence) : Chk :=
  match s.launch? d.producer with
  | none => some (2, none)
  | some P => must (holdsWorld s tenant P.world) 3

/-- R20, R331, R340: what the kernel and the levels decide. -/
def levelChk (h : Header) (l : Levels) : Chk :=
  firstRefusal [must (l.extents.head? == some h.groups) 1, must (decide ((l.extents.drop 1).foldl (· * ·) 1 ≤ 2 ^ 32)) 1,
    must (decide (1 ≤ perCore h)) 4, must (clustersFit h l) 4]

/-- R331: every refusal of a launch. -/
def launchChk (s : State) (tenant : BitVec 64) (C : Context) (K : Kernel) (r : LaunchRec) : Chk :=
  let binds := mergedBinds K r.binds
  firstRefusal ([must (decide (r.queue < 64)) 2, must (queueOpen s r.queue tenant) 3, must (r.world == C.world) 3,
      levelChk K.header r.levels]
    ++ r.deps.map (producerChk s tenant) ++ K.temps.map (templateChk binds) ++ binds.map (bindingChk s K r.world)
    ++ [must (decide (K.header.psize ≤ r.plen)) 1, paramChk s r, counterChk s binds r.world r.counter])

/-! ### Acceptance -/

/-- R329: the driver's copy of the parameter block. -/
def paramCopy (s : State) (r : LaunchRec) : List Byte :=
  match (s.versionOf r.ptable).bind s.table? with
  | some t => t.bytes r.poff r.plen
  | none => []

/-- R328, R330, R353: a launch as it is accepted; how long its request has been on its way through the driver is free. -/
def acceptLaunch (s : State) (C : Context) (K : Kernel) (r : LaunchRec) (params : List Byte) (test : Bool) :
    BitVec 32 × State :=
  let q := s.draw
  let call : W64 := BitVec.ofNat 64 (q.1 % (s.time.clock.toNat + 1))
  let d := q.2.drawUnused (s.drv.launches.map fun l => l.handle.toNat) 1 (2 ^ 32 - 1)
  let h := BitVec.ofNat 32 d.1
  let La : Launch :=
    { handle := h, queue := r.queue, prio := queuePrio s r.queue, ctx := C.handle, kernel := K.handle, world := r.world
      extents := r.levels.extents, doms := r.levels.doms, params := params, counter := r.counter
      binds := mergedBinds K r.binds, deps := r.deps, tlimit := r.tlimit, tshift := r.tshift, started := none, begun := []
      done := [], counted := 0, status := none
      acct := { fields := [s.time.clock - call, 0, call, 0, 0, 0, 0, 0] }, test := test, io := false }
  (h, { d.2 with drv := { d.2.drv with launches := d.2.drv.launches ++ [La] } })

/-- LAUNCH (R327 to R331, R353). -/
def execLaunch (m : Msg) (s : State) : Host.Outcome State Fault Refusal :=
  request s m fun tenant =>
    withContext s m tenant fun C =>
      match readLaunch m.body with
      | none => malformed
      | some r =>
        withKernel s r.kernel tenant fun K =>
          match launchChk s tenant C K r with
          | some (n, c) => .no n c
          | none =>
            let a := acceptLaunch s C K r (paramCopy s r) false
            .yes a.2 (natToBytes 4 a.1.toNat)

/-! ### The test loader -/

/-- R33, R38, R164: the descriptor of a table record, owned by a world. -/
def testDesc (t : TestTable) (world : BitVec 16) : Desc :=
  { id := 0, kind := t.kind, k128 := t.k128, multi := t.multi, leaf := t.leaf, homed := t.homed, home := t.home, width := t.width
    owner := world, nranges := 0, size := t.size, root := 0, nslabs := 0, slab0 := 0, ranges := List.replicate 8 0 }

/-- R33, R322: builds the tables of a test section with their rows, in their order; the bindings that name them. -/
def buildTables (s : State) (world : BitVec 16) (rows : List RowRec) : List TestTable → Option (List Binding × State)
  | [] => some ([], s)
  | t :: ts => do
    let c ← createTable s (testDesc t world)
    let v ← c.2.versionOf c.1
    let s ← match putRecords c.2 v (fun _ _ => true) (rows.filter fun r => r.slot == t.slot) with
      | .ok s => some s
      | .error _ => none
    let r ← buildTables s world rows ts
    pure ({ slot := t.slot, id := c.1, ro := false } :: r.1, r.2)

/-- R33: the read-only flag of a binding to a test table is its template's. -/
def templateRo (K : Kernel) (b : Binding) : Binding :=
  { b with ro := ((K.temps.find? fun q => q.slot == b.slot).map (·.ro)).getD false }

/-- R33: a test launch of a kernel: its context, tables, levels and parameters; none where it is refused. DESIGN CHOICE, unsafe
(entry 62): a kernel without a test section is launched with no tables and no parameters. -/
def testLaunch (s : State) (tenant : BitVec 64) (world : BitVec 16) (K : Kernel) : Option State := do
  let T ← if K.test.isEmpty then some { tables := [], params := [], rows := [] } else readTest K.test
  let levels ← templateLevels K.levels
  let p ← match pickWorld s tenant world with
    | .ok p => some p
    | .error _ => none
  let c := newContext p.2 tenant p.1
  let C ← c.2.context? c.1
  let b ← buildTables c.2 p.1 T.rows T.tables
  let s := b.2
  let r : LaunchRec :=
    { queue := 0, kernel := K.handle, world := p.1, levels := levels, counter := 0, ptable := 0, poff := 0
      plen := T.params.length, tlimit := 0, tshift := 0, binds := b.1.map (templateRo K), deps := [] }
  let binds := mergedBinds K r.binds
  guard (firstRefusal ([must (widening levels.doms) 1, levelChk K.header levels] ++ K.temps.map (templateChk binds)
    ++ binds.map (bindingChk s K p.1) ++ [must (decide (K.header.psize ≤ r.plen)) 1])).isNone
  pure (acceptLaunch s C K r T.params true).2

/-- TEST_LAUNCH (R33, R322): the test loader builds and launches in a context made for this launch alone, which ends with it. -/
def execTestLaunch (tenant : BitVec 64) (world : BitVec 16) (kernel : BitVec 32) (s : State) :
    Host.Outcome State Fault Refusal :=
  match s.tenant? tenant, s.kernel? kernel with
  | some _, some K =>
    if s.time.boot = .running ∧ K.tenant = tenant ∧ K.unloaded = false then .next ((testLaunch s tenant world K).getD s) else .next s
  | _, _ => .next s

end Sys2Proof.Machine
end

