-- ==== Sys2Proof/Machine/Traps.lean ====
section
/-! DEFINITION. CSRs, the SYS words, SLEEP, MARK, TRAPL and MARKL, and the events that bring traps (R282, R283, R291 to R296, R332,
R357). -/

namespace Sys2Proof.Machine

/-! ### CSRs -/

/-- R291: a CSR that user mode may read. -/
def csrUser (c : Nat) : Bool := decide (c ≤ 5)

/-- R291: a CSR that may be written; in user mode, TRAPBASE and TIMER alone. -/
def csrWritable (handler : Bool) (c : Nat) : Bool :=
  c == 0 || c == 3 || (handler && ((decide (8 ≤ c) && decide (c ≤ 11)) || decide (0x401 ≤ c)))

/-- R291: what a CSR holds. -/
def csrValue (E : Env) (c : Nat) : W64 :=
  let T := E.G.T
  match c with
  | 0 => T.trapbase.setWidth 64
  | 1 => T.cause.setWidth 64
  | 2 => T.frameId ++ T.traps
  | 3 => T.timer
  | 4 => E.C.bankKey.setWidth 64
  | 5 => E.C.dbgctl.setWidth 64
  | _ => if c < 0x400 then T.hsave.getD (c - 8) 0 else T.frame.getD (c - 0x400) 0

/-- R127: the reserved bits of doubleword k of a split entry. -/
def splitReserved (k : Nat) : W64 :=
  match k with
  | 0 => 0xC000000000000000 | 1 => 0xFFFFFC000000E0FF | 2 => 0xFFF0000000000000 | 3 => 0xFFFFFFF000000000 | _ => 0

/-- R285 to R288: the reserved bits of doubleword n of the frame. -/
def frameReserved (n : Nat) : W64 :=
  if n < 8 then
    match n with
    | 0 => 0xFFFFFFFFFFF8FF00 | 2 => 0xFFE0000000000000 | 3 => 0xFF00000000000000 | 6 => 0xFFFF800000000000
    | 7 => 0xFFFFFFFFFFFFFFFF | _ => 0
  else if n < 20 then (match (n - 8) % 3 with | 0 => 0xFFF0000000000000 | 1 => 0 | _ => 0xFFFFFFFFFFFF0000)
  else if n < 68 then splitReserved ((n - 20) % 6)
  else if n < 116 then 0
  else if n < 124 then 0xFFFFFFFFFC000000
  else if n = 124 then 0x00000000FFFFFF80
  else if (n - 125) % 3 = 0 then 0xF800000000000000 else 0

/-- R291, R293: the reserved bits of a CSR. -/
def csrReserved (c : Nat) : W64 :=
  if c = 0 then 0xFFFFFFFFFC000000 else if 0x400 ≤ c then frameReserved (c - 0x400) else 0

/-- R291: writes a CSR. -/
def Group.setCsr (G : Group) (c : Nat) (v : W64) : Group :=
  let T := G.T
  { G with T :=
      if c = 0 then { T with trapbase := pc26 v }
      else if c = 3 then { T with timer := v }
      else if c < 0x400 then { T with hsave := T.hsave.set (c - 8) v }
      else { T with frame := T.frame.set (c - 0x400) v } }

/-- CSRR (R291, R293). -/
def execCsrr (d : BitVec 6) (c : BitVec 12) (s : State) : Host.Outcome State Fault Refusal :=
  sWord s fun E =>
    if !csrUser c.toNat && !E.G.T.handler then .fail .privileged
    else .group s E fun G => G.wS d (csrValue E c.toNat)

/-- CSRW (R291, R293). -/
def execCsrw (a : BitVec 6) (c : BitVec 12) (s : State) : Host.Outcome State Fault Refusal :=
  sWord s fun E =>
    let v := E.G.rS a
    if !csrWritable E.G.T.handler c.toNat then .fail .privileged
    else if v &&& csrReserved c.toNat ≠ 0 then .fail .csrValue (c.setWidth 64) v
    else .group s E fun G => G.setCsr c.toNat v

/-! ### SYS -/

/-- TRAP (R294). -/
def execTrap (n : BitVec 16) (s : State) : Host.Outcome State Fault Refusal :=
  sWord s fun _ => .after { cause := .userTrap, kind := .after, d0 := n.setWidth 64 } s

/-- ERET (R290, R294): the frame is checked once, before the implied `LWAIT`. -/
def execEret (s : State) : Host.Outcome State Fault Refusal :=
  sWord s fun E =>
    if !E.G.T.handler then .fail .privileged
    else if E.G.S.stall != .implied && !frameOk E.G then .fail .frameBad
    else impliedWait s E fun s E => .left (returnFromTrap s E)

/-- HALT (R294): the context ends with the frame's cause as the inner one. -/
def execHalt (s : State) : Host.Outcome State Fault Refusal :=
  sWord s fun E =>
    if E.G.T.handler then
      .left (endContext s E.La.ctx (causeCode .halted) ((E.G.T.frame.getD 0 0).extractLsb' 0 8) E.G.T.frame)
    else .fail .privileged

/-- BRK (R294): a trap of kind A, or a debug stop after the word where breakpoints are armed. -/
def execBrk (s : State) : Host.Outcome State Fault Refusal :=
  sWord s fun E =>
    if E.C.dbgctl.getLsbD 3 then .left (debugStop (s.modGroup E.w E.g Group.retire) E.w E.g .breakpoint)
    else .after { cause := .breakpoint, kind := .after } s

/-- YIELD (R294): no architectural effect. -/
def execYield (s : State) : Host.Outcome State Fault Refusal := sWord s fun _ => .done s

/-! ### SLEEP and MARK -/

/-- SLEEP (R295): 64n clk of residence. -/
def execSleep (n : BitVec 20) (s : State) : Host.Outcome State Fault Refusal :=
  sWord s fun _ => if n = 0 then .done s else .wait (.sleep (s.time.clk + 64 * n.toNat)) s

/-- SLEEP_END (R295). -/
def execSleepEnd (wg g : Nat) (s : State) : Host.Outcome State Fault Refusal :=
  groupEvent s wg g (fun E => match E.G.S.stall with | .sleep until_ => decide (until_ ≤ s.time.clk) | _ => false)
    fun _ s => s.modGroup wg g Group.retire

/-- MARK (R295, R357). -/
def execMark (n : BitVec 20) (s : State) : Host.Outcome State Fault Refusal :=
  sWord s fun E => .done (emitMark s E.w E.g 0 false n.toNat)

/-- MARKL (R357). -/
def execMarkl (o : LOp) (s : State) : Host.Outcome State Fault Refusal :=
  lWord s 0xC3 o true fun x s =>
    .done (if x.act = 0 then s else emitMark s x.E.w x.E.g x.e true (x.o.imm.extractLsb' 0 20).toNat)

/-- TRAPL (R296). -/
def execTrapl (o : LOp) (s : State) : Host.Outcome State Fault Refusal :=
  lWord s 0xC2 o true fun x s =>
    if x.act = 0 then .done s
    else
      .after (x.info .userTrap .after x.act ((x.o.imm.extractLsb' 0 16).setWidth 64))
        (x.mod s fun G => G.modSplit x.e fun p => { p with lpc := p.lpc + 1 })

/-! ### Events that bring traps -/

/-- TIMER (R282): CLOCK is at or past a nonzero deadline: TIMER becomes 0 and the event is pending. -/
def execTimer (wg g : Nat) (s : State) : Host.Outcome State Fault Refusal :=
  groupEvent s wg g (fun E => E.G.T.timer != 0 && decide (E.G.T.timer.toNat ≤ s.time.clock.toNat)) fun E s =>
    s.modGroup wg g fun G => { G with T := { G.T with timer := 0, pending := some (.timer E.G.T.timer) } }

/-- The trap that waits to be entered in a group: one that words of the group hold up (R279), else a pending event outside
handler mode (R282). -/
def waitingTrap (s : State) (G : Group) : Option TrapInfo :=
  match G.T.entry with
  | some t => some t
  | none =>
    match G.T.pending with
    | some (.timer deadline) =>
      if G.T.handler then none
      else some { cause := .timer, kind := .event, d0 := deadline, d1 := s.time.clock }
    | none => none

/-- R112, R280: the split whose word, of those that have issued and will trap, was the first to issue. -/
def Group.firstFlags (G : Group) : Option Nat :=
  ((entryList.filter fun e => (G.split e).wait.trapDue).foldl (fun l e => insertNat (G.split e).stamp e l) []).head?.map (·.2)

/-- R73, R112, R280: the flags of a word that has issued are known; the group takes the trap of the first of its words that
trap. -/
def flagsKnown (s : State) (w g : Nat) : State :=
  match envAt s w g with
  | none => s
  | some E =>
    match E.G.firstFlags.map fun e => (E.G.split e).wait with
    | some (.flags t _) => if E.issues then takeTrap s w g t else s
    | _ => s

/-- R280: a word of the group that issued later than one that will trap traps itself: it stands unissued, and the first is taken. -/
def firstTrap (s : State) (E : Env) (s' : State) : State :=
  if E.G.firstFlags.isSome && (s'.group? E.w E.g).any fun G =>
      G.T.traps != E.G.T.traps || G.T.entry.isSome || G.fin == .killed then flagsKnown s E.w E.g
  else s'

/-- TRAP_ENTRY (R279, R282, R283): the words that had issued are complete, and the trap or the pending event is entered. -/
def execTrapEntry (wg g : Nat) (s : State) : Host.Outcome State Fault Refusal :=
  match envAt s wg g with
  | none => .next s
  | some E =>
    match waitingTrap s E.G with
    | none => .next s
    | some t =>
      event s (E.W.place == .active && E.G.fin == .running && E.G.stopped.isNone && !E.G.inFlight && E.G.firstFlags.isNone) fun s =>
        let clear := fun (G : Group) =>
          { G with T := { G.T with entry := none, pending := if G.T.entry.isSome then G.T.pending else none } }
        takeTrap (s.modGroup wg g clear) wg g t

/-- TIME_LIMIT (R329, R332): the time limit of a launch, in ms from its first workgroup start, has passed. -/
def execTimeLimit (launch : BitVec 32) (s : State) : Host.Outcome State Fault Refusal :=
  match s.launch? launch with
  | none => .next s
  | some La =>
    event s (La.status.isNone && La.tlimit != 0
        && La.started.any fun t => decide (t.toNat + 1000000 * La.tlimit ≤ s.time.clock.toNat)) fun s =>
      endContext s La.ctx (causeCode .timeLimit) 0 []

end Sys2Proof.Machine
end

