-- ==== Sys2Proof/Machine/Debug.lean ====
section
/-! DEFINITION. Debugging and trace (R327, R354 to R362): the DEBUG requests, stops and holds, SYNC and LOSS. The spec lays down the
subcodes and what they do; the layout of their operands is the model's (log entry 50). -/

namespace Sys2Proof.Machine

/-! ### The debug right -/

/-- R326, R327: the context of a DEBUG request of subcodes 3 to 8: this session holds its debug right. -/
def withDebug (s : State) (m : Msg) (tenant : BitVec 64) (f : Context → Ans) : Ans :=
  withContext s m tenant fun C => if C.right = some m.session then f C else .no 3

/-- DEBUG_GRANT_RIGHT (R292, R327): the owner tenant grants the right to this session; DBGCTL.dbg shows it. -/
def execDebugGrantRight (m : Msg) (s : State) : Host.Outcome State Fault Refusal :=
  request s m fun tenant =>
    if m.body.length ≠ 1 then malformed
    else
      withContext s m tenant fun C =>
        .yes (s.modContext C.handle fun C => { C with right := some m.session, dbgctl := C.dbgctl ||| 1 }) []

/-- R362: a held split goes on. -/
def Split.unhold (p : Split) : Split := if p.st == .held then { p with st := .ready, why := none } else p

/-- R127, R286, R362: the held splits of a trap frame are ready. -/
def unholdFrame (f : List W64) : List W64 :=
  f.mapIdx fun n d =>
    if 20 ≤ n ∧ n < 68 ∧ (n - 20) % 6 = 0 ∧ bitsOf d 61 58 = 5 then (d &&& 0xC3FFFFFFFFFFFFFF) ||| (1#64 <<< 58) else d

/-- R362: a group whose splits are held no longer. -/
def Group.unhold (G : Group) : Group :=
  { G with L := { G.L with splits := G.L.splits.map Split.unhold, ovf := G.L.ovf.map Split.unhold }
           T := { G.T with frame := if G.T.handler then unholdFrame G.T.frame else G.T.frame
                           saved := { G.T.saved with splits := G.T.saved.splits.map Split.unhold
                                                     ovf := G.T.saved.ovf.map Split.unhold } } }

/-- R362: a stopped group resumes. -/
def resumeStopped (s : State) (w g : Nat) : State :=
  match s.wgs[w]? with
  | none => s
  | some W =>
    if (W.groups[g]?).any fun G => G.stopped.isSome then
      let s := s.modGroup w g fun G => { G with stopped := none }
      if W.place = .active then restoreGroup s w g else s
    else s

/-- R359: the workgroup that a stop or a hold has been asked for. -/
def askedWg : Instr → Option Nat
  | .debugStop w _ => some w
  | .splitHold w _ _ => some w
  | _ => none

/-- R362: the point of revocation: no stop that has been asked for is taken after it, and no packet of the context is written. -/
def revokeDebug (s : State) (C : Context) : State :=
  let s := s.modContext C.handle fun C => { C with right := none, dbgctl := 0, breaks := [], watches := [] }
  let mine := wgsOf s C.handle
  let s := traceForget { s with ctl := { s.ctl with asked := s.ctl.asked.filter fun i => !(askedWg i).any mine.contains } } C
  (wgsOf s C.handle).foldl (fun s w =>
    let s := s.modWg w fun W => { W with groups := W.groups.map Group.unhold }
    (List.range (((s.wgs[w]?).map fun W => W.groups.length).getD 0)).foldl (fun s g => resumeStopped s w g) s) s

/-- DEBUG_REVOKE_RIGHT (R362). -/
def execDebugRevokeRight (m : Msg) (s : State) : Host.Outcome State Fault Refusal :=
  request s m fun tenant =>
    if m.body.length ≠ 1 then malformed else withContext s m tenant fun C => .yes (revokeDebug s C) []

/-- R354: the driver refuses `trc` while the channels are bound to other worlds and none to this one. -/
def traceable (s : State) (world : BitVec 16) : Bool :=
  s.dies.any (fun p => p.2.tr.world == world) || s.dies.all fun p => p.2.tr.world == 0

/-- DEBUG_WRITE_DBGCTL (R292, R354): 8 bytes; dbg stays 1 while the right is held. -/
def execDebugWriteDbgctl (m : Msg) (s : State) : Host.Outcome State Fault Refusal :=
  request s m fun tenant =>
    let v := leW m.body 1
    if m.body.length ≠ 9 ∨ bitsOf v 63 6 ≠ 0 then malformed
    else
      withDebug s m tenant fun C =>
        if v.getLsbD 5 && !traceable s C.world then .no 3
        else .yes (s.modContext C.handle fun C => { C with dbgctl := v.setWidth 6 ||| 1 }) []

/-- DEBUG_WRITE_BREAKPOINT (R360): number 0 to 7 for a code breakpoint, 8 to 11 for a watch, then its doublewords. -/
def execDebugWriteBreakpoint (m : Msg) (s : State) : Host.Outcome State Fault Refusal :=
  request s m fun tenant =>
    let n := le m.body 1 1
    let d0 := leW m.body 2
    let d1 := leW m.body 10
    withDebug s m tenant fun C =>
      if n < 8 ∧ m.body.length = 10 ∧ bitsOf d0 60 26 = 0 then
        .yes (s.modContext C.handle fun C => { C with breaks := insertNat n [d0] C.breaks }) []
      else if 8 ≤ n ∧ n < 12 ∧ m.body.length = 18 ∧ bitsOf d0 53 32 = 0 then
        .yes (s.modContext C.handle fun C => { C with watches := insertNat (n - 8) [d0, d1] C.watches }) []
      else malformed

/-! ### Stops and holds -/

/-- R337: the child tasks of a launch in the order of their starts. -/
def childrenOf (s : State) (h : BitVec 32) : List Nat :=
  (List.range s.wgs.length).filter fun w => (s.wgs[w]?).any fun W => W.launch == h && W.child

/-- The group that a DEBUG request names from a place of its body: launch handle; linear index, or the number of a child task in
the order of their starts where bit 7 of the last byte is set; and in bits 6:0 of that byte the group's number (log entry 50). -/
def namedGroup (s : State) (C : Context) (bs : List Byte) (at_ : Nat) : Option (Nat × Nat × Group) := do
  let h := BitVec.ofNat 32 (le bs at_ 4)
  let La ← s.launch? h
  guard (La.ctx == C.handle)
  let n := le bs (at_ + 4) 4
  let b := le bs (at_ + 8) 1
  let w ← if 128 ≤ b then (childrenOf s h)[n]? else wgOfIndex s h n
  let G ← s.group? w (b % 128)
  pure (w, b % 128, G)

/-- R359: asks for a stop or a hold. -/
def ask (s : State) (i : Instr) : State := { s with ctl := { s.ctl with asked := s.ctl.asked ++ [i] } }

/-- R359: a split of the group is held: one of the table, or, in handler mode, one of the trap frame. -/
def Group.holdsSplit (G : Group) (e : Nat) : Bool :=
  (G.split e).st == .held || (G.T.handler && decide (bitsOf (G.T.frame.getD (20 + 6 * e) 0) 61 58 = 5))

/-- R359: a held split is released: that of the table, else that of the trap frame. -/
def Group.release (G : Group) (e : Nat) : Group :=
  if (G.split e).st = .held then G.modSplit e Split.unhold
  else
    let n := 20 + 6 * e
    { G with T := { G.T with
        frame := G.T.frame.set n ((unholdFrame G.T.frame).getD n 0)
        saved := { G.T.saved with splits := G.T.saved.splits.modify e Split.unhold } } }

/-- DEBUG_STOP_OR_HOLD (R359): operation 0 stops a group, 1 holds a split, 2 releases one. -/
def execDebugStopOrHold (m : Msg) (s : State) : Host.Outcome State Fault Refusal :=
  request s m fun tenant =>
    if m.body.length ≠ 12 then malformed
    else
      withDebug s m tenant fun C =>
        match namedGroup s C m.body 2 with
        | none => .no 2
        | some (w, g, G) =>
          let e := le m.body 11 1
          match le m.body 1 1 with
          | 0 => .yes (ask s (.debugStop w g)) []
          | 1 => if e < 8 then .yes (ask s (.splitHold w g e)) [] else malformed
          | 2 =>
            if e < 8 ∧ G.holdsSplit e then .yes (emitEvent (s.modGroup w g fun G => G.release e) w g 6 e) []
            else .no 2
          | _ => malformed

/-- R359: what has been asked for is done. -/
def unask (s : State) (i : Instr) : State := { s with ctl := { s.ctl with asked := s.ctl.asked.filter fun j => j != i } }

/-- DEBUG_STOP (R292, R299, R359): a group stop that has been asked for takes effect. -/
def execDebugStop (wg g : Nat) (s : State) : Host.Outcome State Fault Refusal :=
  match envAt s wg g with
  | none => .next s
  | some E =>
    event s (s.ctl.asked.contains (.debugStop wg g) && E.C.dbgctl.getLsbD 0 && E.W.place == .active && E.G.fin == .running
        && E.G.stopped.isNone) fun s => debugStop (unask s (.debugStop wg g)) wg g .debugStop

/-- R222, R359: the split is held at its lpc for a cause; an open region is aborted first, with status 6 and detail 0, and the split
moves to its fallback. -/
def Group.hold (G : Group) (e : Nat) (c : Cause) : Group :=
  let p := G.split e
  let G := if (G.regionOf p.mask).isSome then (G.abortLanes e p.mask 6 0).1 else G
  G.modSplit e fun p => { p with st := .held, wait := .none, why := some c }

/-- R359, R360: a split hold takes effect and reports its cause. -/
def holdSplit (s : State) (w g e : Nat) (c : Cause) : State := emitEvent (s.modGroup w g fun G => G.hold e c) w g 5 e

/-- R359: a split stands at an issue boundary. -/
def atBoundary (G : Group) (e : Nat) : Bool :=
  let p := G.split e
  G.L.running && p.st == .ready && p.live && !p.wait.holds

/-- SPLIT_HOLD (R359): a hold that has been asked for takes effect at the split's next issue boundary. -/
def execSplitHold (wg g e : Nat) (s : State) : Host.Outcome State Fault Refusal :=
  groupEvent s wg g (fun E => s.ctl.asked.contains (.splitHold wg g e) && E.C.dbgctl.getLsbD 0 && atBoundary E.G e)
    fun _ s => holdSplit (unask s (.splitHold wg g e)) wg g e .debugStop

/-! ### Reading and editing a stopped group -/

/-- What a state access names: kind, lane and index. -/
structure StateRef where
  what  : Nat
  lane  : Nat
  index : Nat
  deriving DecidableEq, Repr

/-- The split that holds a lane, in the table. -/
def Group.splitOfLane (G : Group) (i : Nat) : Split := (G.L.splits.find? fun p => inMask p.mask i).getD Split.freeEntry

/-- R359, R327: the debugger may reach it: the group is stopped, or the lane's split is held. -/
def StateRef.reachable (r : StateRef) (G : Group) : Bool :=
  G.stopped.isSome || r.what == 6 || ((r.what == 1 || r.what == 2) && (G.splitOfLane r.lane).st == .held)

/-- R327: reads a scalar register (0), a lane register (1), the predicates of a lane (2), a uniform register (3), a doubleword of
the split table (4) or of the trap frame (5), or the cause (6) that stopped the group (8) or holds a split (0 to 7), 0 for none. -/
def StateRef.read (r : StateRef) (G : Group) : Option W64 :=
  match r.what with
  | 0 => if r.index < 64 then some (G.rS (BitVec.ofNat 6 r.index)) else none
  | 1 => if r.lane < 32 then (G.lane r.lane).regs[r.index]? else none
  | 2 => if r.lane < 32 then some ((G.lane r.lane).preds.setWidth 64) else none
  | 3 => G.L.w[r.index]?
  | 4 => (G.L.splits.flatMap splitWords)[r.index]?
  | 5 => G.T.frame[r.index]?
  | 6 =>
    let code := fun (c : Option Cause) => (c.map fun x => (causeCode x).setWidth 64).getD 0
    if r.index < 8 then some (code (G.split r.index).why) else if r.index = 8 then some (code G.stopped) else none
  | _ => none

/-- R359: the replay record of a split that holds a lane of `m` is emptied. -/
def Split.wipe (m : LMask) (p : Split) : Split := if p.mask &&& m = 0 then p else p.wiped

/-- R127, R359: a trap frame whose split entries have their records emptied where they hold a lane of `m`. -/
def wipeFrame (m : LMask) (f : List W64) : List W64 :=
  f.take 20 ++ entryList.flatMap (fun e =>
    let d := (f.drop (20 + 6 * e)).take 6
    match splitOfWords Split.freeEntry d with
    | some p => if p.mask &&& m = 0 then d else splitWords (p.wipe m)
    | none => d) ++ f.drop 68

/-- R359: an edit clears every window of the group, and the replay records of the splits that hold the lanes of `m`, those of a trap
frame too. -/
def Group.edited (G : Group) (m : LMask) : Group :=
  let G := G.clearWins
  { G with L := { G.L with splits := G.L.splits.map (Split.wipe m), ovf := G.L.ovf.map (Split.wipe m) }
           T := { G.T with frame := if G.T.handler then wipeFrame m G.T.frame else G.T.frame
                           saved := { G.T.saved with splits := G.T.saved.splits.map (Split.wipe m)
                                                     ovf := G.T.saved.ovf.map (Split.wipe m) } } }

/-- The mask of one lane. -/
def oneLane (i : Nat) : LMask := 1#32 <<< i

/-- R359: writes what a state access names; none where it may not hold the value. -/
def StateRef.write (r : StateRef) (G : Group) (v : W64) : Option Group :=
  let onLane := fun (f : Lane → Lane) => (G.mapLanes fun i L => if i = r.lane then f L else L).edited (oneLane r.lane)
  match r.what with
  | 0 => some ((G.wS (BitVec.ofNat 6 r.index) v).edited 0)
  | 1 => some (onLane fun L => L.w r.index v)
  | 2 => if bitsOf v 63 7 = 0 then some (onLane fun L => { L with preds := v.setWidth 7 }) else none
  | 3 => some (({ G with L := { G.L with w := G.L.w.set r.index v } } : Group).edited 0xFFFFFFFF)
  | 4 =>
    let e := r.index / 6
    if v &&& splitReserved (r.index % 6) ≠ 0 then none
    else (splitOfWords (G.split e) ((splitWords (G.split e)).set (r.index % 6) v)).map fun p => G.modSplit e fun _ => p
  | 5 => if v &&& frameReserved r.index ≠ 0 then none else some { G with T := { G.T with frame := G.T.frame.set r.index v } }
  | _ => none

/-- DEBUG_STATE_ACCESS (R327, R359): operation 0 reads and 1 writes. -/
def execDebugStateAccess (m : Msg) (s : State) : Host.Outcome State Fault Refusal :=
  request s m fun tenant =>
    let write := le m.body 1 1 == 1
    if m.body.length ≠ (if write then 23 else 15) then malformed
    else
      withDebug s m tenant fun C =>
        match namedGroup s C m.body 2 with
        | none => .no 2
        | some (w, g, G) =>
          let r : StateRef := { what := le m.body 11 1, lane := le m.body 12 1, index := le m.body 13 2 }
          match r.read G with
          | none => malformed
          | some v =>
            if !r.reachable G then .no 3
            else if write then
              match r.write G (leW m.body 15) with
              | some G' => .yes (s.setGroup w g G') []
              | none => malformed
            else .yes s (natToBytes 8 v.toNat)

/-! ### Trace channels -/

/-- R354: binds a die's channel to a world, with a new buffer of 2^lg bytes. -/
def bindTrace (s : State) (d : Nat) (world : BitVec 16) (lg : Nat) : State :=
  let r := s.draw
  let D := r.2.die d
  let t : Trace := { D.tr with world := world, base := BitVec.ofNat 64 r.1, lg := BitVec.ofNat 5 lg }
  r.2.setDie d { D with tr := { t with wr := 0, rd := 0, buf := [], since := 0, dropped := 0, first := true, pend := [] } }

/-- R355: the bytes that the reader has not consumed. -/
def Trace.unread (t : Trace) : List Byte :=
  let size := 2 ^ t.lg.toNat
  (List.range ((t.wr.toNat + size - t.rd.toNat % size) % size)).map fun i => memGet t.buf ((t.rd.toNat + i) % size)

/-- R354, R358: what operation `op` of a trace request does to a channel that is bound to the context's world. -/
def traceOp (s : State) (d op : Nat) (bs : List Byte) : Ans :=
  let t := (s.die d).tr
  match op with
  | 1 =>
    let k := le bs 0 1
    let d0 := leW bs 1
    let d1 := leW bs 9
    if bs.length = 17 ∧ k < 16 ∧ bitsOf d0 33 26 = 0 ∧ bitsOf d1 63 58 = 0 then
      .yes (modTrace s d fun t => { t with rules := t.rules.set k (d0, d1) }) []
    else malformed
  | 2 => if bs = [] then .yes (traceUnbind s d) [] else malformed
  | 3 => if bs = [] then .yes s (natToBytes 4 t.wr.toNat ++ natToBytes 4 t.rd.toNat ++ t.unread) else malformed
  | 4 =>
    if bs.length = 4 ∧ le bs 0 4 < 2 ^ t.lg.toNat then
      .yes (modTrace s d fun t => { t with rd := BitVec.ofNat 32 (le bs 0 4) }) []
    else malformed
  | _ => malformed

/-- DEBUG_TRACE_CHANNEL (R354, R355, R358): operation 0 binds, 1 writes a rule, 2 unbinds, 3 reads the buffer, 4 advances TRRD. -/
def execDebugTraceChannel (m : Msg) (s : State) : Host.Outcome State Fault Refusal :=
  request s m fun tenant =>
    let op := le m.body 1 1
    let d := le m.body 2 1
    let bs := m.body.drop 3
    if m.body.length < 3 ∨ Config.dies ≤ d then malformed
    else
      withDebug s m tenant fun C =>
        let world := (s.die d).tr.world
        if op = 0 then
          let lg := le bs 0 1
          if bs.length ≠ 1 ∨ lg < 8 ∨ 30 < lg then malformed
          else if world ≠ 0 ∧ world ≠ C.world then .no 3
          else .yes (bindTrace s d C.world lg) []
        else if world ≠ C.world then .no 3
        else traceOp s d op bs

/-- DEBUG_NOON_TRIGGER (R361): fires a trigger and reads the snapshot: the CLOCK of its tick and the registers, of each of which the holder
of a context's debug right sees what belongs to the context and its tenant. -/
def execDebugNoonTrigger (m : Msg) (s : State) : Host.Outcome State Fault Refusal :=
  request s m fun tenant =>
    if m.body.length ≠ 1 then malformed
    else
      withDebug s m tenant fun C =>
        let s := noonTrigger s
        let regs := (List.range snapRegs).map (snapReg s C)
        .yes s (((s.drv.noon.getD 0) :: regs).flatMap fun (x : W64) => natToBytes 8 x.toNat)

/-- SYNC (R355): writes the SYNC that count 256 has made due. -/
def execSync (die : Nat) (s : State) : Host.Outcome State Fault Refusal := .next (traceSync s die)

/-- LOSS (R355): writes the LOSS and the SYNC that follows it, once both fit. -/
def execLoss (die : Nat) (s : State) : Host.Outcome State Fault Refusal := .next (traceLoss s die)

end Sys2Proof.Machine
end

