-- ==== Sys2Proof/Machine/Scatter.lean ====
section
/-! DEFINITION. Scatter reductions: SCAT, its combiner, and the application of a reduction at its home die (R198 to R202, R288).
-/

namespace Sys2Proof.Machine

/-- R198: the offset of a lane's element. -/
def scatOff (x : Word) (i : Nat) : Nat := tabOff x.o + (x.c .n64 i).toNat

/-- R198: bytes of an element of a kind. -/
def scatBytes (kind : BitVec 4) (t : Ty) : Nat := if kind = 4 then 40 else tyBytes t

/-- R198, R199: what a kind makes of an old value and an operand of a type; cells are their 40 bytes. -/
def scatNew (kind : Nat) (t : Ty) (old v : Nat) : Nat :=
  let g := fmtOf t
  let a := readF g old
  let b := readF g v
  match kind with
  | 0 => (sumF g modePlain a b).1
  | 1 => (old + v) % 2 ^ tyBits t
  | 2 => if tyFloat t then (minmaxF g modePlain false false a b).1 else if intOf t old ≤ intOf t v then old else v
  | 3 => if tyFloat t then (minmaxF g modePlain true false a b).1 else if intOf t old ≤ intOf t v then v else old
  | _ => cellAdd old v

/-- R198: a lane's operand. -/
def scatArg (x : Word) (i : Nat) : Nat :=
  let v := subElem (tyBits x.o.ty) (x.b x.o.ty i) 0
  if x.o.var = 4 then cellOf v else v

/-- R199: the address of a lane, as named. -/
def scatAddr (x : Word) (b : Bound) (i : Nat) : Key × Nat := (tabKey x b.t.desc.k128 i, scatOff x i)

/-- R199: the leaders of the distinct addresses among the active lanes. -/
def scatLeaders (x : Word) (b : Bound) : List Nat :=
  (lanesOf x.act).filter fun i => (lanesOf x.act).all fun k => decide (i ≤ k) || scatAddr x b k != scatAddr x b i

/-- R199: the lanes that share a leader's address. -/
def scatLanes (x : Word) (b : Bound) (l : Nat) : List Nat :=
  (lanesOf x.act).filter fun i => scatAddr x b i == scatAddr x b l

/-- R199: the combined operand of a leader's address: a left fold in lane order. -/
def scatFold (x : Word) (b : Bound) (l : Nat) : Nat :=
  match scatLanes x b l with
  | [] => 0
  | i :: is => is.foldl (fun p k => scatNew x.o.var.toNat x.o.ty p (scatArg x k)) (scatArg x i)

/-- R199: the reduction that a leader sends. -/
def scatSend (x : Word) (b : Bound) (l : Nat) : Reduction :=
  { wg := x.E.w, group := x.E.g, blockSeq := x.G.L.blockSeq, lanes := maskOf fun i => (scatLanes x b l).contains i
    issuer := x.p.mask, split := x.e, leader := l, lpc := pc26 x.p.lpc, slot := tabSlot x.o
    byRid := tabRid x.o, version := b.v, key := tabKey x b.t.desc.k128 l, off := scatOff x l
    kind := x.o.var, ty := x.o.ty, value := natToBytes (scatBytes x.o.var x.o.ty) (scatFold x b l) }

/-- R174: n bytes of a row lie in an exact range. -/
def Desc.inExact (d : Desc) (off n : Nat) : Bool :=
  d.fmtRanges.any fun r =>
    rangeFmt r == 2 && decide (rangeStart r ≤ off) && decide (off + n ≤ rangeStart r + rangeLen r)

/-- R174, R183 check 4, R198: `.xadd` needs exact cells: the table has them, and every element inside the row lies among them. -/
def scatFormat (x : Word) (b : Bound) : Bool :=
  x.o.var != 4 || ((b.t.desc.fmtRanges.any fun r => rangeFmt r == 2) &&
    (lanesOf x.act).all fun i => decide (b.t.desc.width < scatOff x i + 40) || b.t.desc.inExact (scatOff x i) 40)

/-- SCAT (R198, R199): checks 1 to 4 trap; everything else is found where the reduction is applied. -/
def execScat (o : LOp) (s : State) : Host.Outcome State Fault Refusal :=
  lWord s 0x89 o true fun x s =>
    match x.E.La.binding (tabSlot x.o) with
    | none => x.tabW .noTable
    | some q =>
    let away := !s.descHeld q.id
    match s.named q with
    | none => if away then x.fetches s true q else x.tabW .noTable
    | some b =>
      let keyed := b.t.desc.k128 && !tabRid x.o
      if b.ro then x.tabW .slotReadonly
      else if !scatFormat x b || (keyed && (match x.o.a with | .reg _ => false | _ => true)) then x.tabW .kindMismatch
      else if keyed && !isPair x x.o.a then x.failForm
      else if away && x.act != 0 then .service .dirAbsent [.descriptor b.id]
      else
        let s := s.resolve x.E.La x.party (tabSlot x.o)
        .done { s with reds := s.reds ++ (scatLeaders x b).map (scatSend x b) }

/-! ### Application -/

/-- R201: the check of an element: its row, a cause, or the wait for an absent slab. A `.xadd` element off a cell start is misaligned,
ATOM_ALIGN as R201 says of elements: DESIGN CHOICE, since R204 names KIND_MISMATCH (entry 67). -/
def redCheck (s : State) (r : Reduction) (t : Table) (world : BitVec 16) : LaneChk :=
  let n := scatBytes r.kind r.ty
  if t.desc.width < r.off + n then .fault .colRange
  else if if r.kind = 4 then !t.desc.isCell r.off else r.off % n != 0 then .fault .atomAlign
  else
    match t.rowOf r.byRid r.key with
    | .error c => .fault c
    | .ok row =>
      laneAccess s world { slot := r.slot, id := s.idOf r.version t, ro := false, v := r.version, t := t } row
        r.off n .at_ true

/-- R288: the record entry of a reduction that fails. -/
def redEntry (r : Reduction) (c : Cause) : ElemEntry :=
  { d0 := 0#5 ++ r.lpc ++ 0#8 ++ r.slot ++ BitVec.ofNat 3 r.split ++ BitVec.ofNat 5 r.leader ++ 0#3 ++ causeCode c
    d1 := r.key.setWidth 64
    d2 := BitVec.ofNat 64 r.off }

/-- R263: the reduction units, at work for the split that issued a reduction. -/
def Reduction.party (r : Reduction) (core : Nat) : Party := { who := .reds r.wg r.group r.blockSeq r.issuer, core := core }

/-- R200: applies a reduction at its granules; the issuing core keeps no copy of the line (R268). -/
def applyRed (s : State) (r : Reduction) (core : Nat) (row : Row) : State :=
  let n := scatBytes r.kind r.ty
  let a := row.addr + r.off
  let new := fun (t : Table) => natToBytes n (scatNew r.kind.toNat r.ty (bytesToNat (t.bytes a n)) (bytesToNat r.value))
  let s := ((s.correct r.version a n).note (r.party core) (.rows r.version) a n (s.rowByte r.version) true).modTable r.version fun t =>
    { t with rows := memWrite t.rows a (new t) }
  dropLines s core r.version a n

/-- R200: two reductions go to one element: they name it alike, or name the same row. -/
def sameElement (s : State) (a b : Reduction) : Bool :=
  let row := fun (q : Reduction) => ((s.table? q.version).bind fun t => (t.rowOf q.byRid q.key).toOption).map (·.addr)
  a.version == b.version && a.off == b.off
    && ((a.byRid == b.byRid && a.key == b.key) || ((row a).isSome && row a == row b))

/-- R200: no earlier reduction of the group to the same address is still in flight. -/
def redFirst (s : State) (k : Nat) (r : Reduction) : Bool :=
  (s.reds.take k).all fun q => !(q.wg == r.wg && q.group == r.group && sameElement s q r)

/-- R201: reduction k has failed, and is recorded. -/
def redFails (s : State) (k : Nat) (r : Reduction) (c : Cause) : State :=
  recordElem { s with reds := s.reds.eraseIdx k } r.wg r.group (redEntry r c)

/-- REDUCTION_APPLY (R200, R201): a reduction in flight is applied, or its failure recorded; one that meets an absent slab
waits until the driver has serviced it (R176). -/
def execReductionApply (red : Nat) (s : State) : Host.Outcome State Fault Refusal :=
  match s.reds[red]? with
  | none => .next s
  | some r =>
    match envAt s r.wg r.group, s.table? r.version with
    | some E, some t =>
      let rest : State := { s with reds := s.reds.eraseIdx red }
      match redCheck s r t E.world with
      | .service _ ns => .next (driverServes s ns)
      | .none => .next s
      | .fault c => event s (redFirst s red r) fun s => redFails s red r c
      | .row row => event s (redFirst s red r) fun _ => applyRed rest r E.W.coreNo row
    | _, _ => .next s

end Sys2Proof.Machine
end

