-- ==== Sys2Proof/Machine/Trust.lean ====
section
/-! DEFINITION. Tenants and sessions (R325, R326), the key tree (R345, R346), attestation (R351), migration (R350), and context state
that cannot be corrected (R298). -/

namespace Sys2Proof.Machine

/-! ### Tenants -/

/-- TENANT_ADMISSION (R345): a tenant that is not admitted; its period starts at 0. -/
def execTenantAdmission (tenant : BitVec 64) (record : List Byte) (s : State) : Host.Outcome State Fault Refusal :=
  event s (s.time.boot == .running && (s.tenant? tenant).isNone) fun s =>
    let T : Tenant := { id := tenant, record := record, period := 0, fabric := none, transfer := none, retired := false }
    { s with drv := { s.drv with tenants := s.drv.tenants ++ [T] } }

/-- TENANT_RETIREMENT (R325): every context of the tenant ends with KILLED. -/
def execTenantRetirement (tenant : BitVec 64) (s : State) : Host.Outcome State Fault Refusal :=
  event s (s.tenant? tenant).isSome fun s =>
    let mark := fun (t : Tenant) => if t.id = tenant then { t with retired := true } else t
    let cs := (s.drv.contexts.filter fun c => c.tenant == tenant).map (·.handle)
    cs.foldl (fun s c => endContext s c (causeCode .killed) 0 [])
      { s with drv := { s.drv with tenants := s.drv.tenants.map mark } }

/-- SESSION_OPEN (R326): the session of an admitted tenant; the TLS handshake itself has no state here. -/
def execSessionOpen (session : Nat) (tenant : BitVec 64) (s : State) : Host.Outcome State Fault Refusal :=
  event s (s.time.boot == .running && (s.tenant? tenant).isSome && s.drv.sessions.all fun x => x.id != session) fun s =>
    { s with drv := { s.drv with sessions := s.drv.sessions ++ [{ id := session, tenant := tenant, isOpen := true }] } }

/-- Changes an admitted tenant. -/
def modTenant (s : State) (id : BitVec 64) (f : Tenant → Tenant) : State :=
  { s with drv := { s.drv with tenants := s.drv.tenants.map fun t => if t.id == id && !t.retired then f t else t } }

/-- PERIOD_ADVANCE (R345). -/
def execPeriodAdvance (tenant : BitVec 64) (s : State) : Host.Outcome State Fault Refusal :=
  event s (s.tenant? tenant).isSome fun s => modTenant s tenant fun t => { t with period := t.period + 1 }

/-! ### Secrets -/

/-- SECRET_DELIVERY (R346): a secret arrives under the tenant's wrap key and is unwrapped; one that does not open is dropped. -/
def execSecretDelivery (tenant : BitVec 64) (k : SecretKind) (wrapped : List Byte) (s : State) :
    Host.Outcome State Fault Refusal :=
  match s.tenant? tenant with
  | none => .next s
  | some T =>
    match Config.unwrap (rootKey tenant T.period .wrap 0) wrapped with
    | none => .next s
    | some x =>
      .next (modTenant s tenant fun t =>
        match k with
        | .fabric => { t with fabric := some x }
        | .transfer => { t with transfer := some x })

/-! ### Attestation -/

/-- R345, R348, R351: a tenant's current periods: its own, and that of every link on which it is active. -/
def currentPeriods (s : State) (T : Tenant) : List (BitVec 32) :=
  T.period :: (s.links.filter fun l => l.2.owners.any fun o => o.owner == T.id).map fun l => l.2.period

/-- R351: the items of a report, in their order. -/
def attestReport (s : State) (T : Tenant) (nonce : List Byte) : List Byte :=
  natToBytes 2 s.drv.module.toNat ++ natToBytes 4 Config.fuseVersion ++ Config.shake256 Config.daybreak
    ++ Config.shake256 s.drv.firmware ++ T.record ++ (currentPeriods s T).flatMap (fun (p : BitVec 32) => natToBytes 4 p.toNat)
    ++ nonce

/-- ATTEST (R327, R351): the report and its signature under the identity key pair. -/
def execAttest (m : Msg) (s : State) : Host.Outcome State Fault Refusal :=
  request s m fun tenant =>
    if m.body.length ≠ 32 then malformed
    else
      match s.tenant? tenant with
      | none => .no 3
      | some T =>
        let r := attestReport s T m.body
        .yes s (r ++ (Config.slhSign (rootKey 0 0 .identity 0) r).toList)

/-! ### State that cannot be corrected -/

/-- STATE_UNCORR (R298, R372): a soft error in context state that cannot be corrected ends the context. -/
def execStateUncorr (ctx : BitVec 32) (s : State) : Host.Outcome State Fault Refusal :=
  .next (endContext s ctx (causeCode .stateUncorr) 0 [])

/-! ### Migration -/

/-- R299, R350: a workgroup of a context that is descheduled for good; one that has completed stays so. -/
def Wg.deschedule (W : Wg) : Wg :=
  match W.place with
  | .completed | .image | .leaving => W
  | .active =>
    { W with place := .resumable, ranOn := none, groups := W.groups.map fun G => if G.fin == .running then G.halt 0 else G }
  | _ => { W with place := .resumable, ranOn := none }

/-- R302, R350: nothing that the workgroups of the list have started is still in flight, and none waits for firmware. -/
def allQuiet (s : State) (ws : List Nat) : Bool :=
  ws.all (fun w => (s.wgs[w]?).all fun W => W.place != .image && W.place != .leaving && imageWhole s w W)
  && s.jobs.all (fun j => !ws.contains j.wg || j.state != .started)
  && s.reds.all (fun r => !ws.contains r.wg)

/-- Numbers of a list become places in it. -/
def placeIn (ws : List Nat) (w : Nat) : Nat := ws.findIdx fun x => x == w

/-- R333, R350: a dependence as its launch leaves the module: none is left on a producer that is complete; of one that stays behind,
the tiles that are ready now. -/
def Dependence.leaves (s : State) (mine : List Launch) (d : Dependence) : Option Dependence :=
  match s.launch? d.producer with
  | none => some d
  | some P =>
    if P.status.isSome then none
    else if mine.any fun l => l.handle == d.producer then some d
    else some { d with known := some (P.lastTile, P.readyTiles) }

/-- R350: the image of a context whose work is quiet, sealed under its transfer key, with its launches that are not complete. -/
def transitOf (s : State) (C : Context) (handover : BitVec 32) (key : KeyName) (sealing : List Byte) (ws : List Nat) : Transit :=
  let ls := s.drv.launches.filter fun l => l.ctx == C.handle && l.status.isNone
  { ctx := C.handle, handover := handover, sent := true, sealing := sealing, context := C
    launches := ls.map fun l => { l with deps := l.deps.filterMap (Dependence.leaves s ls) }
    kernels := s.drv.kernels.filter fun k => ls.any fun l => l.kernel == k.handle
    wgs := ws.filterMap fun w => (s.wgs[w]?).map fun W => { W with sealedBy := some key }
    jobs := (s.jobs.filter fun j => j.state == .forming && ws.contains j.wg).map fun j => { j with wg := placeIn ws j.wg }
    tasks := s.cores.flatMap fun p => (p.2.tasks.filter fun t => ls.any fun l => l.handle == t.launch).map fun t => (p.1, t)
    confirmed := false }

/-- R350 step 3: the fabric keys and counters that the tenant's contexts alone used are erased. -/
def dropFabric (s : State) (tenant : BitVec 64) : State :=
  if s.drv.contexts.any fun c => c.tenant == tenant && c.ended.isNone then s
  else { s with links := s.links.map fun l => (l.1, { l.2 with owners := l.2.owners.filter fun o => o.owner != tenant }) }

/-- R342, R350 steps 2 to 4: the images are sealed and sent, the secret and the working keys erased, and nothing of the context
stays but the records of its launches that are complete; the B-lines of its world go with the last context of the world. -/
def sealContext (s : State) (C : Context) (handover : BitVec 32) (key : KeyName) (sealing : List Byte) (ws : List Nat) : State :=
  let t := transitOf s C handover key sealing ws
  let gone := fun (l : Launch) => l.ctx == C.handle && l.status.isNone
  let last := s.drv.contexts.all fun D => D.world != C.world || D.ended.isSome || D.handle == C.handle
  let s := modTenant s C.tenant fun t => { t with transfer := none }
  let s : State := { s with
    wgs := s.wgs.mapIdx fun w W => if ws.contains w then W.clear .killed else W
    jobs := s.jobs.map fun j => if ws.contains j.wg then { j with state := .complete } else j
    dies := s.dies.map fun p => (p.1, { p.2 with resume := p.2.resume.filter fun w => !ws.contains w })
    cores := s.cores.map fun p => (p.1, { p.2 with
      tasks := p.2.tasks.filter fun x => !(s.launch? x.launch).any gone })
    drv := { s.drv with
      transit := s.drv.transit ++ [t]
      contexts := s.drv.contexts.filter fun c => c.handle != C.handle
      launches := s.drv.launches.filter fun l => !gone l } }
  let s := ws.foldl State.endLate s
  dropFabric (if last then clearLines s C.world else s) C.tenant

/-- CONTEXT_MIGRATE (R350): with the transfer secret at hand, the context is descheduled; once its work is quiet, it is sealed and
sent. -/
def execContextMigrate (ctx handover : BitVec 32) (s : State) : Host.Outcome State Fault Refusal :=
  match s.context? ctx with
  | none => .next s
  | some C =>
    let sealing := (s.tenant? C.tenant).bind fun T => (transferSeal T ctx handover).map fun x => (transferName T ctx handover, x)
    event s (C.ended.isNone && sealing.isSome) fun s =>
      let ws := (wgsOf s ctx).filter fun w => (s.wgs[w]?).any fun W => W.place != .completed
      let s : State := { s with wgs := s.wgs.mapIdx fun w W => if ws.contains w then W.deschedule else W }
      match sealing with
      | some (key, x) => if allQuiet s ws then settle (sealContext s C handover key x ws) else s
      | none => s

/-- R325, R350: the module can take the image: its handles are not in use, its kernels are absent or the same, and no other tenant holds
its world. -/
def canOpen (s : State) (t : Transit) : Bool :=
  (worldHolder s t.context.world).all (· == t.context.tenant) &&
  (s.context? t.ctx).isNone && t.launches.all (fun l => (s.launch? l.handle).isNone)
  && t.kernels.all fun k => (s.kernel? k.handle).all fun x => x == k

/-- R350 step 5: the image is opened and resealed under this module's own image key, and its workgroups can be resumed. -/
def openTransit (s : State) (t : Transit) : State :=
  let n := s.wgs.length
  let own := imageKey s t.context
  let s := s.giveWorld t.context.world t.context.tenant
  let s : State := { s with
    wgs := s.wgs ++ t.wgs.map fun W => { W with sealedBy := some own }
    jobs := s.jobs ++ t.jobs.map fun j => { j with wg := n + j.wg }
    drv := { s.drv with
      contexts := s.drv.contexts ++ [t.context]
      launches := s.drv.launches ++ t.launches
      kernels := s.drv.kernels ++ t.kernels.filter fun k => (s.kernel? k.handle).isNone } }
  t.tasks.foldl (fun s p => s.setCore p.1 { s.core p.1 with tasks := (s.core p.1).tasks ++ [p.2] }) s

/-- MIGRATION_CONFIRM (R350): as destination, with its own copy of the secret unwrapped and the transfer key derived again, this module
opens the image, where the key is the one that sealed it; as source, it learns that the destination has, and holds the world for it no
longer. -/
def execMigrationConfirm (ctx handover : BitVec 32) (here : Bool) (s : State) : Host.Outcome State Fault Refusal :=
  let named := fun (t : Transit) => t.ctx == ctx && t.handover == handover && !t.confirmed && t.sent != here
  match s.drv.transit.find? named with
  | none => .next s
  | some t =>
    let done := fun (x : Transit) => if x = t then { x with confirmed := true } else x
    let s' : State := { s with drv := { s.drv with transit := s.drv.transit.map done } }
    if here then
      event s (canOpen s t && (s.tenant? t.context.tenant).any fun T => transferSeal T ctx handover == some t.sealing) fun _ =>
        openTransit (modTenant s' t.context.tenant fun T => { T with transfer := none }) t
    else .next s'

end Sys2Proof.Machine
end

