-- ==== Sys2Proof/Machine/Fabric.lean ====
section
/-! DEFINITION. The Zhenan links (R347, R348, R371), link failures and migrations (R176, R303, R343). -/

namespace Sys2Proof.Machine

/-! ### Keys and flits -/

/-- R345, R346: the fabric key of an owner on a link, where its fabric secret has been delivered. -/
def fabricKey (s : State) (link : Nat) (period : BitVec 32) (owner : BitVec 64) : Option (List Byte) :=
  ((s.tenant? owner).bind (·.fabric)).map fun x => deriveKey x owner period .fabric link

/-- R347: the nonce of a flit: link id, direction, 15 zero bits, counter. -/
def flitNonce (link : Nat) (dir : Bool) (counter : W64) : List Byte :=
  natToBytes 2 link ++ natToBytes 2 (if dir then 1 else 0) ++ natToBytes 8 counter.toNat

/-- An owner's traffic on a link; counters start at 0. -/
def Link.owner (k : Link) (o : BitVec 64) : LinkOwner :=
  (k.owners.find? fun x => x.owner == o).getD { owner := o, send := 0, expect := 0, retry := [] }

/-- Sets an owner's traffic on a link. -/
def Link.setOwner (k : Link) (x : LinkOwner) : Link :=
  { k with owners := if k.owners.any fun y => y.owner == x.owner then k.owners.map fun y => if y.owner == x.owner then x else y
                     else k.owners ++ [x] }

/-- R347: an error attributed to an owner ends its contexts here. -/
def endOwner (s : State) (owner : BitVec 64) : State :=
  ((s.drv.contexts.filter fun c => c.tenant == owner).map (·.handle)).foldl
    (fun s c => endContext s c (causeCode .ownerEnded) 0 []) s

/-- R371: the plaintext of a message on a virtual lane; a free value (log entry 58). -/
opaque flitBytes : Nat → FabMsg → Vector Byte 240

/-- R347, R371: the message of a plaintext; none where it breaks the protocol. A free value (log entry 58). -/
opaque flitMsg : Vector Byte 240 → Option FabMsg

/-- R371: the first byte of an access in the row space of a table of this module, or a cause. -/
def FabAccess.place (a : FabAccess) (t : Table) : Except Cause Nat :=
  match a.row with
  | none => .ok a.at_
  | some (byRid, k) =>
    if t.desc.width < a.at_ + a.len then .error .colRange else (t.rowOf byRid k).map fun r => r.addr + a.at_

/-- R371: the bytes of an access and their new value, where it reads them and writes them in one step. -/
def FabOp.step (op : FabOp) (old : List Byte) : List Byte :=
  let n := bytesToNat old
  match op with
  | .add k => natToBytes 8 (n + k)
  | .atomic kind ty b c => natToBytes old.length (atomNew kind ty n b c)
  | .reduce kind ty v => natToBytes old.length (scatNew kind ty n (bytesToNat v))
  | _ => old

/-- R371, R372: an access does what it does at its point here: the data of the reply, and the state after it. -/
def FabAccess.act (a : FabAccess) (s : State) (v : Nat) (t : Table) (at_ : Nat) : List Byte × State :=
  let old := t.bytes at_ a.len
  match a.op with
  | .load => (old, s.correct v at_ a.len)
  | .store data => ([], writeHome s v at_ (data.take a.len))
  | op => (old, writeHome (s.correct v at_ a.len) v at_ (op.step old))

/-- R177, R344, R371: an access of another module's world to bytes of a table of this one, at its point here: the cause code of the
reply, 0 where it is done, its data, and the state after it. An absent slab or a window under repair is served first. -/
def serveAccess (s : State) (world : BitVec 16) (a : FabAccess) : BitVec 8 × List Byte × State :=
  match (s.versionOf a.table).bind fun v => (s.table? v).map fun t => (v, t) with
  | none => (causeCode .noTable, [], s)
  | some (v, t) =>
    match a.place t with
    | .error c => (causeCode c, [], s)
    | .ok at_ =>
      let check := accessCheck s v t world a.op.right at_ a.len
      let bad := a.op.right != .wr && t.badData at_ a.len
      match check with
      | .fault c => (causeCode c, [], s)
      | .ok => if bad then (causeCode .eccUncorr, [], s) else (0, a.act s v t at_)
      | .service _ ns => if bad then (causeCode .eccUncorr, [], s) else (0, a.act (ns.foldl provide s) v t at_)

/-- R344, R371: the reply to an access of an owner has come: it is kept for who waits for it. None where the owner has no such access
without a reply. -/
def Link.replied (k : Link) (owner : BitVec 64) (id : Nat) (code : BitVec 8) (data : List Byte) : Option Link :=
  let mine := fun (q : Ask) => q.id == id && q.owner == owner && q.reply.isNone
  match k.asks.find? mine with
  | none => none
  | some q =>
    let rest := if q.who == .nobody then k.asks.erase q
      else k.asks.map fun x => if mine x then { x with reply := some (code, data) } else x
    some { k with asks := rest }

/-- R327: a request of a client that another module passes on is served here, in a session of its own. -/
def serveClient (s : State) (link : Nat) (owner : BitVec 64) (lane id : Nat) (m : Msg) : State :=
  let d := s.drawUnused (s.drv.sessions.map (·.id)) 0 (2 ^ 64 - 1)
  let x : Session := { id := d.1, tenant := owner, isOpen := true, caller := some { link := link, lane := lane, id := id } }
  let s : State := { d.2 with drv := { d.2.drv with sessions := d.2.drv.sessions ++ [x] } }
  let m := { m with session := d.1 }
  let o := match m.op.toNat with
    | 0x21 => execTableRetire m s
    | 0x22 => execRowsWrite m s
    | 0x23 => execRowsRead m s
    | 0x24 => execTableSwap m s
    | 0x30 => execWindowSet m s
    | 0x31 => execWindowRevoke m s
    | _ => unknownRequest s m
  match o with
  | .next t => t
  | _ => s

/-- R327: the answer to a request that was passed on to another module is the reply to it; a window of that module is named by its number
from here. -/
def answered (s : State) (link id : Nat) (status : BitVec 16) (body : List Byte) : State :=
  let ready := fun (p : ReplyWait × Reply) =>
    if p.1 == .remote link id then (.ready, { p.2 with status := status, body := body }) else p
  settle { s with drv := { s.drv with pend := s.drv.pend.map ready } }

/-- R344, R347, R371: what a message of an owner that has been accepted does here; whatever it answers goes out on the same virtual
lane. A window fault, and a reply that nothing of its owner waits for, end the owner's contexts. -/
def takeMsg (s : State) (link : Nat) (owner : BitVec 64) (lane : Nat) : FabMsg → State
  | .request id world a =>
    let r := serveAccess s world a
    r.2.2.post link owner lane (.reply id r.1 r.2.1)
  | .reply id code data =>
    match (s.link link).replied owner id code data with
    | some k => s.setLink link k
    | none => endOwner s owner
  | .client id m => serveClient s link owner lane id m
  | .answer id status body =>
    if s.drv.pend.any fun p => p.1 == .remote link id then answered s link id status body else endOwner s owner
  | .windowFault _ => endOwner s owner
  | .notice id window => (noticeWindow s window).post link owner lane (.ack id)
  | .ack id => if s.drv.notices.any (fun n => n.id == id && !n.acked) then ackNotice s id else s

/-- R347, R348, R371: a flit with the counter expected is accepted and taken; one that breaks the protocol ends its owner. The buffer of
its virtual lane may be full with it, and then this end asserts the stop signal, until there is room again. -/
def acceptFlit (s : State) (link : Nat) (k : Link) (f : Flit) (plain : Vector Byte 240) : State :=
  let x := k.owner f.owner
  let lane := Config.flitLane plain % 8
  let d := s.draw
  let full := if d.1 % 2 = 1 then k.full ||| (1#8 <<< lane) else k.full
  let k := { k.setOwner { x with expect := x.expect + 1 } with fails := 0, full := full, took := k.took ++ [(f.owner, plain)] }
  let s := d.2.setLink link k
  match flitMsg plain with
  | none => endOwner s f.owner
  | some m => takeMsg s link f.owner lane m

/-- R348: a flit that fails authentication is dropped, NAKed and logged; the third failure with none accepted between starts a
retrain. -/
def failFlit (s : State) (link : Nat) (k : Link) (owner : BitVec 64) : State :=
  (s.setLink link { k with fails := k.fails + 1, naks := k.naks + 1, retrain := decide (3 ≤ k.fails + 1) }).logEvent
    { cause := .linkAuth, ctx := owner, table := 0, detail := BitVec.ofNat 64 link }

/-- ZHENAN_FLIT_RECEIVE (R348): only the next counter is accepted; a lower one is a duplicate, and a higher one is dropped too. -/
def execZhenanFlitReceive (link : Nat) (f : Flit) (s : State) : Host.Outcome State Fault Refusal :=
  let k := s.link link
  let plain := (fabricKey s link k.period f.owner).bind fun key =>
    Config.flitOpen key (flitNonce link (!Config.linkSide link) f.counter) f.bytes
  event s (decide (link < Config.links) && !k.failed && !k.retrain) fun s =>
    match plain with
    | none => failFlit s link k f.owner
    | some p => if f.counter = (k.owner f.owner).expect then acceptFlit s link k f p else s

/-- R371: the peer's stop signals let a virtual lane send; while the link retrains or has failed, none does (R348). -/
def Link.laneOpen (k : Link) (lane : Nat) : Bool := !k.failed && !k.retrain && !k.stopped.getLsbD (lane % 8)

/-- R348, R371: flits are sent again in their order: those on virtual lanes that may send at once, the others when they may. -/
def Link.resend (k : Link) (fs : List SentFlit) : Link :=
  let goes := fun (f : SentFlit) => k.laneOpen (Config.flitLane f.plain)
  { k with wire := k.wire ++ (fs.filter goes).map (fun f => (f.owner, f.counter, f.bytes)), again := fs.filter fun f => !goes f }

/-- R348: the unacknowledged flits of a link, as sent, in the order of their first transmissions. -/
def Link.unacked (k : Link) : List SentFlit :=
  ((k.owners.flatMap (·.retry)).foldl (fun l f => insertNat f.place f l) []).map (·.2)

/-- R348: a counter that starts the rekey of its link. -/
def counterLimit : Nat := 2 ^ 40

/-- R347, R348: an owner's messages may go out: its fabric secret is at hand, and its counter has not come to the rekey. -/
def ownerSends (s : State) (link : Nat) (owner : BitVec 64) : Bool :=
  let k := s.link link
  (fabricKey s link k.period owner).isSome && decide ((k.owner owner).send.toNat < counterLimit)

/-- R347, R348: the first transmission of the first message that waits on a virtual lane that may send: it gets the owner's next
counter, and stays in the retry buffer until it is acknowledged. Nothing goes out for an owner whose fabric secret is not at hand, nor for
one whose counter has come to the rekey. -/
def transmit (s : State) (link : Nat) : State :=
  let k := s.link link
  match k.queue.find? fun q => k.laneOpen q.2.1 && ownerSends s link q.1 with
  | none => s
  | some q =>
    let x := k.owner q.1
    let plain := flitBytes q.2.1 q.2.2
    let key := (fabricKey s link k.period q.1).getD []
    let f : SentFlit :=
      { owner := q.1, counter := x.send, plain := plain, place := k.sent
        bytes := Config.flitSeal key (flitNonce link (Config.linkSide link) x.send) plain }
    let k := k.setOwner { x with send := x.send + 1, retry := x.retry ++ [f] }
    s.setLink link { k with queue := k.queue.erase q, wire := k.wire ++ [(f.owner, f.counter, f.bytes)], sent := k.sent + 1 }

/-- R371: the buffer of a virtual lane has room again, and the stop signal goes. -/
def drain (s : State) (link lane : Nat) : State :=
  let k := s.link link
  s.setLink link { k with full := k.full &&& ~~~ (1#8 <<< (lane % 8)) }

/-- FLIT_ACK (R348): the flits up to the counter leave the retry buffer. -/
def execFlitAck (link : Nat) (owner : BitVec 64) (counter : BitVec 64) (s : State) : Host.Outcome State Fault Refusal :=
  let k := s.link link
  let x := k.owner owner
  event s (k.owners.any fun y => y.owner == owner) fun s =>
    s.setLink link { k.setOwner { x with retry := x.retry.filter fun r => decide (counter.toNat < r.counter.toNat) } with
      again := k.again.filter fun f => f.owner != owner || decide (counter.toNat < f.counter.toNat) }

/-- FLIT_NAK (R348): the unacknowledged flits are sent again, byte for byte, with their counters. -/
def execFlitNak (link : Nat) (owner : BitVec 64) (s : State) : Host.Outcome State Fault Refusal :=
  let k := s.link link
  event s (k.owners.any fun y => y.owner == owner) fun s =>
    s.setLink link (k.resend ((k.again.filter fun f => f.owner != owner) ++ (k.owner owner).retry))

/-- R348: an owner's retry buffer under a new period: new counters from 0, in the original order. -/
def rekeyOwner (s : State) (link : Nat) (period : BitVec 32) (x : LinkOwner) : LinkOwner :=
  let key := (fabricKey s link period x.owner).getD []
  { x with
    send := BitVec.ofNat 64 x.retry.length, expect := 0
    retry := x.retry.mapIdx fun i r =>
      let c : W64 := BitVec.ofNat 64 i
      { r with counter := c, bytes := Config.flitSeal key (flitNonce link (Config.linkSide link) c) r.plain } }

/-- R348: both ends take the greater of their periods plus 1; counters restart, and the unacknowledged flits of all owners are sent again
in their original order. -/
def rekeyLink (s : State) (link : Nat) (peer : BitVec 32) : State :=
  let k := s.link link
  let period := (if k.period.toNat < peer.toNat then peer else k.period) + 1
  let k := { k with period := period, owners := k.owners.map (rekeyOwner s link period), fails := 0, retrain := false }
  s.setLink link (k.resend k.unacked)

/-- LINK_RETRAIN (R348): after three failures here or at the peer, with the peer's period. -/
def execLinkRetrain (link : Nat) (peer : BitVec 32) (s : State) : Host.Outcome State Fault Refusal :=
  event s (decide (link < Config.links) && !(s.link link).failed) fun s =>
    (rekeyLink s link peer).logEvent { cause := .linkRetrain, ctx := 0, table := 0, detail := BitVec.ofNat 64 link }

/-- R348: a counter of the owner, of this end or of the peer, has reached 2^40. -/
def LinkOwner.full (x : LinkOwner) : Bool := decide (counterLimit ≤ x.send.toNat) || decide (counterLimit ≤ x.expect.toNat)

/-- LINK_REKEY (R348): a counter that reaches 2^40 rekeys the link without a retrain; the period of the peer is free. -/
def execLinkRekey (link : Nat) (owner : BitVec 64) (s : State) : Host.Outcome State Fault Refusal :=
  event s ((s.link link).owners.any fun x => x.owner == owner && x.full) fun s =>
    rekeyLink s.draw.2 link (BitVec.ofNat 32 s.draw.1)

/-- VIRTUAL_LANE_STOP (R371): a stop signal of one virtual lane is asserted or released. -/
def execVirtualLaneStop (link : Nat) (vl : BitVec 3) (on : Bool) (s : State) : Host.Outcome State Fault Refusal :=
  event s (decide (link < Config.links)) fun s =>
    let k := s.link link
    let b : BitVec 8 := 1#8 <<< vl.toNat
    let k := { k with stopped := if on then k.stopped ||| b else k.stopped &&& ~~~ b }
    s.setLink link (k.resend k.again)

/-! ### Repairs and migrations -/

/-- R343: an active window goes under repair. -/
def repairWindow (ws : List Nat) (p : Nat × Window) : Nat × Window :=
  if ws.contains p.1 && p.2.st == .active then (p.1, { p.2 with st := .repair }) else p

/-- LINK_FAILURE (R343): the windows routed over the link go under repair. -/
def execLinkFailure (link : Nat) (windows : List Nat) (s : State) : Host.Outcome State Fault Refusal :=
  event s (decide (link < Config.links)) fun s =>
    let s : State := { s with mem := { s.mem with windows := s.mem.windows.map (repairWindow windows) } }
    s.setLink link { s.link link with failed := true }

/-- SLAB_MIGRATION (R176, R303, R343): a slab is marked absent and gets a new locator, or a window goes under repair, unless it is held present. -/
def execSlabMigration (m : Migration) (s : State) : Host.Outcome State Fault Refusal :=
  match m with
  | .slab id slab =>
    match (s.versionOf id).bind fun v => (s.table? v).map fun t => (v, t) with
    | none => .next s
    | some (v, t) =>
      event s (decide (slab < t.desc.nslabs) && !t.absent.contains slab && !s.kept (.slab v slab)) fun s =>
        s.draw.2.modTable v fun t =>
          { t with absent := t.absent ++ [slab], moves := insertNat slab (BitVec.ofNat 64 s.draw.1) t.moves }
  | .window i =>
    event s (!s.kept (.window i)) fun s =>
      { s with mem := { s.mem with windows := s.mem.windows.map (repairWindow [i]) } }

end Sys2Proof.Machine
end

