-- ==== Sys2Proof/Machine/LaneControl.lean ====
section
/-! DEFINITION. Lane control: branches, joins, the end of a block, retiring lanes, yielding and reloading splits (R129, R132 to
R138). -/

namespace Sys2Proof.Machine

/-! ### The release check after a word -/

/-- The parked entry whose word issued last (R135). -/
def lastParked (G : Group) : Nat :=
  ((entryList.filter fun e => (G.split e).parked).foldl
    (fun (acc : Nat × Nat) e => if acc.2 < (G.split e).stamp then (e, (G.split e).stamp) else acc) (0, 0)).1

/-- R129, R135: the trap of a release check that can never release: kind A at the word that parked last. -/
def parkTrap (G : Group) (c : Cause) : TrapInfo :=
  let e := lastParked G
  let p := G.split e
  { cause := c, kind := .after, lStream := true, lanes := p.mask, split := some e, fpc := p.lpc - 1 }

/-- R135: a word has parked, merged or ended its split in the group it leaves: the release check. -/
def Word.checkRelease (x : Word) (s : State) (G : Group) : LRes :=
  match releaseCheck G with
  | .mismatch => .after (parkTrap G .joinMismatch) (s.setGroup x.E.w x.E.g G)
  | .overflow => .after (parkTrap G .splitOverflow) (s.setGroup x.E.w x.E.g G)
  | r => .stay (s.setGroup x.E.w x.E.g (G.applyRelease r))

/-! ### Branches -/

/-- The target of a lane branch (R132, R133). -/
def Word.target (x : Word) : W64 := x.p.lpc + x.o.imm.signExtend 64

/-- R356: the sp byte of BRANCH. -/
def branchSp (e : Nat) (made : Bool) (entry : Option Nat) : Nat :=
  e + (if made then 128 + (match entry with | some n => 8 * n | none => 64) else 0)

/-- R356: the BRANCH packet of a `BRA` whose guard names a predicate. -/
def Word.branchPacket (x : Word) (s : State) (made : Bool) (entry : Option Nat) : State :=
  if x.o.pg = 7 then s
  else emitBranch s x.E.w x.E.g (branchSp x.e made entry) x.e x.target.toNat x.act.toNat

/-- BRA (R132). -/
def execBra (o : LOp) (s : State) : Host.Outcome State Fault Refusal :=
  lWord s 0x58 o true fun x s =>
    if x.p.mask &&& ~~~ x.act = 0 then .jump (x.branchPacket s false none) x.target
    else if x.act = 0 then .done (x.branchPacket s false none)
    else if !x.G.canPlace then x.failW .splitOverflow
    else
      let d := (x.E.now s).divide x.e x.act x.target
      .done (x.branchPacket (s.setGroup x.E.w x.E.g d.1) true d.2)

/-- JMP (R133). -/
def execJmp (o : LOp) (s : State) : Host.Outcome State Fault Refusal :=
  lWord s 0x59 o true fun x s => .jump s x.target

/-! ### Joins -/

/-- R131, R202: the lanes `m` of a group are one split from now on: the reductions of each of its parts, and what each part knows, are in
its program-order past. -/
def State.merged (s : State) (w g : Nat) (m : LMask) : State :=
  let widen := fun (seq : Nat) (r : Reduction) =>
    if r.wg == w && r.group == g && r.blockSeq == seq && r.issuer &&& m != 0 then { r with issuer := r.issuer ||| m } else r
  match s.group? w g with
  | none => s
  | some G => ({ s with reds := s.reds.map (widen G.L.blockSeq) } : State).mergeLate w g m

/-- R134: merges entry `a` and entry `b` into the lower of them, which then has a state, an L-PC and a stamp. A `YLD` that waits for
the higher one, whose entry is freed, waits for it no longer; one that waits for the lower one goes on (log entry 60). -/
def Group.joinPair (G : Group) (a b : Nat) (st : SplitState) (lpc : W64) (stamp : Nat) : Group :=
  let lo := min a b
  let hi := max a b
  ((G.mergeInto hi lo).modSplit lo fun p => { p with st := st, lpc := lpc, wait := .none, stamp := stamp }).moved hi

/-- R134, R136: the split that is parked where the word would park its own. -/
def parkedThere (x : Word) (G : Group) (st : SplitState) : Option Nat :=
  entryList.find? fun e => e != x.e && (G.split e).st == st && (G.split e).lpc == x.p.lpc + 1

/-- R134, R136: the word parks its split, or merges it into one parked there; then the release check. -/
def joinAt (x : Word) (s : State) (st : SplitState) (kind : Nat) : LRes :=
  let G := x.E.now s
  let next := x.p.lpc + 1
  match parkedThere x G st with
  | some e =>
    let s := s.merged x.E.w x.E.g ((G.split e).mask ||| x.p.mask)
    let G := G.joinPair e x.e st next (G.split x.e).stamp
    x.checkRelease (emitMerge s x.E.w x.E.g (min e x.e) (max e x.e) kind x.p.lpc.toNat) G
  | none => x.checkRelease s (G.modSplit x.e fun p => { p with st := st, lpc := next })

/-- JOIN_ALL (R134). -/
def execJoinAll (o : LOp) (s : State) : Host.Outcome State Fault Refusal :=
  lWord s 0x5A o true fun x s => joinAt x s .joinPark 0

/-- R134: the ready splits of the table whose next word is this same word, the issuing one included. -/
def joinSet (x : Word) (G : Group) : List Nat :=
  entryList.filter fun e => e == x.e || ((G.split e).live && (G.split e).st == .ready && (G.split e).lpc == x.p.lpc)

/-- R134, R207: lanes that merge take on whether the surviving entry's region is open (log entry 36). -/
def Group.alignRegions (G : Group) (m : LMask) (r : Option Region) : Group :=
  G.mapLanes fun i L =>
    if inMask m i then
      match r, L.region with
      | none, _ => { L with region := none }
      | some _, some _ => L
      | some q, none =>
        { L with region := some { q with inputs := [], pins := 0, cons := [], stores := [], rtags := [],
                                         ltags := [none, none, none, none] } }
    else L

/-- R134: merges entries into the lowest, one after the other, with a packet for each. -/
def joinMany (x : Word) (s : State) (into : Nat) (stamp : Nat) : List Nat → State
  | [] => s
  | e :: es =>
    let G := x.E.now s
    let s := (emitMerge s x.E.w x.E.g into e 1 x.p.lpc.toNat).merged x.E.w x.E.g ((G.split into).mask ||| (G.split e).mask)
    let merge := fun (G : Group) =>
      (G.alignRegions (G.split e).mask (G.regionOf (G.split into).mask)).joinPair into e .ready (x.p.lpc + 1) stamp
    joinMany x (x.mod s merge) into stamp es

/-- JOIN_ANY (R134). -/
def execJoinAny (o : LOp) (s : State) : Host.Outcome State Fault Refusal :=
  lWord s 0x5A o true fun x s =>
    let G := x.E.now s
    match joinSet x G with
    | [] => .done s
    | [_] => .done s
    | e :: es =>
      let s := joinMany x s e (G.split x.e).stamp es
      x.checkRelease s (x.E.now s)

/-- LEND (R136). Where the block ends, its END names the split that survives (R134, R356). -/
def execLend (o : LOp) (s : State) : Host.Outcome State Fault Refusal :=
  lWord s 0x5B o true fun x s =>
    let m := (x.E.now s).L.splits.foldl (fun m p => m ||| p.mask) 0
    match joinAt x s .endPark 2 with
    | .stay s' =>
      if (x.E.now s').L.running then .stay s'
      else
        let e := ((parkedThere x (x.E.now s) .endPark).map (min x.e)).getD x.e
        .stay (emitEnd s' x.E.w x.E.g e false true x.p.lpc.toNat m.toNat)
    | r => r

/-- EXITL (R137): the lanes retire, and their cursors are closed (R192). -/
def execExitl (o : LOp) (s : State) : Host.Outcome State Fault Refusal :=
  lWord s 0x5C o true fun x s =>
    if x.act = 0 then .done s
    else
      let G := x.E.now s
      let G : Group := { G with L := { G.L with alive := G.L.alive &&& ~~~ x.act } }
      let G := G.mapLanes fun i L => if inMask x.act i then { L with cur := [none, none, none, none] } else L
      let rest := x.p.mask &&& ~~~ x.act
      let packet := fun s ended => emitEnd s x.E.w x.E.g x.e true ended x.p.lpc.toNat x.act.toNat
      if rest ≠ 0 then .done (packet (s.setGroup x.E.w x.E.g (G.modSplit x.e fun p => { p with mask := rest })) false)
      else
        let G := (G.modSplit x.e fun _ => Split.freeEntry).moved x.e
        match x.checkRelease s G with
        | .stay s' => .stay (packet s' (!(x.E.now s').L.running))
        | .after t s' => .after t (packet s' false)
        | r => r

/-! ### Yielding and reloading -/

/-- The siblings of an entry that are ready (R138). -/
def readySiblings (G : Group) (e : Nat) : BitVec 8 :=
  BitVec.ofNat 8 (entryList.foldl (fun a k => if k != e && (G.split k).live && (G.split k).st == .ready then a + 2 ^ k else a) 0)

/-- YLD (R138). -/
def execYld (o : LOp) (s : State) : Host.Outcome State Fault Refusal :=
  lWord s 0x5D o true fun x s =>
    let m := readySiblings x.G x.e
    if m = 0 then .done s
    else .done (x.mod s fun G => G.modSplit x.e fun p => { p with st := .yielded, yield := m })

/-- R138: a yielded split may return: each sibling it waits for has issued, parked, ended or overflowed. -/
def yieldOver (G : Group) (e : Nat) : Bool :=
  (G.split e).st == .yielded &&
  entryList.all fun k => !(G.split e).yield.getLsbD k || !((G.split k).st == .ready || (G.split k).st == .held)

/-- YLD_RETURN (R138). -/
def execYldReturn (wg g e : Nat) (s : State) : Host.Outcome State Fault Refusal :=
  groupEvent s wg g (fun E => yieldOver E.G e) fun _ s =>
    s.modGroup wg g fun G => G.modSplit e fun p => { p with st := .ready, yield := 0 }

/-- R129: the head of the overflow area goes to the lowest free entry. -/
def Group.reload (G : Group) : Group :=
  match G.freeEntry?, G.L.ovf with
  | some e, p :: rest =>
    ({ G with L := { G.L with ovf := rest, ohead := (G.L.ohead + 1) % 56 } } : Group).modSplit e fun _ =>
      { p with st := if p.st == .yielded then .ready else p.st }
  | _, _ => G

/-- SPLIT_RELOAD (R129). -/
def execSplitReload (wg g : Nat) (s : State) : Host.Outcome State Fault Refusal :=
  groupEvent s wg g (fun E => E.G.freeEntry?.isSome && !E.G.L.ovf.isEmpty) fun E s =>
    emitEvent (s.modGroup wg g Group.reload) wg g 4 ((E.G.freeEntry?).getD 0)

end Sys2Proof.Machine
end

