-- ==== Sys2Proof/Machine/LaneMatrix.lean ====
section
/-! DEFINITION. The matrix words MMA, MZERO, MDRN, MRD and MWT, and the array's own events (R248 to R261). -/

namespace Sys2Proof.Machine

/-! ### Quarters -/

/-- R253: the lanes of quarter q. -/
def quarterLanes (q : Nat) : LMask := 0xFF#32 <<< (8 * q)

/-- R253: the active quarters of a word. -/
def Word.quarters (x : Word) : List Nat := [0, 1, 2, 3].filter fun q => x.act &&& quarterLanes q != 0

/-- R253: the lowest active lane of a quarter. -/
def Word.quarterLead (x : Word) (q : Nat) : Nat := (lowestLane (x.act &&& quarterLanes q)).getD 0

/-- R252, R257 to R259: the tile base T. -/
def tileBase (o : LOp) : Nat := (o.imm.extractLsb' 0 7).toNat

/-- R252, R259: the displacement d. -/
def matDisp (o : LOp) : Int := (o.imm.extractLsb' 8 24).toInt

/-- R252: an address of lane i from a register and the displacement. -/
def matAddr (x : Word) (i : Nat) : Int := ((x.a .n64 i).toNat : Int) + matDisp x.o

/-- R248: a tile of the word's group. -/
def Word.tile (x : Word) (t : Nat) : Tile := x.G.tiles.getD t Tile.zero

/-- The first of the active quarters that a test fails. -/
def Word.badQuarter (x : Word) (bad : Nat → Bool) : Option Nat := x.quarters.find? bad

/-- R289: a tile cause. -/
def Word.failTile (x : Word) (c : Cause) (t : Nat) : LRes := x.failW c (BitVec.ofNat 64 t)

/-- R253 step 4: every tile lies below accs. -/
def accCheck (x : Word) (k : LRes) : LRes :=
  match x.badQuarter fun q => decide (x.E.K.header.accs ≤ tileBase x.o + q) with
  | some q => x.failTile .accRange (tileBase x.o + q)
  | none => k

/-- R249, R289: no tile is busy; the trap names the oldest operation on it. -/
def busyCheck (x : Word) (s : State) (k : LRes) : LRes :=
  let C := s.core x.E.W.coreNo
  match x.badQuarter fun q => tileBusy C x.E.w x.E.g (tileBase x.o + q) with
  | none => k
  | some q =>
    let t := tileBase x.o + q
    match (C.arr ++ C.mq).find? fun p => p.wg == x.E.w && p.group == x.E.g && p.tile == t with
    | some p => x.failW .accBusy (0#22 ++ p.lpc ++ 0#5 ++ BitVec.ofNat 3 p.split ++ 0#1 ++ BitVec.ofNat 7 t)
    | none => k

/-- R253: range and alignment of n bytes at an address of each lane of a mask (R156). -/
def spanCheck (x : Word) (m : LMask) (a : Nat → Int) (n align : Nat) (k : LRes) : LRes :=
  let rg := maskOf fun i => inMask m i && (decide (a i < 0) || decide ((x.E.W.size : Int) < a i + n))
  let al := maskOf fun i => inMask m i && a i % align != 0
  let at_ := fun (m : LMask) => BitVec.ofInt 64 (a ((lowestLane m).getD 0))
  if rg ≠ 0 then x.failL .scrRange rg (at_ rg) else if al ≠ 0 then x.failL .scrAlign al (at_ al) else k

/-! ### MMA -/

/-- R252: the format codes of A and B. -/
def mmaA (o : LOp) : Nat := (tyCode o.ty).toNat
def mmaB (o : LOp) : Nat := o.var.toNat

/-- R252: the `.ow` form. -/
def mmaOw (o : LOp) : Bool := o.aux.getLsbD 3

/-- R253 step 5: the tags of the tiles, then for `.ow` their business. -/
def mmaTags (x : Word) (s : State) (k : LRes) : LRes :=
  let t := pairTag (mmaA x.o)
  let wrong := fun q =>
    let tag := (x.tile (tileBase x.o + q)).tag
    tag != .clear && tag != t && (!mmaOw x.o || quarterLanes q &&& ~~~ x.act != 0)
  match x.badQuarter wrong with
  | some q => x.failTile .accType (tileBase x.o + q)
  | none => if mmaOw x.o then busyCheck x s k else k

/-- R253: the first B-line of a quarter. -/
def mmaLine (x : Word) (q : Nat) : Nat := (x.b .n64 (x.quarterLead q)).toNat

/-- R246: a line carries the world's tag. -/
def lineIs (C : Core) (world : BitVec 16) (l : Nat) : Bool :=
  ((C.lines.find? fun x => x.line == l).map (·.world)).getD 0 == world

/-- R253 steps 6 and 7: the B-lines of every active quarter. -/
def mmaLines (x : Word) (s : State) (k : LRes) : LRes :=
  let n := bLines (mmaB x.o)
  let C := s.core x.E.W.coreNo
  let fail := fun c q => x.failW c (x.b .n64 (x.quarterLead q)) (BitVec.ofNat 64 n)
  match x.badQuarter fun q => decide (8192 < mmaLine x q + n) with
  | some q => fail .blineRange q
  | none =>
    match x.badQuarter fun q => (List.range n).any fun j => !lineIs C x.E.world (mmaLine x q + j) with
    | some q => fail .blineWorld q
    | none => k

/-- R251: the A exponent of a lane. -/
def mmaExp (x : Word) (i : Nat) : Nat :=
  subElem 8 ((x.G.lane i).r (regNo x.o.c)) (x.o.aux.extractLsb' 0 3).toNat

/-- R254: the A row of lane i. -/
def mmaRow (x : Word) (i : Nat) : Option ARow :=
  if inMask x.act i then some { addr := (matAddr x i).toNat, exp := mmaExp x i } else none

/-- R254: the operation that a quarter of the word queues. -/
def mmaQuarter (x : Word) (s : State) (q : Nat) : Quarter :=
  { wg := x.E.w, group := x.E.g, split := x.e, lpc := pc26 x.p.lpc, stamp := (x.E.now s).S.stamp, clk := s.time.clk
    tile := tileBase x.o + q, q := q, fa := mmaA x.o, fb := mmaB x.o, ow := mmaOw x.o, line := mmaLine x q
    rows := (List.range 8).map fun l => mmaRow x (8 * q + l) }

/-- R254 to R256: the word queues its quarters, which come after what it comes after, and tags their tiles, where the queue has
room. -/
def mmaQueue (x : Word) (s : State) : LRes :=
  let c := x.E.W.coreNo
  let C := s.core c
  if 64 < C.mq.length + x.quarters.length then .wait .array
  else
    let asked := s.pass x.who (.quarter x.E.w x.E.g (x.E.now s).S.stamp) How.ordered
    let s' := asked.setCore c { C with mq := C.mq ++ x.quarters.map (mmaQuarter x s) }
    let mark := fun (t : Tile) => { t with tag := pairTag (mmaA x.o) }
    .done (x.mod s' fun G =>
      { G with tiles := x.quarters.foldl (fun ts q => ts.modify (tileBase x.o + q) mark) G.tiles })

/-- MMA (R252 to R255). -/
def execMma (o : LOp) (s : State) : Host.Outcome State Fault Refusal :=
  lWord s 0xB0 o true fun x s =>
    if x.quarters.isEmpty then .done s
    else if !matPair (mmaA x.o) (mmaB x.o) then x.failW .mmaPair
    else accCheck x <| mmaTags x s <| mmaLines x s <|
      spanCheck x x.act (matAddr x) (aBytes (mmaA x.o)) (aAlign (mmaA x.o)) <| mmaQueue x s

/-! ### MZERO, MRD and MDRN -/

/-- MZERO (R257). -/
def execMzero (o : LOp) (s : State) : Host.Outcome State Fault Refusal :=
  lWord s 0xB1 o true fun x s =>
    accCheck x <| busyCheck x s <| .done (x.mod s fun G =>
      { G with tiles := x.quarters.foldl (fun ts q => ts.set (tileBase x.o + q) Tile.zero) G.tiles })

/-- R258: the tile's tag is neither clear nor the one that TY asks for. -/
def mrdWrong (x : Word) (q : Nat) : Bool :=
  let tag := (x.tile (tileBase x.o + q)).tag
  tag != .clear && tag != (if x.o.ty = .i32 then .i32 else .f32)

/-- MRD (R258). -/
def execMrd (o : LOp) (s : State) : Host.Outcome State Fault Refusal :=
  lWord s 0xB3 o true fun x s =>
    accCheck x <| busyCheck x s <|
      match x.badQuarter (mrdWrong x) with
      | some q => x.failTile .accType (tileBase x.o + q)
      | none => .done (x.mod s fun G => x.setLanes G fun i =>
          let cells := (x.tile (tileBase x.o + i / 8)).cells
          let n := 128 * (i % 8) + 2 * ((x.a .n64 i).toNat % 64)
          [cells.getD (n + 1) 0 ++ cells.getD n 0])

/-- R259: a cell as `MDRN` reads it. -/
def drainCell (x : Word) (tag : TileTag) (c : BitVec 32) : FVal :=
  match tag with
  | .clear => .fin (exOfInt 0)
  | .f32 => sourceF (fmtOf .f32) x.md c.toNat
  | .i32 => .fin (exOfInt c.toInt)

/-- R259: x × r × s, rounded once into TY. -/
def drainOne (x : Word) (c r k : FVal) : Nat × BitVec 5 :=
  let g := fmtOf x.o.ty
  let p := prodV c r
  let q := prodV p.1 k
  let v := match q.1 with
    | .nan _ => nanF g false
    | .inf n => infF g x.md n
    | .fin y => roundF g x.md y
  (v.1, v.2 ||| nvIf (p.2 || q.2))

/-- R259: where the column scales of lane i lie, where the form has them. -/
def scaleBase (x : Word) (i : Nat) : Option Nat :=
  match x.o.c with
  | .reg v => some ((x.G.lane (x.quarterLead (i / 8))).r v.toNat).toNat
  | _ => none

/-- R259: m column scales of lane i, from number n on, as its step reads them. -/
def drainScales (x : Word) (i n m : Nat) (s : State) : List FVal × State :=
  match scaleBase x i with
  | none => (List.replicate m (.fin (exOfInt 1)), s)
  | some base =>
    let q := readScratch s x.party x.E.w (base + 4 * n) (4 * m)
    ((List.range m).map fun k => sourceF (fmtOf .f32) x.md (bytesToNat ((q.1.drop (4 * k)).take 4)), q.2)

/-- R259: m elements of lane i from number n on: their scales are read, and they are stored; the flags that they raise. -/
def drainPart (x : Word) (i m : Nat) (q : State × BitVec 5) (n : Nat) : State × BitVec 5 :=
  let t := x.tile (tileBase x.o + i / 8)
  let r := sourceF (fmtOf .f32) x.md (subElem 32 (x.b .f32 i) 0)
  let k := drainScales x i n m q.1
  let rs := k.1.mapIdx fun j k => drainOne x (drainCell x t.tag (t.cells.getD (128 * (i % 8) + n + j) 0)) r k
  (writeScratch k.2 x.party x.E.w ((matAddr x i).toNat + n * tyBytes x.o.ty) (rs.flatMap fun q => natToBytes (tyBytes x.o.ty) q.1),
   q.2 ||| allFlags (rs.map (·.2)))

/-- R259: lane i stores its row over its own column scales. -/
def drainsOver (x : Word) (i : Nat) : Bool :=
  let a := (matAddr x i).toNat
  (scaleBase x i).any fun b => decide (a < b + 512) && decide (b < a + 128 * tyBytes x.o.ty)

/-- R8, R259: the row of lane i, after those of the lanes below: one element at a time where it stores over its own column scales,
which is when their order shows. -/
def drainLane (x : Word) (q : State × List (Nat × BitVec 5)) (i : Nat) : State × List (Nat × BitVec 5) :=
  let r := if drainsOver x i then (List.range 128).foldl (drainPart x i 1) (q.1, 0) else drainPart x i 128 (q.1, 0) 0
  (r.1, (i, r.2) :: q.2)

/-- R259: where the column scales lie, by the lowest active lane of each quarter. -/
def scaleCheck (x : Word) (k : LRes) : LRes :=
  match x.o.c with
  | .reg v =>
    let leads := maskOf fun i => x.quarters.any fun q => x.quarterLead q == i
    spanCheck x leads (fun i => (((x.G.lane i).r v.toNat).toNat : Int)) 512 4 k
  | _ => k

/-- MDRN (R259). -/
def execMdrn (o : LOp) (s : State) : Host.Outcome State Fault Refusal :=
  lWord s 0xB2 o true fun x s =>
    let n := tyBytes x.o.ty
    accCheck x <| busyCheck x s <| spanCheck x x.act (matAddr x) (128 * n) n <| scaleCheck x <|
      let r := (lanesOf x.act).foldl (drainLane x) (s, [])
      let flags := fun i => (lookupNat i r.2).getD 0
      match flagTrap x (laneList.map flags) with
      | some t => .trapWith t { s with ctl := r.1.ctl }
      | none => .done (x.mod r.1 fun G => G.mapLanes fun i L => L.raise (flags i))

/-! ### MWT and the array -/

/-- R260: every lane's pending flags go into its sticky flags. -/
def Group.mergePending (G : Group) : Group := G.mapLanes fun _ L => { L.raise L.pend with pend := 0 }

/-- R260: quarter operations of the group that issued before a stamp are still in the queue or the array. -/
def opsBefore (s : State) (E : Env) (stamp : Nat) : Bool :=
  let C := s.core E.W.coreNo
  (C.mq ++ C.arr).any fun q => q.wg == E.w && q.group == E.g && decide (q.stamp < stamp)

/-- MWT (R260): it holds its split until the operations before it are ready. -/
def execMwt (o : LOp) (s : State) : Host.Outcome State Fault Refusal :=
  lWord s 0xB4 o true fun x s =>
    if opsBefore s x.E (x.E.now s).S.stamp then .hold .mwt s else .done (x.mod s Group.mergePending)

/-- R255: an operation fuses with a pass: it names the same first B-line, B format and K, has entered the queue within 4 clk of the
pass's first operation, and the pass has taken fewer than 16. -/
def Pass.takes (p : Pass) (q : Quarter) : Bool :=
  p.line == q.line && p.fb == q.fb && decide (q.clk ≤ p.clk + 4) && decide (p.clk ≤ q.clk + 4) && decide (p.count < 16)

/-- R255: operation k may enter the array: it heads the queue, or fuses with the pass; no earlier operation is on its tile. -/
def mayEnter (C : Core) (k : Nat) (q : Quarter) : Bool :=
  (k == 0 || C.pass.any fun p => p.takes q)
  && (C.mq.take k).all fun p => !(p.wg == q.wg && p.group == q.group && p.tile == q.tile)

/-- R255: the pass once an operation has entered: one more in it, or a pass of its own. -/
def passAfter (C : Core) (q : Quarter) : Pass :=
  match C.pass with
  | some p => if p.takes q then { p with count := p.count + 1 } else { line := q.line, fb := q.fb, clk := q.clk, count := 1 }
  | none => { line := q.line, fb := q.fb, clk := q.clk, count := 1 }

/-- QUARTER_OP (R255): a queued operation enters the array and is applied to its tile (R254). -/
def execQuarterOp (core k : Nat) (s : State) : Host.Outcome State Fault Refusal :=
  let C := s.core core
  match C.mq[k]? with
  | none => .next s
  | some q => event s (mayEnter C k q) fun s =>
      (quarterStep s core q).setCore core
        { C with mq := C.mq.eraseIdx k, arr := C.arr ++ [q], pass := some (passAfter C q) }

/-- R260: the `MWT` of a split completes, where what it covers is ready. -/
def completeMwt (w g : Nat) (s : State) (e : Nat) : State :=
  match wordAt s w g e with
  | none => s
  | some x =>
    if x.p.wait == .mwt && !opsBefore s x.E x.p.stamp then s.modGroup w g fun G => x.complete G.mergePending else s

/-- TILE_READY (R249): an operation's tile is ready 40 clk after its last row entered; the `MWT` that covered it completes. -/
def execTileReady (core k : Nat) (s : State) : Host.Outcome State Fault Refusal :=
  let C := s.core core
  match C.arr[k]? with
  | none => .next s
  | some q => .next (entryList.foldl (completeMwt q.wg q.group) (s.setCore core { C with arr := C.arr.eraseIdx k }))

end Sys2Proof.Machine
end

