-- ==== Sys2Proof/Machine/Power.lean ====
section
/-! DEFINITION. Power and boot (R13, R351, R367 to R369). -/

namespace Sys2Proof.Machine

/-- R369: Daybreak verifies a firmware image. One that fails is never run and the module waits for a new one; with one that
verifies, CLOCK starts at zero, and the boot reaches its last step or stops, which is free. -/
def bootWith (s : State) (image : List Byte) : State :=
  if Config.slhVerify Config.skovganKey image then
    let d := s.draw
    { d.2 with time := { d.2.time with clk := 0, phase := 0, clock := 0, boot := if d.1 % 2 = 0 then .running else .off }
               drv := { d.2.drv with firmware := image } }
  else { s with time := { s.time with boot := .refused } }

/-- R367: nothing that the module held survives; the event log has been written. -/
def powerDown (s : State) : State :=
  { State.reset with
    time := { State.reset.time with boot := .off, steps := s.time.steps }
    drv := { State.reset.drv with log := s.drv.log }
    ctl := { State.reset.ctl with inbox := s.ctl.inbox, fresh := s.ctl.fresh } }

/-- BOOT (R369): at power-on, and when power returns to a module that was off. -/
def execBoot (s : State) : Host.Outcome State Fault Refusal :=
  event s (s.time.boot == .powerOn || s.time.boot == .off) fun s =>
    bootWith { s with time := { s.time with boot := .powerOn } } Config.firmware

/-- FIRMWARE_IMAGE_RECEIVE (R369): a new image on Ethernet port 0, after one that failed. -/
def execFirmwareImageReceive (image : List Byte) (s : State) : Host.Outcome State Fault Refusal :=
  event s (s.time.boot == .refused) fun s => bootWith s image

/-- UNDERVOLTAGE_POWER_DOWN (R367). -/
def execUndervoltagePowerDown (s : State) : Host.Outcome State Fault Refusal := .next (powerDown s)

/-- THERMAL_SHUTDOWN (R368): a die has reached its shutdown temperature although the clock has been lowered. -/
def execThermalShutdown (die : Nat) (s : State) : Host.Outcome State Fault Refusal :=
  event s (decide (die < Config.allDies) && s.time.slow) powerDown

/-- CLOCK_THROTTLE (R13): the arithmetic clock is lowered, or restored. -/
def execClockThrottle (lower : Bool) (s : State) : Host.Outcome State Fault Refusal :=
  .next { s with time := { s.time with slow := lower } }

end Sys2Proof.Machine
end

