-- ==== Sys2Proof/Machine/Regions.lean ====
section
/-! DEFINITION. Atomic regions: ABEG, ALD, AST, ACOM with its commits, AABT and ASTAT (R207 to R223). -/

namespace Sys2Proof.Machine

/-! ### Opening, and places -/

/-- R207, R214: a region as `ABEG` opens it. -/
def Region.fresh (fallback : W64) : Region :=
  { fallback := fallback, inputs := [], pins := 0, cons := [], stores := [], count := 0, rtags := [],
    ltags := [none, none, none, none] }

/-- ABEG (R214). -/
def execAbeg (o : LOp) (s : State) : Host.Outcome State Fault Refusal :=
  lWord s 0xA0 o true fun x s =>
    .done (x.mod s fun G => G.mapLanes fun i L =>
      if inMask x.p.mask i then { L with region := some (Region.fresh x.target) } else L)

/-- The space and the first byte of a place: the allotment, or the row space of a version. -/
def Loc.span : Loc → Option Nat × Nat
  | .scratch off => (none, off)
  | .table _ v _ addr => (some v, addr)

/-- R214: two accesses overlap. -/
def overlaps (a : Loc) (n : Nat) (b : Loc) (m : Nat) : Bool :=
  a.span.1 == b.span.1 && decide (a.span.2 < b.span.2 + m) && decide (b.span.2 < a.span.2 + n)

/-- R214: two accesses name the same bytes. -/
def sameLoc (a : Loc) (n : Nat) (b : Loc) (m : Nat) : Bool := a.span == b.span && n == m

/-- R209, R211: the key of `ALD` and `AST` in a register pair: the input that the second register carries is pinned too. -/
def pinPair (x : Word) (b : Bound) (s : State) : State :=
  if b.t.desc.k128 && !tabRid x.o then
    x.mod s fun G => G.mapLanes fun i L =>
      if inMask x.act i then
        { L with region := L.region.map fun r =>
            match lookupNat (regNo x.o.a + 1) r.rtags with
            | some t => { r with pins := r.pins ||| pinMask [t.input] }
            | none => r }
      else L
  else s

/-- A place of a lane, and whether its row was judged live from the core's row-cache copy (R182). -/
structure Spot where
  loc  : Loc
  copy : Bool
  deriving DecidableEq, Repr

/-- R214, R215: the places of the active lanes of `ALD` or `AST`, once the checks of its form have passed. -/
def areaLocs (x : Word) (s : State) (write : Bool) (k : State → (Nat → Option Spot) → LRes) : LRes :=
  let n := tyBytes x.o.ty
  if x.o.var = 1 then
    match scrCheck x n n false with
    | some t => .trap t
    | none => k s fun i => some { loc := .scratch (scrAt x i), copy := false }
  else
    tabWord x s write (fun _ => true) n n x.failForm fun s b =>
      let d := s.draw
      let cs := checkLanes x d.2 b (if write then none else some d.1) (tabOff x.o) n (if write then .wr else .rd) (!write)
      judge x cs <| k (pinPair x b d.2) fun i => (rowIn cs i).map fun r =>
        { loc := .table b.slot b.v r.rid (r.addr + tabOff x.o), copy := r.copy }

/-- The region of a lane of the word. -/
def Word.region (x : Word) (i : Nat) : Region := ((x.G.lane i).region).getD (Region.fresh 0)

/-! ### Reading -/

/-- R214: what an `ALD` of a place finds in a lane's region. -/
inductive AldCase where
  | illegal | again (k : Nat) | limit | new
  deriving DecidableEq, Repr

/-- R214, R215: the case of a place of n bytes. -/
def aldCase (r : Region) (l : Loc) (n : Nat) : AldCase :=
  if r.stores.any fun q => overlaps l n q.loc q.bytes then .illegal
  else
    match r.inputs.findIdx? fun q => sameLoc l n q.loc q.bytes with
    | some k => .again k
    | none =>
      if r.inputs.any fun q => overlaps l n q.loc q.bytes then .illegal
      else if 8 ≤ r.inputs.length then .limit
      else .new

/-- R214: reads a place once, through the row cache where it is a table's (R180). -/
def readLoc (x : Word) (s0 s : State) (l : Spot) (n : Nat) : Nat × State :=
  match l.loc with
  | .scratch off =>
    let q := readScratch s x.party x.E.w off n
    (bytesToNat q.1, q.2)
  | .table _ v rid addr =>
    match s.table? v with
    | none => (0, s)
    | some t =>
      let r : Row := { rid := rid, slot := (t.slotNo rid).getD 0, addr := addr, copy := l.copy }
      let q := readRow s0 s x.party v r addr n
      (bytesToNat q.1, q.2)

/-- R214: lane i delivers input k, with its tag. -/
def aldOut (x : Word) (k : Nat) (v : W64) (L : Lane) : Lane :=
  (L.w x.o.vd.toNat v).setTag x.o.vd.toNat (some { input := k, offset := 0 })

/-- R214: the step of lane i. -/
def aldLane (x : Word) (locs : Nat → Option Spot) (s0 s : State) (i : Nat) : State :=
  match locs i with
  | none => s
  | some l =>
    let n := tyBytes x.o.ty
    let r := x.region i
    match aldCase r l.loc n with
    | .again k =>
      let q := r.inputs.getD k { loc := l.loc, bytes := n, signed := false, value := 0 }
      x.modLane s i (aldOut x k (widen (tySigned x.o.ty) n q.value.toNat))
    | .new =>
      let q := readLoc x s0 s l n
      let v := widen (tySigned x.o.ty) n q.1
      let inp : RegionIn := { loc := l.loc, bytes := n, signed := tySigned x.o.ty, value := v }
      x.modLane q.2 i fun L =>
        aldOut x r.inputs.length v { L with region := L.region.map fun r => { r with inputs := r.inputs ++ [inp] } }
    | _ => s

/-- R212: the lanes over a limit leave for the fallback; the others have taken the word's effect. -/
def overLimit (x : Word) (s : State) (excess : LMask) (detail : Nat) : LRes :=
  if excess = 0 then .done s
  else if x.p.mask &&& ~~~ excess = 0 then x.giveUp s excess detail
  else .done (x.mod s fun G => (G.abortLanes x.e excess 4 detail).1)

/-- ALD (R214). -/
def execAld (o : LOp) (s : State) : Host.Outcome State Fault Refusal :=
  lWord s 0xA1 o true fun x s =>
    areaLocs x s false fun s locs =>
      let n := tyBytes x.o.ty
      let is := fun c i => inMask x.act i && (locs i).any fun l => aldCase (x.region i) l.loc n == c
      let excess := maskOf (is .limit)
      if maskOf (is .illegal) ≠ 0 then x.failW .aregIllegal
      else if excess ≠ 0 ∧ !x.G.canSendBack x.e excess then x.failW .splitOverflow
      else overLimit x ((lanesOf x.act).foldl (aldLane x locs s) s) excess 0

/-! ### Buffering -/

/-- R215: the buffered store of lane i. -/
def astStore (x : Word) (l : Loc) (i : Nat) : RegionStore :=
  let n := tyBytes x.o.ty
  match (x.region i).tagOf x.o.b with
  | some t => { loc := l, bytes := n, tag := some t.input, value := t.offset }
  | none => { loc := l, bytes := n, tag := none, value := x.b x.o.ty i }

/-- AST (R215). -/
def execAst (o : LOp) (s : State) : Host.Outcome State Fault Refusal :=
  lWord s 0xA2 o true fun x s =>
    areaLocs x s true fun s locs =>
      let excess := maskOf fun i => inMask x.act i && decide (16 ≤ (x.region i).stores.length)
      if excess ≠ 0 ∧ !x.G.canSendBack x.e excess then x.failW .splitOverflow
      else
        let s := x.mod s fun G => G.mapLanes fun i L =>
          match if inMask x.act i && !inMask excess i then locs i else none with
          | some l => { L with region := L.region.map fun r => { r with stores := r.stores ++ [astStore x l.loc i] } }
          | none => L
        overLimit x s excess 2

/-! ### Committing -/

/-- R216, R223: what Equinox finds of a place at commit: where it lies now, what firmware must service first, or a failure, with
the table id of data that cannot be corrected. -/
inductive LocState where
  | at_ (l : Loc)
  | waits (ns : List Need)
  | fails (bad : Option (BitVec 32))
  deriving DecidableEq, Repr

/-- R178, R216, R223: a place of n bytes that a lane needs: an input on the version that its `ALD` resolved; a store on the version
that its slot resolves now, where its row must be. -/
def locState (s : State) (E : Env) (rt : Right) (n : Nat) : Loc → LocState
  | .scratch off => .at_ (.scratch off)
  | .table slot v rid addr =>
    match slotOf s E.La slot with
    | .absent id => .waits [.descriptor id]
    | .unbound => .fails none
    | .bound b =>
      let there := if b.t.desc.isArray then decide (rid.toNat < b.t.desc.rows) else (b.t.liveRow rid).isSome
      if (rt == .rd && b.v != v) || !there then .fails none
      else
        match accessCheck s b.v b.t E.world rt addr n with
        | .service _ ns => .waits ns
        | .fault _ => .fails none
        | .ok => if rt == .rd && b.t.badData addr n then .fails (some b.id) else .at_ (.table slot b.v rid addr)

/-- R216: the fresh value of an input at its home. -/
def freshValue (s : State) (E : Env) (q : RegionIn) : W64 :=
  widen q.signed q.bytes
    (match q.loc with
     | .scratch off => match s.wgs[E.w]? with | some W => memNat W.scratch off q.bytes | none => 0
     | .table _ v _ addr => match s.table? v with | some t => memNat t.rows addr q.bytes | none => 0)

/-- R372: a commit's reads of its inputs correct the errors that they meet. -/
def correctInputs (s : State) (r : Region) : State :=
  r.inputs.foldl (fun s q => match q.loc with | .table _ v _ addr => s.correct v addr q.bytes | .scratch _ => s) s

/-- R210: a constraint holds against the fresh values. -/
def consHolds (f : List W64) (c : Constraint) : Bool :=
  let v := f.getD c.input 0 + c.offset
  let a := if c.tagLeft then v else c.other
  let b := if c.tagLeft then c.other else v
  let n := fun (w : W64) => if c.signed then w.toInt else (w.toNat : Int)
  cmpHolds c.cond.toNat (n a) (n b) == c.outcome

/-- R216: the status and detail of a lane's commit, given that its places are usable. -/
def commitStatus (r : Region) (f : List W64) : Nat × Nat :=
  let changed := fun k => f.getD k 0 != (r.inputs.map (·.value)).getD k 0
  if (List.range r.inputs.length).all fun k => !changed k then (0, 0)
  else
    match (List.range r.inputs.length).find? fun k => r.pins.getLsbD k && changed k with
    | some k => (3, k)
    | none =>
      match r.cons.findIdx? fun c => !consHolds f c with
      | some j => (2, j)
      | none => (1, 0)

/-- R263: Equinox, at work for lane i of a group. -/
def Env.commits (E : Env) (i : Nat) : Party := { who := .lanes E.w E.g (1#32 <<< i), core := E.W.coreNo }

/-- R219, R264: the fresh reads of a commit acquire at `.dom`. -/
def readInputs (E : Env) (i : Nat) (r : Region) (s : State) : State :=
  r.inputs.foldl (fun s q => match q.loc with
    | .scratch off => s.readNow (E.commits i) (.scratch E.w) off q.bytes (some domAll)
    | .table _ v _ addr =>
      (s.readNow (E.commits i) (.rows v) addr q.bytes (some domAll)).tell E.C.tenant E.world v addr q.bytes .load) s

/-- R215, R216, R219: one buffered store at its place, with the fresh values; it resolves its slot (R178, R278) and releases at
`.dom`. -/
def commitStore (E : Env) (i : Nat) (f : List W64) (s : State) (q : RegionStore) : State :=
  let v := match q.tag with | some k => f.getD k 0 + q.value | none => q.value
  let bs := wordToBytes q.bytes v
  match locState s E .wr q.bytes q.loc with
  | .at_ (.scratch off) => writeScratch s (E.commits i) E.w off bs false (some domAll)
  | .at_ (.table slot v _ addr) =>
    (storeRow (s.resolve E.La (E.commits i) slot) (E.commits i) v addr bs false (some domAll)).tell E.C.tenant E.world v addr q.bytes
      (.store bs)
  | _ => s

/-- R216: repairs the tagged registers of a lane. -/
def repairLane (f : List W64) (r : Region) (L : Lane) : Lane :=
  { L with regs := r.rtags.foldl (fun regs p => regs.set p.1 (f.getD p.2.input 0 + p.2.offset)) L.regs }

/-- R216: the places that a lane's commit needs, inputs first. -/
def commitPlaces (s : State) (E : Env) (r : Region) : List LocState :=
  r.inputs.map (fun q => locState s E .rd q.bytes q.loc) ++ r.stores.map (fun q => locState s E .wr q.bytes q.loc)

/-- R223: what firmware must service before a lane can commit. -/
def commitNeeds (s : State) (E : Env) (r : Region) : List Need :=
  (commitPlaces s E r).flatMap fun q => match q with | .waits ns => ns | _ => []

/-- R216, R221: the region of lane i closes with a status and a detail, its registers changed by `f` first. -/
def closeLane (s : State) (E : Env) (i st d : Nat) (f : Lane → Lane) : State :=
  s.modGroup E.w E.g fun G => G.mapLanes fun j L => if j = i then (f L).closeRegion st d else L

/-- R223, R298: data that cannot be corrected is logged where a commit meets it. -/
def logBad (E : Env) (s : State) (q : LocState) : State :=
  match q with
  | .fails (some id) => s.logEvent { cause := .eccUncorr, ctx := E.C.handle.setWidth 64, table := id, detail := 0 }
  | _ => s

/-- R216, R219, R223: the commit of lane i; none where it must wait. A clean lane changes no register. -/
def commitLane (s : State) (E : Env) (i : Nat) (r : Region) : Option State :=
  let places := commitPlaces s E r
  if !(commitNeeds s E r).isEmpty then none
  else if places.any fun q => match q with | .fails _ => true | _ => false then
    some (closeLane (places.foldl (logBad E) s) E i 3 8 id)
  else
    let f := r.inputs.map (freshValue s E)
    let st := commitStatus r f
    let s := correctInputs s r
    if 1 < st.1 then some (closeLane s E i st.1 st.2 id)
    else some (closeLane (r.stores.foldl (commitStore E i f) (readInputs E i r (dropCache s E.W.coreNo))) E i st.1 0
      (if st.1 = 1 then repairLane f r else id))

/-- R216: the lanes of a split commit in ascending order, from those whose region is still open; the second part tells whether
one must wait. -/
def commitLanes (E : Env) : List Nat → State → State × Bool
  | [], s => (s, false)
  | i :: is, s =>
    match ((E.now s).lane i).region with
    | none => commitLanes E is s
    | some r =>
      match commitLane s E i r with
      | none => (s, true)
      | some s' => commitLanes E is s'

/-- R221: a lane's last region committed. -/
def Lane.committed (L : Lane) : Bool := decide (L.rstat.toNat % 8 ≤ 1)

/-- R356: the BRANCH packet of lanes sent to the fallback. -/
def Word.sentPacket (x : Word) (s : State) (m : LMask) (fb : W64) (entry : Option Nat) : State :=
  emitBranch s x.E.w x.E.g (branchSp x.e (x.p.mask &&& ~~~ m != 0) entry) x.e fb.toNat m.toNat

/-- R218: the split after `ACOM`: the committed lanes go on, the others go to the fallback. -/
def afterCommit (x : Word) (fb : W64) (s : State) : State :=
  let G := x.E.now s
  let out := maskOf fun i => inMask x.p.mask i && !(G.lane i).committed
  let d := if out = 0 then (G, none) else G.sendBack x.e out fb
  let G := if x.p.mask &&& ~~~ out = 0 then d.1 else d.1.modSplit x.e fun p => { p with lpc := x.p.lpc + 1 }
  let s := s.setGroup x.E.w x.E.g G
  if out = 0 then s else x.sentPacket s out fb d.2

/-- R224: the word of an entry, as Equinox's queue on its core names it. -/
def Word.ticket (x : Word) : Nat × Nat × Nat := (x.E.w, x.E.g, x.e)

/-- R224: changes the queue of Equinox on the word's core. -/
def Word.queue (x : Word) (s : State) (f : List (Nat × Nat × Nat) → List (Nat × Nat × Nat)) : State :=
  s.setCore x.E.W.coreNo { s.core x.E.W.coreNo with acoms := f (s.core x.E.W.coreNo).acoms }

/-- ACOM (R216, R224): Equinox takes the `ACOM` words of a core one at a time, in issue order: the word waits for its turn behind
those that are not complete, or at a place that firmware must service first. -/
def execAcom (o : LOp) (s : State) : Host.Outcome State Fault Refusal :=
  lWord s 0xA3 o true fun x s =>
    if !x.G.canPlace then x.failW .splitOverflow
    else
      let queued := fun s => x.queue s (· ++ [x.ticket])
      if !(s.core x.E.W.coreNo).acoms.isEmpty then .hold .commit (queued s)
      else
        let r := commitLanes x.E (lanesOf x.p.mask) s
        if r.2 then .hold .commit (queued r.1) else .stay (afterCommit x (x.G.fallbackOf x.e) r.1)

/-- R223: a place at which a commit waits: the driver has serviced it, servicing has failed and the lane aborts, or neither has
come yet: a free choice, for the lowest lane that waits. -/
def serveCommit (E : Env) : List Nat → State → State
  | [], s => s
  | i :: is, s =>
    match ((E.now s).lane i).region with
    | none => serveCommit E is s
    | some r =>
      let needs := commitNeeds s E r
      if needs.isEmpty then s
      else
        let d := s.draw
        if d.1 % 3 = 0 then closeLane d.2 E i 3 8 id
        else if d.1 % 3 = 1 then needs.foldl provide d.2
        else d.2

/-- COMMIT_RESUME (R223, R224): the word at the head of Equinox's queue goes on from its locking step. -/
def execCommitResume (wg g e : Nat) (s : State) : Host.Outcome State Fault Refusal :=
  lateEvent s wg g (fun E => E.G.L.running && (E.G.split e).wait == .commit
      && (s.core E.W.coreNo).acoms.head? == some (wg, g, e)) fun _ s =>
    match wordAt s wg g e with
    | none => s
    | some x =>
      let r := commitLanes x.E (lanesOf x.p.mask) (serveCommit x.E (lanesOf x.p.mask) s)
      if r.2 then r.1
      else
        let s := x.mod (x.queue r.1 (·.drop 1)) fun G => G.modSplit e fun p => { p with wait := .none, flast := pc26 p.lpc }
        afterCommit x (x.G.fallbackOf e) s

/-! ### Aborting and asking -/

/-- AABT (R220). Where it traps with SPLIT_OVERFLOW it aborts nothing of its own, and the trap then aborts every open region of the
group with status 6 and detail 1 (R222): DESIGN CHOICE (entry 68). -/
def execAabt (o : LOp) (s : State) : Host.Outcome State Fault Refusal :=
  lWord s 0xA4 o true fun x s =>
    if x.act = 0 then .done s
    else if !x.G.canSendBack x.e x.act then x.failW .splitOverflow
    else
      let fb := x.G.fallbackOf x.e
      let d := (x.E.now s).abortLanes x.e x.act 5 0
      let s := x.sentPacket (s.setGroup x.E.w x.E.g d.1) x.act fb d.2
      if x.p.mask &&& ~~~ x.act = 0 then .stay s else .done s

/-- ASTAT (R221). -/
def execAstat (o : LOp) (s : State) : Host.Outcome State Fault Refusal :=
  lWord s 0xA5 o true fun x s =>
    .done (x.mod s fun G => G.mapLanes fun i L =>
      if inMask x.act i then (L.w x.o.vd.toNat (L.rstat.setWidth 64)).setTag x.o.vd.toNat none else L)

end Sys2Proof.Machine
end

