-- ==== Sys2Proof/Machine/Dispatch.lean ====
section
/-! DEFINITION. The dispatch: one arm per instruction, one direct call of its meaning. -/

namespace Sys2Proof.Machine

/-- The effect of an instruction: of the word that the agent named in the state issues, or of an event of the module. -/
def exec (i : Instr) (s : State) : Host.Outcome State Fault Refusal :=
  match i with
  | .add d a b => Sys2Proof.Machine.execAdd d a b s
  | .sub d a b => Sys2Proof.Machine.execSub d a b s
  | .and d a b => Sys2Proof.Machine.execAnd d a b s
  | .or d a b => Sys2Proof.Machine.execOr d a b s
  | .xor d a b => Sys2Proof.Machine.execXor d a b s
  | .andn d a b => Sys2Proof.Machine.execAndn d a b s
  | .shl d a b => Sys2Proof.Machine.execShl d a b s
  | .shr d a b => Sys2Proof.Machine.execShr d a b s
  | .sar d a b => Sys2Proof.Machine.execSar d a b s
  | .mul d a b => Sys2Proof.Machine.execMul d a b s
  | .mulh d a b => Sys2Proof.Machine.execMulh d a b s
  | .mulhn d a b => Sys2Proof.Machine.execMulhn d a b s
  | .div d a b => Sys2Proof.Machine.execDiv d a b s
  | .divn d a b => Sys2Proof.Machine.execDivn d a b s
  | .rem d a b => Sys2Proof.Machine.execRem d a b s
  | .remn d a b => Sys2Proof.Machine.execRemn d a b s
  | .min d a b => Sys2Proof.Machine.execMin d a b s
  | .max d a b => Sys2Proof.Machine.execMax d a b s
  | .minn d a b => Sys2Proof.Machine.execMinn d a b s
  | .maxn d a b => Sys2Proof.Machine.execMaxn d a b s
  | .slt d a b => Sys2Proof.Machine.execSlt d a b s
  | .sltn d a b => Sys2Proof.Machine.execSltn d a b s
  | .seq d a b => Sys2Proof.Machine.execSeq d a b s
  | .sne d a b => Sys2Proof.Machine.execSne d a b s
  | .clz d a => Sys2Proof.Machine.execClz d a s
  | .ctz d a => Sys2Proof.Machine.execCtz d a s
  | .popc d a => Sys2Proof.Machine.execPopc d a s
  | .brev d a => Sys2Proof.Machine.execBrev d a s
  | .addw d a b => Sys2Proof.Machine.execAddw d a b s
  | .subw d a b => Sys2Proof.Machine.execSubw d a b s
  | .divT d a b => Sys2Proof.Machine.execDivT d a b s
  | .divnT d a b => Sys2Proof.Machine.execDivnT d a b s
  | .remT d a b => Sys2Proof.Machine.execRemT d a b s
  | .remnT d a b => Sys2Proof.Machine.execRemnT d a b s
  | .addi d a imm => Sys2Proof.Machine.execAddi d a imm s
  | .andi d a imm => Sys2Proof.Machine.execAndi d a imm s
  | .ori d a imm => Sys2Proof.Machine.execOri d a imm s
  | .xori d a imm => Sys2Proof.Machine.execXori d a imm s
  | .shli d a imm => Sys2Proof.Machine.execShli d a imm s
  | .shri d a imm => Sys2Proof.Machine.execShri d a imm s
  | .sari d a imm => Sys2Proof.Machine.execSari d a imm s
  | .slti d a imm => Sys2Proof.Machine.execSlti d a imm s
  | .sltni d a imm => Sys2Proof.Machine.execSltni d a imm s
  | .muli d a imm => Sys2Proof.Machine.execMuli d a imm s
  | .movi d imm => Sys2Proof.Machine.execMovi d imm s
  | .movh d imm => Sys2Proof.Machine.execMovh d imm s
  | .ldk d n => Sys2Proof.Machine.execLdk d n s
  | .ldkx d a imm => Sys2Proof.Machine.execLdkx d a imm s
  | .ldp d n => Sys2Proof.Machine.execLdp d n s
  | .b c a o => Sys2Proof.Machine.execB c a o s
  | .j o => Sys2Proof.Machine.execJ o s
  | .call o => Sys2Proof.Machine.execCall o s
  | .jr a => Sys2Proof.Machine.execJr a s
  | .jalr d a => Sys2Proof.Machine.execJalr d a s
  | .loop a o => Sys2Proof.Machine.execLoop a o s
  | .loopi c o => Sys2Proof.Machine.execLoopi c o s
  | .rds d n => Sys2Proof.Machine.execRds d n s
  | .lrun o => Sys2Proof.Machine.execLrun o s
  | .lrunr a => Sys2Proof.Machine.execLrunr a s
  | .lwaitRelease wg g => Sys2Proof.Machine.execLwaitRelease wg g s
  | .pushu a => Sys2Proof.Machine.execPushu a s
  | .popb d => Sys2Proof.Machine.execPopb d s
  | .queueDeadlock wg g => Sys2Proof.Machine.execQueueDeadlock wg g s
  | .skld d a t o => Sys2Proof.Machine.execSkld d a t o s
  | .skst d a t o => Sys2Proof.Machine.execSkst d a t o s
  | .kswap a t => Sys2Proof.Machine.execKswap a t s
  | .kswapComplete wg g => Sys2Proof.Machine.execKswapComplete wg g s
  | .copy d tag => Sys2Proof.Machine.execCopy d tag s
  | .gather d tag => Sys2Proof.Machine.execGather d tag s
  | .bload d => Sys2Proof.Machine.execBload d s
  | .cwait a b o sc => Sys2Proof.Machine.execCwait a b o sc s
  | .cwaitWake wg g => Sys2Proof.Machine.execCwaitWake wg g s
  | .fence o sc => Sys2Proof.Machine.execFence o sc s
  | .bar id => Sys2Proof.Machine.execBar id s
  | .barDepart wg g => Sys2Proof.Machine.execBarDepart wg g s
  | .spawn d a => Sys2Proof.Machine.execSpawn d a s
  | .sleep n => Sys2Proof.Machine.execSleep n s
  | .sleepEnd wg g => Sys2Proof.Machine.execSleepEnd wg g s
  | .mark n => Sys2Proof.Machine.execMark n s
  | .csrr d c => Sys2Proof.Machine.execCsrr d c s
  | .csrw a c => Sys2Proof.Machine.execCsrw a c s
  | .trap n => Sys2Proof.Machine.execTrap n s
  | .lAdd o => Sys2Proof.Machine.execLAdd o s
  | .lSub o => Sys2Proof.Machine.execLSub o s
  | .lMul o => Sys2Proof.Machine.execLMul o s
  | .lMulh o => Sys2Proof.Machine.execLMulh o s
  | .mad o => Sys2Proof.Machine.execMad o s
  | .adds o => Sys2Proof.Machine.execAdds o s
  | .subs o => Sys2Proof.Machine.execSubs o s
  | .abs o => Sys2Proof.Machine.execAbs o s
  | .neg o => Sys2Proof.Machine.execNeg o s
  | .lMin o => Sys2Proof.Machine.execLMin o s
  | .lMax o => Sys2Proof.Machine.execLMax o s
  | .lAnd o => Sys2Proof.Machine.execLAnd o s
  | .lOr o => Sys2Proof.Machine.execLOr o s
  | .lXor o => Sys2Proof.Machine.execLXor o s
  | .not o => Sys2Proof.Machine.execNot o s
  | .lShl o => Sys2Proof.Machine.execLShl o s
  | .lShr o => Sys2Proof.Machine.execLShr o s
  | .lSar o => Sys2Proof.Machine.execLSar o s
  | .lClz o => Sys2Proof.Machine.execLClz o s
  | .lPopc o => Sys2Proof.Machine.execLPopc o s
  | .lBrev o => Sys2Proof.Machine.execLBrev o s
  | .bfx o => Sys2Proof.Machine.execBfx o s
  | .bfi o => Sys2Proof.Machine.execBfi o s
  | .sel o => Sys2Proof.Machine.execSel o s
  | .cmp o => Sys2Proof.Machine.execCmp o s
  | .mov o => Sys2Proof.Machine.execMov o s
  | .prm o => Sys2Proof.Machine.execPrm o s
  | .dotb o => Sys2Proof.Machine.execDotb o s
  | .madw o => Sys2Proof.Machine.execMadw o s
  | .fadd o => Sys2Proof.Machine.execFadd o s
  | .fsub o => Sys2Proof.Machine.execFsub o s
  | .fmul o => Sys2Proof.Machine.execFmul o s
  | .fma o => Sys2Proof.Machine.execFma o s
  | .fnma o => Sys2Proof.Machine.execFnma o s
  | .fmin o => Sys2Proof.Machine.execFmin o s
  | .fmax o => Sys2Proof.Machine.execFmax o s
  | .fabs o => Sys2Proof.Machine.execFabs o s
  | .fneg o => Sys2Proof.Machine.execFneg o s
  | .fcmp o => Sys2Proof.Machine.execFcmp o s
  | .fcls o => Sys2Proof.Machine.execFcls o s
  | .frnd o => Sys2Proof.Machine.execFrnd o s
  | .fdiv o => Sys2Proof.Machine.execFdiv o s
  | .fsqrt o => Sys2Proof.Machine.execFsqrt o s
  | .rcp o => Sys2Proof.Machine.execRcp o s
  | .rsq o => Sys2Proof.Machine.execRsq o s
  | .exp2 o => Sys2Proof.Machine.execExp2 o s
  | .log2 o => Sys2Proof.Machine.execLog2 o s
  | .sin o => Sys2Proof.Machine.execSin o s
  | .cos o => Sys2Proof.Machine.execCos o s
  | .tanh o => Sys2Proof.Machine.execTanh o s
  | .fscl o => Sys2Proof.Machine.execFscl o s
  | .fcvt o => Sys2Proof.Machine.execFcvt o s
  | .icvt o => Sys2Proof.Machine.execIcvt o s
  | .fcvti o => Sys2Proof.Machine.execFcvti o s
  | .qblk o => Sys2Proof.Machine.execQblk o s
  | .dqblk o => Sys2Proof.Machine.execDqblk o s
  | .pack o => Sys2Proof.Machine.execPack o s
  | .unpk o => Sys2Proof.Machine.execUnpk o s
  | .shfl o => Sys2Proof.Machine.execShfl o s
  | .shfx o => Sys2Proof.Machine.execShfx o s
  | .bcst o => Sys2Proof.Machine.execBcst o s
  | .ball o => Sys2Proof.Machine.execBall o s
  | .vote o => Sys2Proof.Machine.execVote o s
  | .mbcnt o => Sys2Proof.Machine.execMbcnt o s
  | .conf o => Sys2Proof.Machine.execConf o s
  | .red o => Sys2Proof.Machine.execRed o s
  | .scan o => Sys2Proof.Machine.execScan o s
  | .bra o => Sys2Proof.Machine.execBra o s
  | .jmp o => Sys2Proof.Machine.execJmp o s
  | .joinAll o => Sys2Proof.Machine.execJoinAll o s
  | .joinAny o => Sys2Proof.Machine.execJoinAny o s
  | .lend o => Sys2Proof.Machine.execLend o s
  | .exitl o => Sys2Proof.Machine.execExitl o s
  | .yld o => Sys2Proof.Machine.execYld o s
  | .yldReturn wg g e => Sys2Proof.Machine.execYldReturn wg g e s
  | .splitReload wg g => Sys2Proof.Machine.execSplitReload wg g s
  | .movw o => Sys2Proof.Machine.execMovw o s
  | .pushb o => Sys2Proof.Machine.execPushb o s
  | .setmd o => Sys2Proof.Machine.execSetmd o s
  | .getmd o => Sys2Proof.Machine.execGetmd o s
  | .rdfl o => Sys2Proof.Machine.execRdfl o s
  | .clfl o => Sys2Proof.Machine.execClfl o s
  | .lds o => Sys2Proof.Machine.execLds o s
  | .sts o => Sys2Proof.Machine.execSts o s
  | .ats o => Sys2Proof.Machine.execAts o s
  | .waitge o => Sys2Proof.Machine.execWaitge o s
  | .waitgeRecheck wg g e => Sys2Proof.Machine.execWaitgeRecheck wg g e s
  | .kfind o => Sys2Proof.Machine.execKfind o s
  | .kld o => Sys2Proof.Machine.execKld o s
  | .kst o => Sys2Proof.Machine.execKst o s
  | .kins o => Sys2Proof.Machine.execKins o s
  | .kdel o => Sys2Proof.Machine.execKdel o s
  | .kseek o => Sys2Proof.Machine.execKseek o s
  | .knext o => Sys2Proof.Machine.execKnext o s
  | .kclose o => Sys2Proof.Machine.execKclose o s
  | .kat o => Sys2Proof.Machine.execKat o s
  | .scat o => Sys2Proof.Machine.execScat o s
  | .reductionApply red => Sys2Proof.Machine.execReductionApply red s
  | .abeg o => Sys2Proof.Machine.execAbeg o s
  | .ald o => Sys2Proof.Machine.execAld o s
  | .ast o => Sys2Proof.Machine.execAst o s
  | .acom o => Sys2Proof.Machine.execAcom o s
  | .commitResume wg g e => Sys2Proof.Machine.execCommitResume wg g e s
  | .aabt o => Sys2Proof.Machine.execAabt o s
  | .astat o => Sys2Proof.Machine.execAstat o s
  | .mma o => Sys2Proof.Machine.execMma o s
  | .quarterOp core k => Sys2Proof.Machine.execQuarterOp core k s
  | .tileReady core k => Sys2Proof.Machine.execTileReady core k s
  | .mzero o => Sys2Proof.Machine.execMzero o s
  | .mdrn o => Sys2Proof.Machine.execMdrn o s
  | .mrd o => Sys2Proof.Machine.execMrd o s
  | .mwt o => Sys2Proof.Machine.execMwt o s
  | .nop o => Sys2Proof.Machine.execNop o s
  | .fencel o => Sys2Proof.Machine.execFencel o s
  | .trapl o => Sys2Proof.Machine.execTrapl o s
  | .markl o => Sys2Proof.Machine.execMarkl o s
  | .blockStart wg g => Sys2Proof.Machine.execBlockStart wg g s
  | .copyJobStart job => Sys2Proof.Machine.execCopyJobStart job s
  | .copySector job slice recv row sec => Sys2Proof.Machine.execCopySector job slice recv row sec s
  | .gatherElement job imm => Sys2Proof.Machine.execGatherElement job imm s
  | .bloadLine job j => Sys2Proof.Machine.execBloadLine job j s
  | .counterAdd job slice recv n => Sys2Proof.Machine.execCounterAdd job slice recv n s
  | .jobComplete job => Sys2Proof.Machine.execJobComplete job s
  | .trapEntry wg g => Sys2Proof.Machine.execTrapEntry wg g s
  | .timer wg g => Sys2Proof.Machine.execTimer wg g s
  | .timeLimit launch => Sys2Proof.Machine.execTimeLimit launch s
  | .bindStart core => Sys2Proof.Machine.execBindStart core s
  | .bindResume core => Sys2Proof.Machine.execBindResume core s
  | .bindFill core => Sys2Proof.Machine.execBindFill core s
  | .bindSwap core => Sys2Proof.Machine.execBindSwap core s
  | .duskSwap core => Sys2Proof.Machine.execDuskSwap core s
  | .spillDrainDone core => Sys2Proof.Machine.execSpillDrainDone core s
  | .spillFillDone core => Sys2Proof.Machine.execSpillFillDone core s
  | .childTaskStart core => Sys2Proof.Machine.execChildTaskStart core s
  | .workgroupComplete wg => Sys2Proof.Machine.execWorkgroupComplete wg s
  | .contextCreate m => Sys2Proof.Machine.execContextCreate m s
  | .contextEnd m => Sys2Proof.Machine.execContextEnd m s
  | .load m => Sys2Proof.Machine.execLoad m s
  | .unload m => Sys2Proof.Machine.execUnload m s
  | .levels m => Sys2Proof.Machine.execLevels m s
  | .tableCreate m => Sys2Proof.Machine.execTableCreate m s
  | .tableRetire m => Sys2Proof.Machine.execTableRetire m s
  | .rowsWrite m => Sys2Proof.Machine.execRowsWrite m s
  | .rowsRead m => Sys2Proof.Machine.execRowsRead m s
  | .tableSwap m => Sys2Proof.Machine.execTableSwap m s
  | .windowSet m => Sys2Proof.Machine.execWindowSet m s
  | .windowRevoke m => Sys2Proof.Machine.execWindowRevoke m s
  | .launch m => Sys2Proof.Machine.execLaunch m s
  | .wait m => Sys2Proof.Machine.execWait m s
  | .debugGrantRight m => Sys2Proof.Machine.execDebugGrantRight m s
  | .debugRevokeRight m => Sys2Proof.Machine.execDebugRevokeRight m s
  | .debugWriteDbgctl m => Sys2Proof.Machine.execDebugWriteDbgctl m s
  | .debugWriteBreakpoint m => Sys2Proof.Machine.execDebugWriteBreakpoint m s
  | .debugStopOrHold m => Sys2Proof.Machine.execDebugStopOrHold m s
  | .debugStateAccess m => Sys2Proof.Machine.execDebugStateAccess m s
  | .debugTraceChannel m => Sys2Proof.Machine.execDebugTraceChannel m s
  | .debugNoonTrigger m => Sys2Proof.Machine.execDebugNoonTrigger m s
  | .attest m => Sys2Proof.Machine.execAttest m s
  | .debugStop wg g => Sys2Proof.Machine.execDebugStop wg g s
  | .splitHold wg g e => Sys2Proof.Machine.execSplitHold wg g e s
  | .sync die => Sys2Proof.Machine.execSync die s
  | .loss die => Sys2Proof.Machine.execLoss die s
  | .lbrk => Sys2Proof.Machine.execLbrk s
  | .lwait => Sys2Proof.Machine.execLwait s
  | .exit => Sys2Proof.Machine.execExit s
  | .eret => Sys2Proof.Machine.execEret s
  | .halt => Sys2Proof.Machine.execHalt s
  | .brk => Sys2Proof.Machine.execBrk s
  | .yield => Sys2Proof.Machine.execYield s
  | .serviceComplete wg r => Sys2Proof.Machine.execServiceComplete wg r s
  | .testLaunch tenant world kernel => Sys2Proof.Machine.execTestLaunch tenant world kernel s
  | .revocationNotice notice => Sys2Proof.Machine.execRevocationNotice notice s
  | .boot => Sys2Proof.Machine.execBoot s
  | .undervoltagePowerDown => Sys2Proof.Machine.execUndervoltagePowerDown s
  | .firmwareImageReceive image => Sys2Proof.Machine.execFirmwareImageReceive image s
  | .thermalShutdown die => Sys2Proof.Machine.execThermalShutdown die s
  | .clockThrottle lower => Sys2Proof.Machine.execClockThrottle lower s
  | .stateUncorr ctx => Sys2Proof.Machine.execStateUncorr ctx s
  | .tenantAdmission tenant record => Sys2Proof.Machine.execTenantAdmission tenant record s
  | .tenantRetirement tenant => Sys2Proof.Machine.execTenantRetirement tenant s
  | .sessionOpen session tenant => Sys2Proof.Machine.execSessionOpen session tenant s
  | .grantAdmission tenant owner grantee table => Sys2Proof.Machine.execGrantAdmission tenant owner grantee table s
  | .noticeAcknowledgement notice => Sys2Proof.Machine.execNoticeAcknowledgement notice s
  | .flitAck link owner counter => Sys2Proof.Machine.execFlitAck link owner counter s
  | .linkFailure link windows => Sys2Proof.Machine.execLinkFailure link windows s
  | .slabMigration m => Sys2Proof.Machine.execSlabMigration m s
  | .zhenanFlitReceive link f => Sys2Proof.Machine.execZhenanFlitReceive link f s
  | .flitNak link owner => Sys2Proof.Machine.execFlitNak link owner s
  | .linkRetrain link peer => Sys2Proof.Machine.execLinkRetrain link peer s
  | .linkRekey link owner => Sys2Proof.Machine.execLinkRekey link owner s
  | .virtualLaneStop link vl on => Sys2Proof.Machine.execVirtualLaneStop link vl on s
  | .secretDelivery tenant k wrapped => Sys2Proof.Machine.execSecretDelivery tenant k wrapped s
  | .periodAdvance tenant => Sys2Proof.Machine.execPeriodAdvance tenant s
  | .contextMigrate ctx handover => Sys2Proof.Machine.execContextMigrate ctx handover s
  | .migrationConfirm ctx handover here => Sys2Proof.Machine.execMigrationConfirm ctx handover here s

end Sys2Proof.Machine
end

