-- ==== Sys2Proof/Machine/Touches.lean ====
section
/-! DEFINITION. What words and engines touch: the accesses that a watch covers (R360), and the resources that carry a world tag (R341). -/

namespace Sys2Proof.Machine

/-! ### Accesses -/

/-- R360: an access of a word: the table slot, or none for the scratchpad; first byte; bytes; whether it reads and writes. -/
structure Touch where
  slot  : Option (BitVec 6)
  at_   : Nat
  len   : Nat
  reads : Bool
  writes : Bool
  deriving DecidableEq, Repr

/-- The accesses of an S word. -/
def touchesS (E : Env) : Instr → List Touch
  | .skld _ _ t o => [{ slot := some t, at_ := 8 * o.toNat, len := 8, reads := true, writes := false }]
  | .skst _ _ t o => [{ slot := some t, at_ := 8 * o.toNat, len := 8, reads := false, writes := true }]
  | .cwait a _ _ _ =>
    let l := E.G.rS a
    if locKind l then [{ slot := some (locSlot l), at_ := locOff l, len := 8, reads := true, writes := false }]
    else [{ slot := none, at_ := bitsOf l 31 0, len := 8, reads := true, writes := false }]
  | _ => []

/-- Scratchpad accesses of the active lanes. -/
def laneTouches (x : Word) (at_ : Nat → Nat) (len : Nat) (reads writes : Bool) : List Touch :=
  (lanesOf x.act).map fun i => { slot := none, at_ := at_ i, len := len, reads := reads, writes := writes }

/-- The row bytes of a table word with an active lane. -/
def rowTouch (x : Word) (len : Nat) (reads writes : Bool) : List Touch :=
  if x.act = 0 ∨ len = 0 then []
  else [{ slot := some (tabSlot x.o), at_ := tabOff x.o, len := len, reads := reads, writes := writes }]

/-- R360: the accesses of an L word; the commits, jobs and reductions that a word starts are none of its own. -/
def touchesL (x : Word) : Instr → List Touch
  | .lds _ => laneTouches x (scrAt x) (accBytes x.o) true false
  | .sts _ => laneTouches x (scrAt x) (accBytes x.o) false true
  | .ats _ => laneTouches x (scrAt x) (atomBytes x.o) true true
  | .waitge _ => laneTouches x (scrAt x) (tyBytes x.o.ty) true false
  | .kld _ => rowTouch x (tabBytes x.o) true false
  | .kst _ => rowTouch x (tabBytes x.o) false true
  | .kins _ => rowTouch x (tabBytes x.o) false true
  | .kat _ => rowTouch x (katBytes x.o) true true
  | .ald _ => if x.o.var = 1 then laneTouches x (scrAt x) (tyBytes x.o.ty) true false else rowTouch x (tyBytes x.o.ty) true false
  | .mma _ => laneTouches x (fun i => (matAddr x i).toNat) (aBytes (mmaA x.o)) true false
  | .mdrn _ => laneTouches x (fun i => (matAddr x i).toNat) (128 * tyBytes x.o.ty) false true
      ++ (match x.o.c with
          | .reg v => x.quarters.map fun q =>
              { slot := none, at_ := ((x.G.lane (x.quarterLead q)).r v.toNat).toNat, len := 512, reads := true, writes := false }
          | _ => [])
  | _ => []

/-- R190, R360: the accesses of an L word that has left the group as `G`: a `KINS` of the predicate form that has inserted no row has
made none. -/
def touchedL (x : Word) (G : Group) (i : Instr) : List Touch :=
  match i with
  | .kins o =>
    if o.aux.getLsbD 3 && (lanesOf x.act).all (fun k => !(G.lane k).p (o.aux.extractLsb' 0 3)) then [] else touchesL x i
  | _ => touchesL x i

/-- R360: an enabled watch that an access overlaps. -/
def watched (C : Context) (t : Touch) : Bool :=
  C.dbgctl.getLsbD 0 && C.dbgctl.getLsbD 4 &&
  C.watches.any fun p =>
    let d0 := p.2.getD 0 0
    let start := (p.2.getD 1 0).toNat
    d0.getLsbD 63 && ((d0.getLsbD 61 && t.reads) || (d0.getLsbD 62 && t.writes))
    && (match t.slot with
        | none => !d0.getLsbD 60
        | some k => d0.getLsbD 60 && d0.extractLsb' 54 6 == k)
    && bitsOf d0 31 0 != 0 && t.len != 0 && decide (start < t.at_ + t.len) && decide (t.at_ < start + bitsOf d0 31 0)

/-! ### World tags -/

/-- R341: the tag of one kind of resource of a workgroup. -/
def Tags.of (t : Tags) : TagKind → BitVec 16
  | .regs => t.regs
  | .tiles => t.tiles
  | .allot => t.allot

/-- R341: a word of active lanes that reads or writes a lane register. -/
def Word.usesRegs (x : Word) : Bool :=
  x.act != 0 && ((usedSrcs x.op x.o).any (fun q => match q with | .reg _ => true | _ => false)
    || !x.o.nw && (formOf (rawOfOp x.op x.o)).any fun f => match f.dst with | .lane _ => true | _ => false)

/-- R341: an L word that reads or writes an accumulator tile. -/
def usesTiles : Instr → Bool
  | .mma _ | .mzero _ | .mdrn _ | .mrd _ => true
  | _ => false

/-- R207: an open region of the split reads or writes its allotment. -/
def Group.regionScratch (G : Group) (m : LMask) : Bool :=
  let inAllot := fun (l : Loc) => match l with | .scratch _ => true | .table _ _ _ _ => false
  (lanesOf m).any fun i => (G.lane i).region.any fun r => r.inputs.any (fun q => inAllot q.loc) || r.stores.any fun q => inAllot q.loc

/-- R341: the tagged resources of its own workgroup that an L word uses. -/
def laneUses (x : Word) (i : Instr) : List TagKind :=
  let commits := match i with | .acom _ => x.G.regionScratch x.p.mask | _ => false
  (if x.usesRegs then [.regs] else []) ++ (if x.act != 0 && usesTiles i then [.tiles] else [])
    ++ if commits || (touchesL x i).any (fun t => t.slot.isNone) then [.allot] else []

/-- R341: the tagged resources of its own workgroup that an S word uses. -/
def scalarUses (E : Env) (i : Instr) : List TagKind := if (touchesS E i).any fun t => t.slot.isNone then [.allot] else []

/-- R341: an access of group g of workgroup w to a tagged resource of a workgroup. -/
structure TagUse where
  w     : Nat
  g     : Nat
  owner : Nat
  kind  : TagKind
  deriving DecidableEq, Repr

/-- R341: the tagged resources that a unit of an engine job, or a word that has issued and goes on, uses. -/
def eventUses (s : State) : Instr → List TagUse
  | .copySector job slice recv row sec =>
    (s.jobs[job]?).elim [] fun j => (j.slices[slice]?).elim [] fun q => (envAt s j.wg q.group).elim [] fun E =>
      let c := copyD q.d
      if j.state != .started || !c.hasSector recv row sec || j.done.contains { slice := slice, recv := recv, row := row, sec := sec } then []
      else match receiverOf s E c recv with | .here w => [{ w := j.wg, g := q.group, owner := w, kind := .allot }] | _ => []
  | .gatherElement job i =>
    (s.jobs[job]?).elim [] fun j => (j.slices.head?).elim [] fun q =>
      if j.state == .complete || j.units ≤ i || j.done.contains { slice := 0, recv := 0, row := i, sec := 0 } then []
      else [{ w := j.wg, g := q.group, owner := j.wg, kind := .allot }]
  | .counterAdd job slice recv n =>
    (s.jobs[job]?).elim [] fun j => (j.slices[slice]?).elim [] fun q => (envAt s j.wg q.group).elim [] fun E =>
      let inAllot := match q.ctr with | .scratch _ => true | .table _ _ _ => false
      if j.state != .started || !inAllot || !j.owed.any (fun o => o.slice == slice && o.recv == recv && decide (n ≤ o.n)) then []
      else
        match if j.kind.isCopy then receiverOf s E (copyD q.d) recv else .here j.wg with
        | .here w => [{ w := j.wg, g := q.group, owner := w, kind := .allot }]
        | _ => []
  | .quarterOp core k => (((s.core core).mq)[k]?).elim [] fun q => [{ w := q.wg, g := q.group, owner := q.wg, kind := .tiles }]
  | .commitResume w g e =>
    (s.group? w g).elim [] fun G =>
      if (G.split e).wait == .commit && G.regionScratch (G.split e).mask then [{ w := w, g := g, owner := w, kind := .allot }] else []
  | .waitgeRecheck w g e =>
    (s.group? w g).elim [] fun G =>
      match (G.split e).wait with | .waitge _ _ => [{ w := w, g := g, owner := w, kind := .allot }] | _ => []
  | .cwaitWake w g =>
    (s.group? w g).elim [] fun G =>
      match G.S.stall with
      | .cwait l _ => if locKind l then [] else [{ w := w, g := g, owner := w, kind := .allot }]
      | _ => []
  | _ => []

/-- R341: an access meets the tag of another world: who makes it, and the tag. -/
def tagMiss (s : State) (u : TagUse) : Option (Env × BitVec 16) :=
  match envAt s u.w u.g, s.wgs[u.owner]? with
  | some E, some W => if W.tags.of u.kind = E.world then none else some (E, W.tags.of u.kind)
  | _, _ => none

/-- R341: the first access of a list, by a group to its own workgroup, that meets the tag of another world. -/
def Env.tagMiss (E : Env) (ks : List TagKind) : Option (BitVec 16) := (ks.map E.W.tags.of).find? fun t => t != E.world

/-- R341: a group has met a resource of another world: logged with both worlds, the group's above the tag, and the context ends. -/
def tagFault (s : State) (E : Env) (tag : BitVec 16) : State :=
  let s := s.logEvent { cause := .worldViolation, ctx := E.La.ctx.setWidth 64, table := 0, detail := (E.world ++ tag).setWidth 64 }
  endContext s E.La.ctx (causeCode .worldViolation) 0 []

end Sys2Proof.Machine
end

