-- ==== Sys2Proof/Machine/Meters.lean ====
section
/-! DEFINITION. What the units of the module count (R361): issues, stalls and occupancy of cores, row caches, engines, links and index
engines. The spec names the counters and leaves open what each counts in its unit: DESIGN CHOICE (log entry 50). -/

namespace Sys2Proof.Machine

/-! ### Units -/

/-- R361: the unit of a core's engine that runs a kind of job. -/
def JobKind.unit (k : JobKind) (core : Nat) : Nat :=
  5 * core + (match k with | .copy _ _ => 2 | .gather _ => 3 | .bload => 4)

/-- R361: the unit of a link. -/
def linkUnit (l : Nat) : Nat := 5 * Config.cores + l

/-- R361, R170: the unit of the index engine of a table: that of the die its index homes on. -/
def indexUnit (d : Desc) : Nat :=
  5 * Config.cores + Config.links + (if d.homed then d.home.toNat else bitsOf (d.id.setWidth 64) 4 0)

/-- The context of a workgroup. -/
def ctxOfWg (s : State) (w : Nat) : Option (BitVec 32) := ((s.wgs[w]?).bind fun W => s.launch? W.launch).map (·.ctx)

/-- R361: a unit counts for the context of a workgroup. -/
def State.meterWg (s : State) (unit w : Nat) (f : Meter → Meter) : State :=
  match ctxOfWg s w with
  | some c => s.meter unit (.ctx c) f
  | none => s

/-- n more issues. -/
def Meter.issue (n : Nat) (m : Meter) : Meter := { m with issued := m.issued + n }
/-- n more stalls. -/
def Meter.stall (n : Nat) (m : Meter) : Meter := { m with stalled := m.stalled + n }
/-- n more clk of occupancy. -/
def Meter.hold (n : Nat) (m : Meter) : Meter := { m with resident := m.resident + n }

/-! ### Counting -/

/-- R361: a core counts a word that has issued, or an issue that has stalled. -/
def countIssue (s : State) (E : Env) (stalled : Bool) : State :=
  s.meter (5 * E.W.coreNo) (.ctx E.C.handle) (if stalled then Meter.stall 1 else Meter.issue 1)

/-- R361: the occupancy of clk that pass: the groups resident on cores, the lines of the row caches of cores for each context there, the
jobs that engines run, and the messages that wait on links. -/
def occupy (s : State) (clk : Nat) : State :=
  let here := fun (w : Nat) => (s.wgs[w]?).bind fun W => if W.place = .active ∧ !W.running.isEmpty then some W else none
  let ws := (List.range s.wgs.length).filter fun w => (here w).isSome
  let onCore := (ws.filterMap fun w => (here w).bind fun W => (ctxOfWg s w).map fun c => (W.coreNo, c)).eraseDups
  let t := ws.foldl (fun t w =>
    match here w with
    | some W => t.meterWg (5 * W.coreNo) w (Meter.hold (clk * W.running.length))
    | none => t) s
  let t := onCore.foldl (fun t p => t.meter (5 * p.1 + 1) (.ctx p.2) (Meter.hold (clk * (s.core p.1).cache.length))) t
  let t := s.jobs.foldl (fun t j => if j.state = .started then t.meterWg (j.kind.unit j.core) j.wg (Meter.hold clk) else t) t
  let t := s.links.foldl (fun t l => l.2.queue.foldl (fun t q => t.meter (linkUnit l.1) (.tenant q.1) (Meter.hold clk)) t) t
  { s with meters := if clk = 0 then s.meters else t.meters }

/-- R361: the workgroup that a turn acts for. -/
def turnWg (s : State) : Turn → Option Nat
  | .sWord w _ | .lWord w _ _ | .flags w _ | .imaged w => some w
  | .event (.copySector job _ _ _ _) | .event (.gatherElement job _) | .event (.bloadLine job _) => (s.jobs[job]?).map (·.wg)
  | .event (.commitResume w _ _) => some w
  | _ => none

/-- R361: the lines that row caches have fetched between `s` and `s'`, as issues of the context that the turn acted for. -/
def countLines (s s' : State) (w : Nat) (t : State) : State :=
  s'.cores.foldl (fun t p =>
    let had := (s.core p.1).cache
    let n := (p.2.cache.filter fun l => !had.any fun k => k.version == l.version && k.line == l.line).length
    if n = 0 then t else t.meterWg (5 * p.1 + 1) w (Meter.issue n)) t

/-- R361: the units that engines have moved between `s` and `s'`, and the clk in which a job that runs has moved none. -/
def countJobs (s s' : State) (t : State) : State :=
  (List.range s.jobs.length).foldl (fun t n =>
    match s.jobs[n]?, s'.jobs[n]? with
    | some j, some j' =>
      let moved := j'.done.length - j.done.length
      if j.state ≠ .started then t
      else if moved = 0 then t.meterWg (j.kind.unit j.core) j.wg (Meter.stall (s'.time.clk - s.time.clk))
      else t.meterWg (j.kind.unit j.core) j.wg (Meter.issue moved)
    | _, _ => t) t

/-- R361: the flits that links have sent between `s` and `s'`, by owner, and the clk in which a link with messages has sent none. -/
def countLinks (s s' : State) (t : State) : State :=
  s'.links.foldl (fun t l =>
    let k := s.link l.1
    let sent := l.2.wire.drop k.wire.length
    let t := sent.foldl (fun t f => t.meter (linkUnit l.1) (.tenant f.1) (Meter.issue 1)) t
    if sent.isEmpty then k.queue.foldl (fun t q => t.meter (linkUnit l.1) (.tenant q.1) (Meter.stall (s'.time.clk - s.time.clk))) t
    else t) t

/-- R361: an L word that asks an index, and the slot it names. -/
def indexWord : Instr → Bool
  | .kfind _ | .kins _ | .kdel _ | .kseek _ => true
  | _ => false

/-- R361: the lanes of a word that ask an index, as issues of the index engine that serves them. -/
def countIndex (x : Word) (i : Instr) (t : State) : State :=
  match if indexWord i then (x.E.La.binding (tabSlot x.o)).bind fun b => (t.versionOf b.id).bind t.table? else none with
  | some T => if T.desc.isArray then t else t.meterWg (indexUnit T.desc) x.E.w (Meter.issue (lanesOf x.act).length)
  | none => t

/-- R361: what the units have counted while a turn took the machine from `s` to `s'`. -/
def measure (s : State) (t : Turn) (s' : State) : State :=
  let m := countLinks s s' (countJobs s s' s')
  match turnWg s t with
  | some w => countLines s s' w m
  | none => m

end Sys2Proof.Machine
end

