-- ==== Sys2Proof/Machine/Remote.lean ====
section
/-! DEFINITION. Accesses to tables of other modules: what a word or a unit of an engine asks of their modules, and what it does with the
replies (R344, R371; log entry 58). -/

namespace Sys2Proof.Machine

/-! ### What goes out -/

/-- R371: a version stands for a table of another module: its id. -/
def State.farId (s : State) (v : Nat) (t : Table) : Option (BitVec 32) :=
  let id := s.idOf v t
  if idModule id = s.drv.module then none else some id

/-- R371: the row access of a lane, where the slot's table is another module's; `op` says what it does there, if anything. -/
def farRow (s : State) (b : Bound) (lane : Nat) (byRid : Bool) (k : Key) (off n : Nat) (op : Row → Option FabOp) : Option Far := do
  let id ← s.farId b.v b.t
  let r ← (b.t.rowOf byRid k).toOption
  let o ← if n = 0 then none else op r
  pure { lane := lane, slot := b.slot, ver := b.v, addr := r.addr + off
         a := { table := id, row := some (byRid, k), at_ := off, len := n, op := o } }

/-- R371: the row accesses of the active lanes of a table word. -/
def farLanes (x : Word) (s : State) (n : Nat) (op : Bound → Nat → Row → Option FabOp) : List Far :=
  match slotOf s x.E.La (tabSlot x.o) with
  | .bound b => (lanesOf x.act).filterMap fun i =>
      farRow s b i (tabRid x.o) (tabKey x b.t.desc.k128 i) (tabOff x.o) n (op b i)
  | _ => []

/-- R214: an `ALD` of a lane reads its place anew. -/
def aldReads (x : Word) (b : Bound) (i : Nat) (r : Row) : Option FabOp :=
  if aldCase (x.region i) (.table b.slot b.v r.rid (r.addr + tabOff x.o)) (tyBytes x.o.ty) == .new then some .load else none

/-- R197: the step of lane i of a `KAT`. -/
def katOp (x : Word) (i : Nat) : FabOp :=
  if x.o.var = 11 then .reduce 4 .f32 (natToBytes 40 (cellOf (subElem 32 (x.b .f32 i) 0)))
  else .atomic x.o.var.toNat x.o.ty (atomArg x i x.o.b) (atomArg x i x.o.c)

/-- R371: the accesses of an L word to tables of other modules; index words find what the module's index, as it is known here, says. -/
def farL (s : State) (x : Word) : Instr → List Far
  | .kld o => farLanes x s (if o.var = 4 then 40 else tabBytes o) fun _ _ _ => some .load
  | .kst o => farLanes x s (tabBytes o) fun _ i _ => some (.store (storeBytes x i))
  | .kat o => farLanes x s (katBytes o) fun _ i _ => some (katOp x i)
  | .ald o => if o.var = 1 then [] else farLanes x s (tyBytes o.ty) (aldReads x)
  | _ => []

/-- R371: the access of an S word to a table of another module. -/
def farS (s : State) (E : Env) : Instr → List Far
  | .skld _ a t o => row t (E.G.rS a) (8 * o.toNat) .load
  | .skst d a t o => row t (E.G.rS a) (8 * o.toNat) (.store (wordToBytes 8 (E.G.rS d)))
  | _ => []
where
  row (slot : BitVec 6) (k : W64) (off : Nat) (op : FabOp) : List Far :=
    match slotOf s E.La slot with
    | .bound b => (farRow s b 0 true (k.setWidth 128) off 8 fun _ => some op).toList
    | _ => []

/-- R371: bytes of a version's row space, where it stands for a table of another module. -/
def farBytes (s : State) (slot : BitVec 6) (v : Nat) (t : Table) (lane addr n : Nat) (op : FabOp) : List Far :=
  ((s.farId v t).map fun id =>
    { lane := lane, slot := slot, ver := v, addr := addr, a := { table := id, row := none, at_ := addr, len := n, op := op } }).toList

/-- R371: the slice of a job with its group and the version of its table. -/
def jobPart (s : State) (n slice : Nat) : Option (Job × Slice × Env) := do
  let j ← s.jobs[n]?
  let q ← j.slices[slice]?
  let E ← envAt s j.wg q.group
  pure (j, q, E)

/-- The version and the table of a job. -/
def Job.tableOf (s : State) (j : Job) : Option (Nat × Table) := j.version.bind fun v => (s.table? v).map fun t => (v, t)

/-- R371: a unit of an engine or a reduction whose checks here pass: its group, and its accesses to a table of another module. -/
def farUnit (s : State) : Instr → Option (Env × List Far)
  | .copySector n slice recv row sec => do
    let (j, q, E) ← jobPart s n slice
    let (v, t) ← j.tableOf s
    let c := copyD q.d
    let a := c.tableAt t.desc.width recv row sec
    let w ← match receiverOf s E c recv with | .here w => some w | _ => none
    let W ← s.wgs[w]?
    let right : Right := if c.mode = 1 then .wr else .rd
    if c.mode == 2 || decide (t.desc.rows * t.desc.width < a + 32) || engineCheck s v t E.world right a 32 (c.mode == 0) != .ok then
      none
    else
      some (E, farBytes s c.slot v t 0 a 32 (if c.mode = 0 then .load else .store (W.bytes (c.scratchAt recv row sec) 32)))
  | .gatherElement n i => do
    let (j, q, E) ← jobPart s n 0
    let (v, t) ← j.tableOf s
    let c := gatherD q.d
    let k := j.keys.getD i 0
    let fmt := ((t.desc.codedAt c.off).map (·.1)).getD 0
    match gatherOne s E c v t k with
    | .deliver _ =>
      let b : Bound := { slot := c.slot, id := s.idOf v t, ro := false, v := v, t := t }
      some (E, (farRow s b 0 (c.rids && !t.desc.isArray) k c.off (gatherSpan c fmt) fun _ => some .load).toList)
    | _ => none
  | .bloadLine n k => do
    let (j, q, E) ← jobPart s n 0
    let (v, t) ← j.tableOf s
    let c := bloadD q.d
    let at_ := fun z => c.tofs + 1024 * k + 32 * z
    some (E, ((List.range 32).filter fun z => engineCheck s v t E.world .rd (at_ z) 32 true == .ok).flatMap fun z =>
      farBytes s c.slot v t z (at_ z) 32 .load)
  | .counterAdd n slice _ k => do
    let (_, q, E) ← jobPart s n slice
    match q.ctr with
    | .table slot v addr =>
      let t ← s.table? v
      if engineCheck s v t E.world .at_ addr 8 true == .ok then some (E, farBytes s slot v t 0 addr 8 (.add k)) else none
    | .scratch _ => none
  | .reductionApply k => do
    let r ← s.reds[k]?
    let E ← envAt s r.wg r.group
    let t ← s.table? r.version
    match redCheck s r t E.world with
    | .row _ =>
      let b : Bound := { slot := r.slot, id := s.idOf r.version t, ro := false, v := r.version, t := t }
      some (E, (farRow s b 0 r.byRid r.key r.off (scatBytes r.kind r.ty) fun _ => some (.reduce r.kind.toNat r.ty r.value)).toList)
    | _ => none
  | _ => none

/-! ### What has come back -/

/-- The accesses without a taker of an agent. -/
def State.asksOf (s : State) (who : Asker) : List Ask := s.links.flatMap fun l => l.2.asks.filter fun q => q.who == who

/-- The accesses of an agent are taken. -/
def State.dropAsks (s : State) (who : Asker) : State :=
  { s with links := s.links.map fun l => (l.1, { l.2 with asks := l.2.asks.filter fun q => q.who != who }) }

/-- An access has gone out for what would go out now. -/
def Ask.is (q : Ask) (f : Far) : Bool :=
  q.lane == f.lane && q.ver == f.ver && q.addr == f.addr && q.a.table == f.a.table && q.a.row == f.a.row && q.a.at_ == f.a.at_
    && q.a.len == f.a.len

/-- R344: how the accesses of an agent stand: none has gone out; some have no reply; every one has one, with the causes of those that
failed, by lane. -/
inductive Verdict where
  | unsent | waits
  | told (failed : List (Nat × Cause)) (asks : List Ask)
  deriving DecidableEq, Repr

/-- R344: how the accesses of an agent stand. -/
def verdict (s : State) (who : Asker) (fs : List Far) : Verdict :=
  let mine := s.asksOf who
  if fs.isEmpty || !(fs.all fun f => mine.any fun q => q.is f) then .unsent
  else if mine.any fun q => q.reply.isNone then .waits
  else
    .told (mine.filterMap fun q => q.reply.bind fun r => (causeOfCode r.1).map fun c => (q.lane, c)) mine

/-- R344, R371: accesses go out, in their order; what an agent asked before, and no longer would, is dropped. -/
def sendFar (s : State) (who : Asker) (E : Env) (fs : List Far) : State :=
  fs.foldl (State.ask who E.C.tenant E.world) (s.dropAsks who)

/-- R371: what the replies have read is what the copy here holds; of two reads of one byte the earlier counts. -/
def refresh (s : State) (qs : List Ask) : State :=
  qs.reverse.foldl (fun s q => match q.reply with
    | some (_, data) => if data.isEmpty then s else s.modTable q.ver fun t => { t with rows := memWrite t.rows q.addr (data.take q.a.len) }
    | none => s) s

/-- R197, R371: a lane of a `KAT` gets the value that its step read at home, and the copy here holds what the step left. -/
def katReply (x : Word) (s : State) (q : Ask) : State :=
  match q.reply with
  | none => s
  | some (_, data) =>
    let s := putRow s x.E.W.coreNo q.ver q.addr (q.a.op.step data)
    if x.o.var = 11 then s else x.modLane s q.lane fun L => L.wMany x.o.vd.toNat (atomRegs x.o (bytesToNat data))

/-- R183, R344, R371: the lanes whose accesses failed at the other module trap, with the first cause in order. -/
def farTrap (x : Word) (failed : List (Nat × Cause)) : LRes :=
  judgeBy (fun c m => x.tabL c m) (failed.map fun p => (p.1, LaneChk.fault p.2))
    (x.tabL ((failed.head?.map (·.2)).getD .noTable) (maskOf fun i => failed.any fun p => p.1 == i))

/-- R344, R371: a unit some of whose accesses failed at the other module: what it does instead. -/
def unitFails (s : State) (failed : List (Nat × Cause)) : Instr → State
  | .copySector n slice recv row sec =>
    (jobPart s n slice).elim s fun (j, q, _) =>
      (j.tableOf s).elim s fun (_, t) =>
        sectorFails s n j q { slice := slice, recv := recv, row := row, sec := sec }
          ((copyD q.d).tableAt t.desc.width recv row sec) (farCause failed)
  | .gatherElement n i => (jobPart s n 0).elim s fun (j, q, _) => elementFails s n j q i (farCause failed)
  | .bloadLine n k =>
    (jobPart s n 0).elim s fun (j, q, E) => (j.tableOf s).elim s fun (v, t) => loadLine s n j q E v t k failed
  | .counterAdd n slice recv k =>
    (jobPart s n slice).elim s fun (j, q, _) =>
      match q.ctr with
      | .table slot _ _ => failAdd (payOwed s n slice recv k) j q slot (farCause failed) k
      | .scratch _ => s
  | .reductionApply k => (s.reds[k]?).elim s fun r => redFails s k r (farCause failed)
  | _ => s
where
  farCause (failed : List (Nat × Cause)) : Cause := (failed.head?.map (·.2)).getD .noTable

/-- R371: a unit has been done between two states. -/
def unitDone (s s' : State) : Instr → Bool
  | .copySector n _ _ _ _ | .gatherElement n _ | .bloadLine n _ | .counterAdd n _ _ _ =>
    (s'.jobs[n]?).map (fun j => (j.done, j.owed)) != (s.jobs[n]?).map fun j => (j.done, j.owed)
  | .reductionApply _ => s'.reds.length != s.reds.length
  | _ => false

/-- R242, R371: a `GATHER` or `BLOAD` on a table of another module that has not started: it starts before its first access goes out. -/
def startsFar (s : State) (i : Instr) : Option State :=
  match i with
  | .gatherElement n _ | .bloadLine n _ =>
    (jobPart s n 0).bind fun (j, _, E) =>
      let far := j.slot.any fun slot => (E.La.binding slot).any fun b => idModule b.id != s.drv.module
      if j.state == .forming && !j.kind.isCopy && far then some (begun s n j) else none
  | _ => none

/-- R344, R371: a unit of an engine or a reduction acts on a table of another module: its accesses go out once its checks here pass, and
it is done when every one has its reply. -/
def runUnit (s : State) (i : Instr) (run : State → Host.Outcome State Fault Refusal) : Host.Outcome State Fault Refusal :=
  match startsFar s i with
  | some t => .next t
  | none =>
    match farUnit s i with
    | none => run s
    | some (E, fs) =>
      match verdict s (.unit i) fs with
      | .unsent =>
        match run s with
        | .next t => if !fs.isEmpty && unitDone s t i then .next (sendFar s (.unit i) E fs) else .next t
        | o => o
      | .waits => .next s
      | .told [] asks => run (refresh (s.dropAsks (.unit i)) asks)
      | .told failed asks => .next (unitFails (refresh (s.dropAsks (.unit i)) asks) failed i)

end Sys2Proof.Machine
end

