-- ==== Sys2Proof/Machine/Sched.lean ====
section
/-! DEFINITION. Around the instructions: the passing of time (R13, R93, R353), fetching and decoding (R56, R57), events before a word
(R282, R360), debug stops after it (R359, R360), what may move next (R130, R339), and inputs. -/

namespace Sys2Proof.Machine

/-! ### Time -/

/-- R353: a group of the workgroup is resident: it runs, and no debug stop keeps it off its core. -/
def Wg.hasResident (W : Wg) : Bool := W.place == .active && !W.running.isEmpty

/-- R353, R370: the field of the time-accounting record under which a nanosecond of a launch counts. -/
def acctField (s : State) (La : Launch) : Nat :=
  let mine := (List.range s.wgs.length).filter fun w => (s.wgs[w]?).any fun W => W.launch == La.handle
  let some_ := fun (p : Wg → Bool) => mine.any fun w => (s.wgs[w]?).any p
  if some_ Wg.hasResident then 3
  else if s.jobs.any (fun j => mine.contains j.wg && j.state == .started) || s.reds.any fun r => mine.contains r.wg then 4
  else if some_ fun W => W.place == .image || W.place == .leaving then 5
  else if La.io then 6
  else 7

/-- R353: nanoseconds pass for a launch that is not complete. -/
def Launch.pass (s : State) (ns : Nat) (La : Launch) : Launch :=
  if La.status.isSome then La
  else { La with acct := { fields := La.acct.fields.modify (acctField s La) fun v => v + BitVec.ofNat 64 ns } }

/-- R93, R313: nanoseconds of residence pass for a group. -/
def Group.pass (ns : Nat) (G : Group) : Group :=
  if G.fin = .running ∧ G.stopped = none then { G with gtime := G.gtime + BitVec.ofNat 64 ns } else G

/-- R93: nanoseconds pass for a workgroup. -/
def Wg.pass (ns : Nat) (W : Wg) : Wg :=
  if W.place = .active then { W with groups := W.groups.map (Group.pass ns) } else W

/-- R13: the clk and CLOCK after some clk: 13 clk take 10 ns at full speed, and longer while the clock is lowered. CLOCK never
wraps. -/
def Clocks.pass (t : Clocks) (clk extra : Nat) : Clocks :=
  let n := t.phase + 10 * clk
  { t with clk := t.clk + clk, phase := n % 13
           clock := BitVec.ofNat 64 (min (t.clock.toNat + n / 13 + (if t.slow then extra else 0)) (2 ^ 64 - 1)), steps := t.steps + 1 }

/-- Some clk pass, and some ns more where the clock is lowered. The packets of a clk that is over are written (R355). -/
def elapse (s : State) (clk extra : Nat) : State :=
  let s := occupy (if s.dies.isEmpty || clk == 0 then s else flushTrace s) clk
  let t := s.time.pass clk extra
  let ns := t.clock.toNat - s.time.clock.toNat
  { s with time := t, wgs := s.wgs.map (Wg.pass ns), drv := { s.drv with launches := s.drv.launches.map (Launch.pass s ns) } }

/-- R267: all that has been written may have become visible to everybody: a free choice (log entry 56). -/
def State.settleLate (s : State) : State :=
  if s.late.isEmpty then s
  else
    let d := s.draw
    if d.1 % 2 = 0 then { d.2 with late := [] } else d.2

/-- Time passes by a free number of clk (log entry 4). -/
def tick (s : State) : State :=
  let a := s.settleLate.draw
  let b := a.2.draw
  elapse b.2 a.1 b.1

/-! ### Fetching -/

/-- The agent whose word comes next. -/
def State.turnTo (s : State) (w g e : Nat) : State := { s with ctl := { s.ctl with who := { wg := w, g := g, e := e } } }

/-- R56, R57, R289: fetches, decodes and executes the S word at S-PC. -/
def issueS (s : State) (E : Env) : Host.Outcome State Fault Refusal :=
  match E.K.scode[E.G.S.pc.toNat]? with
  | none => .next (takeTrap s E.w E.g { cause := .fetchFault, kind := .word, d0 := E.G.S.pc })
  | some x =>
    match decodeS x with
    | .error c => .next (takeTrap s E.w E.g { cause := c, kind := .word, d0 := x.setWidth 64 })
    | .ok i => exec i s

/-- R56 to R58, R289: fetches, decodes and executes the L word of split e at its L-PC. -/
def issueLane (s : State) (E : Env) (e : Nat) : Host.Outcome State Fault Refusal :=
  let p := E.G.split e
  let bad := fun (c : Cause) (d0 d1 : W64) =>
    takeTrap s E.w E.g { cause := c, kind := .word, lStream := true, lanes := p.mask, split := some e, fpc := p.lpc, d0 := d0, d1 := d1 }
  match E.K.lcode[p.lpc.toNat]? with
  | none => .next (bad .fetchFault p.lpc 0)
  | some x =>
    match decodeL E.K.header.lregs x with
    | .error c => .next (bad c (x.extractLsb' 0 64) ((x.extractLsb' 64 32).setWidth 64))
    | .ok i => exec i s

/-! ### Before a word -/

/-- R360: an enabled code breakpoint at a word of a stream: the doubleword of the breakpoint. -/
def breakAt (C : Context) (lane : Bool) (pc : W64) : Option W64 :=
  if C.dbgctl.getLsbD 3 then
    (C.breaks.map fun b => b.2.getD 0 0).find? fun d =>
      d.getLsbD 63 && d.getLsbD 62 == lane && (d.extractLsb' 0 26).setWidth 64 == pc
  else none

/-- R282, R359: what comes before a group's next word: a debug stop, or a hold of the split, that has been asked for; TIMER when its
deadline has passed; or the entry of a trap that waits. -/
def beforeWord (s : State) (E : Env) (e : Option Nat) : Option Instr :=
  let asked := fun (i : Instr) => E.C.dbgctl.getLsbD 0 && s.ctl.asked.contains i
  let hold := fun (e : Nat) => asked (.splitHold E.w E.g e) && atBoundary E.G e
  if asked (.debugStop E.w E.g) then some (.debugStop E.w E.g)
  else if e.any hold then e.map (.splitHold E.w E.g)
  else if E.G.T.timer != 0 && decide (E.G.T.timer.toNat ≤ s.time.clock.toNat) then some (.timer E.w E.g)
  else if (waitingTrap s E.G).isSome then some (.trapEntry E.w E.g)
  else none

/-! ### After a word -/

/-- The group still runs where it was, and no trap has been taken since `G`. -/
def goesOn (s : State) (w g : Nat) (G : Group) : Bool :=
  match envAt s w g with
  | some E => E.issues && E.G.T.traps == G.T.traps
  | none => false

/-- The S word at issue has not issued. -/
def Stall.unissued : Stall → Bool
  | .queue | .implied | .fence | .job | .release _ => true
  | _ => false

/-- The L word at issue has not issued. -/
def SplitWait.unissued : SplitWait → Bool
  | .queue | .array | .fence => true
  | _ => false

/-- R303: a faulting word has issued again without a service fault; what no other serviced word of the list named is held present no
longer. -/
def Wg.reissued (W : Wg) (g : Nat) (e : Option Nat) (pc : W64) : Wg :=
  if W.place ≠ .active then W else
  match W.faults.find? fun f => f.group == g && f.split == e && f.pc == pc with
  | none => W
  | some f =>
    let rest := W.faults.erase f
    { W with faults := rest, holds := W.holds.filter fun n => rest.any fun f => f.served && f.needs.contains n }

/-- R279, R281, R360: the word of one of the group's streams has retired or issued with its full effect and has taken a trap of kind A
since `G`: the group is in its handler, or the trap waits to be entered. -/
def trappedAfter (s : State) (w g : Nat) (G : Group) (lane : Bool) : Bool :=
  (s.group? w g).any fun G' =>
    G'.fin == .running && G'.stopped.isNone &&
    match G'.T.entry with
    | some t => G.T.entry.isNone && t.kind == .after && t.lStream == lane
    | none =>
      G'.T.handler && G'.T.traps == G.T.traps + 1 && decide (bitsOf (G'.T.frame.getD 0 0) 18 16 = 3)
        && (G'.T.frame.getD 2 0).getLsbD 52 == lane

/-- R359, R360: the debug stops that follow a word of a stream: a watch that it has met, or a single step, which follows a word that has
taken a trap of kind A too. -/
def stopAfter (s : State) (E : Env) (touches : List Touch) (lane step : Bool) : State :=
  if !goesOn s E.w E.g E.G then
    if E.C.dbgctl.getLsbD 0 && step && trappedAfter s E.w E.g E.G lane then debugStop s E.w E.g .sstep else s
  else if touches.any (watched E.C) then debugStop s E.w E.g .watch
  else if E.C.dbgctl.getLsbD 0 && step then debugStop s E.w E.g .sstep
  else s

/-- The state of an outcome changed, where it is a next state. -/
def onNext (o : Host.Outcome State Fault Refusal) (f : State → State) : Host.Outcome State Fault Refusal :=
  match o with
  | .next s => .next (f s)
  | o => o

/-- The accesses of the S word at S-PC. -/
def touchesAt (E : Env) : List Touch :=
  match (E.K.scode[E.G.S.pc.toNat]?).map decodeS with
  | some (.ok i) => touchesS E i
  | _ => []

/-- R359, R360, R303: what follows the S word that E was about to issue; a watch stops its group once the word is complete. -/
def afterS (E : Env) (s : State) : State :=
  match s.group? E.w E.g with
  | none => s
  | some G =>
    if G.S.stall.unissued then countIssue s E true
    else
      let s := (countIssue s E false).modWg E.w fun W => W.reissued E.g none E.G.S.pc
      let ts := if goesOn s E.w E.g E.G && G.S.stall == .none then touchesAt E else []
      stopAfter s E ts false (E.C.dbgctl.getLsbD 1 && G.S.stall == .none)

/-- R160: a `WAITGE` has issued and waits. -/
def SplitWait.sleeps : SplitWait → Bool
  | .waitge _ _ => true
  | _ => false

/-- R104, R202, R255, R371: the word of a split that has stalled at issue, or waits for another module, would stall again. -/
def stillStalled (s : State) (E : Env) (e : Nat) : Bool :=
  match (E.G.split e).wait with
  | .queue => splitStuck E (E.G.split e)
  | .array => (wordAt s E.w E.g e).any fun x => decide (64 < (s.core E.W.coreNo).mq.length + x.quarters.length)
  | .fence => (wordAt s E.w E.g e).any (splitReds s)
  | _ => (s.asksOf (.split E.w E.g e (E.G.split e).lpc)).any fun q => q.reply.isNone

/-- R130: the splits of a group that can issue, by entry. -/
def readySplits (s : State) (E : Env) : List Nat :=
  entryList.filter fun e => atBoundary E.G e && !stillStalled s E e

/-- R130: entry e of E has issued a word: each other split that was ready has been passed over once more. -/
def passOver (s0 : State) (E : Env) (e : Nat) (s : State) : State :=
  let ready := readySplits s0 E
  s.modGroup E.w E.g fun G => G.mapSplits fun k p => { p with passed := if k != e && ready.contains k then p.passed + 1 else 0 }

/-- R359, R360, R303: what follows the L word that split e of E was about to issue. -/
def afterL (s0 : State) (E : Env) (e : Nat) (x : Option (Word × Instr)) (s : State) : State :=
  match s.group? E.w E.g with
  | none => s
  | some G =>
    if (G.split e).wait.unissued then countIssue s E true
    else
      let s := (countIssue (passOver s0 E e s) E false).modWg E.w fun W => W.reissued E.g (some e) (E.G.split e).lpc
      let s := x.elim s fun p => countIndex p.1 p.2 s
      let ts := if goesOn s E.w E.g E.G && !(G.split e).wait.sleeps then (x.map fun p => touchedL p.1 G p.2).getD [] else []
      stopAfter s E ts true (E.C.dbgctl.getLsbD 2)

/-- The L word of a split as it stands, with its instruction. -/
def laneWord (s : State) (w g e : Nat) : Option (Word × Instr) := do
  let x ← wordAt s w g e
  let i ← (decodeL x.E.K.header.lregs x.bits).toOption
  pure (x, i)

/-- R359, R360: a word that waited has completed: an S word that held its stream, which single step stops after; a `CWAIT` or a
`WAITGE`, whose access a watch may cover. -/
def afterEvent (s : State) (i : Instr) (s' : State) : State :=
  let stepped := fun (w g : Nat) =>
    match envAt s w g, s'.group? w g with
    | some E, some G =>
      if E.G.S.stall.holds && G.S.stall == .none then stopAfter s' E (touchesAt E) false (E.C.dbgctl.getLsbD 1) else s'
    | _, _ => s'
  match i with
  | .lwaitRelease w g | .cwaitWake w g | .barDepart w g | .sleepEnd w g | .kswapComplete w g => stepped w g
  | .waitgeRecheck w g e =>
    match envAt s w g, s'.group? w g with
    | some E, some G =>
      if (E.G.split e).wait.sleeps && !(G.split e).wait.sleeps then
        stopAfter s' E (((laneWord s w g e).map fun p => touchesL p.1 p.2).getD []) true false
      else s'
    | _, _ => s'
  | _ => s'

/-! ### Turns -/

/-- R341: the S word of E has issued between `s` and `s'` and meets the tag of another world: its context ends instead. -/
def taggedS (s : State) (E : Env) (s' : State) : Option State :=
  let uses := match (E.K.scode[E.G.S.pc.toNat]?).map decodeS with
    | some (.ok i) => scalarUses E i
    | _ => []
  if (s'.group? E.w E.g).any fun G => G.S.stall.unissued then none else (E.tagMiss uses).map (tagFault s E)

/-- R341: the L word `x` of split e of E has issued between `s` and `s'` and meets the tag of another world. -/
def taggedL (s : State) (E : Env) (e : Nat) (x : Option (Word × Instr)) (s' : State) : Option State :=
  if (s'.group? E.w E.g).any fun G => (G.split e).wait.unissued then none
  else x.bind fun p => (E.tagMiss (laneUses p.1 p.2)).map (tagFault s E)

/-- R344, R371: a word of E that acts on tables of other modules: it issues once its checks here pass and every access that it then
sends has its reply; `issued`: it has gone on. A failed access traps. -/
def runWord (s : State) (E : Env) (who : Asker) (fs : List Far) (issued : State → Bool)
    (run : State → Host.Outcome State Fault Refusal) (fail : State → List (Nat × Cause) → State) (reply : State → List Ask → State) :
    Host.Outcome State Fault Refusal :=
  match verdict s who fs with
  | .unsent =>
    match run s with
    | .next t => .next (if !fs.isEmpty && issued t then sendFar s who E fs else t)
    | o => o
  | .waits => .next s
  | .told [] asks => onNext (run (refresh (s.dropAsks who) asks)) fun t => if issued t then reply t asks else t
  | .told failed _ => .next (fail (s.dropAsks who) failed)

/-- The S word at S-PC. -/
def Env.wordS (E : Env) : Option Instr := (E.K.scode[E.G.S.pc.toNat]?).bind fun w => (decodeS w).toOption

/-- The S word of E issues, with what follows it (R341, R344, R359, R371). -/
def runS (s : State) (E : Env) : Host.Outcome State Fault Refusal :=
  let s := s.turnTo E.w E.g 0
  let run := fun (s : State) => onNext (issueS s E) fun t => (taggedS s E t).getD (afterS E (firstTrap s E t))
  let issued := fun (t : State) => (t.group? E.w E.g).any fun G =>
    G.fin == .running && G.T.traps == E.G.T.traps && (G.S.pc != E.G.S.pc || G.S.loops != E.G.S.loops)
  let fs := (E.wordS.map (farS s E)).getD []
  let slot := ((fs.head?).map (·.slot)).getD 0
  let key := match E.wordS with | some (.skld _ a _ _) | some (.skst _ a _ _) => E.G.rS a | _ => 0
  let fail := fun (s : State) (failed : List (Nat × Cause)) =>
    applyS s E (tableFail (((failed.head?).map (·.2)).getD .noTable) slot key)
  runWord s E (.stream E.w E.g E.G.S.pc) fs issued run fail fun t _ => t

/-- The L word of split e of E issues, with what follows it (R341, R344, R359, R371). -/
def runL (s : State) (E : Env) (e : Nat) : Host.Outcome State Fault Refusal :=
  let x := laneWord s E.w E.g e
  let s := s.turnTo E.w E.g e
  let pc := (E.G.split e).lpc
  let run := fun (s : State) => onNext (issueLane s E e) fun t => (taggedL s E e x t).getD (afterL s E e x (firstTrap s E t))
  let issued := fun (t : State) => (t.group? E.w E.g).any fun G =>
    G.fin == .running && G.T.traps == E.G.T.traps && (G.split e).lpc != pc
  let fs := (x.map fun p => farL s p.1 p.2).getD []
  let fail := fun (s : State) (failed : List (Nat × Cause)) => x.elim s fun p => applyL s p.1 (farTrap p.1 failed)
  let reply := fun (t : State) (asks : List Ask) =>
    match x with
    | some (w, .kat _) => asks.foldl (katReply w) t
    | _ => t
  runWord s E (.split E.w E.g e pc) fs issued run fail reply

/-- One turn: an event, whose accesses must not meet the tag of another world (R341); or the next word of a stream, unless an event of
the group or a breakpoint comes first. A turn that names nobody who may issue does nothing. -/
def takeTurn (s : State) : Turn → Host.Outcome State Fault Refusal
  | .event i =>
    match (eventUses s i).findSome? (tagMiss s) with
    | some q => .next (tagFault s q.1 q.2)
    | none => onNext (runUnit s i (exec i)) (afterEvent s i)
  | .flags w g => .next (flagsKnown s w g)
  | .imaged w => .next (imaged s w)
  | .transmit link => .next (transmit s link)
  | .rekey link owner => execLinkRekey link owner s
  | .drain link lane => .next (drain s link lane)
  | .sWord w g =>
    match envOf (s.turnTo w g 0) with
    | none => .next s
    | some E =>
      match beforeWord s E none with
      | some i => exec i s
      | none =>
        if E.G.S.stall.holds then .next s
        else if (breakAt E.C false E.G.S.pc).isSome then .next (debugStop s w g .breakpoint)
        else runS s E
  | .lWord w g e =>
    match envOf (s.turnTo w g e) with
    | none => .next s
    | some E =>
      match beforeWord s E (some e) with
      | some i => exec i s
      | none =>
        if !atBoundary E.G e then .next s
        else
          match breakAt E.C true (E.G.split e).lpc with
          | some d => .next (if d.getLsbD 61 then holdSplit s w g e .breakpoint else debugStop s w g .breakpoint)
          | none => runL s E e

/-! ### What else a stop meets -/

/-- The streams and splits of a workgroup at their issue boundaries. -/
def wordTurns (w : Nat) (W : Wg) : List Turn :=
  (W.groups.mapIdx fun g G =>
    if G.fin != .running || G.stopped.isSome then []
    else Turn.sWord w g :: (entryList.filter (atBoundary G)).map (Turn.lWord w g)).flatten

/-- R301: the service fault that a stream or split would meet at its next word. -/
def faultOf (s : State) (t : Turn) : Option ServiceEntry :=
  let met := fun (w : Nat) (o : Host.Outcome State Fault Refusal) =>
    match o with
    | .next s' => (s'.wgs[w]?).bind fun W => if W.place = .leaving then W.faults.getLast? else none
    | _ => none
  match t with
  | .sWord w g =>
    (envOf (s.turnTo w g 0)).bind fun E =>
      if (beforeWord s E none).isSome || E.G.S.stall.holds then none else met w (issueS (s.turnTo w g 0) E)
  | .lWord w g e =>
    (envOf (s.turnTo w g e)).bind fun E =>
      if (beforeWord s E (some e)).isSome || !atBoundary E.G e then none else met w (issueLane (s.turnTo w g e) E e)
  | _ => none

/-- R301, R309: a workgroup has stopped between `s0` and `s`: whether its other streams and splits have met their service faults too,
before its image was whole, is free; those that have are in its list. -/
def alsoFaults (s0 s : State) (w : Nat) : State :=
  match s0.wgs[w]?, s.wgs[w]? with
  | some W0, some W =>
    if W0.place = .active ∧ (W.place = .leaving ∨ W.place = .shadow) then
      (wordTurns w W0).foldl (fun s t =>
        match faultOf s0 t with
        | none => s
        | some f =>
          if W.faults.contains f then s
          else
            let d := s.draw
            if d.1 % 2 = 1 then listFault d.2 w f else d.2) s
    else s
  | _, _ => s

/-- One turn, with what else the stops of workgroups meet (R301, R309), and what the units count (R361). -/
def runTurn (s : State) (t : Turn) : Host.Outcome State Fault Refusal :=
  onNext (takeTurn s t) fun s' => measure s t ((List.range s.wgs.length).foldl (alsoFaults s) s')

/-! ### What may move next -/

/-- R130: entries in the order of a number of each, the lowest first, ties to the lower entry. -/
def inOrder (es : List Nat) (f : Nat → Nat) : List Nat :=
  (es.foldl (fun l e => insertNat (8 * f e + e) e l) []).map (·.2)

/-- R130: some ready split would issue later than in its 64th issue slot if the one that has waited longest did not issue now. -/
def overdue (G : Group) (es : List Nat) : Option Nat :=
  let waited := (inOrder es fun e => (G.split e).passed).reverse
  if (List.range waited.length).any fun k => decide (63 ≤ (G.split (waited.getD k 0)).passed + k) then waited.head? else none

/-- R109, R111, R130: the split that issues next: the ready one that issued least recently whose word waits for no source, pipe or
port, which latencies decide (free; log entry 3); and none is ready for more than 64 issue slots. -/
def pickSplit (s : State) (E : Env) : Option Nat :=
  let ready := readySplits s E
  match overdue E.G ready with
  | some e => some e
  | none =>
    let order := inOrder ready fun e => (E.G.split e).stamp
    let waits := Config.freeNat (s.ctl.fresh + 6)
    (order.find? fun e => !waits.testBit e).orElse fun _ => order.head?

/-- The turns of a group in the active bank. -/
def groupTurns (s : State) (w g : Nat) (G : Group) : List Turn :=
  if G.fin != .running || G.stopped.isSome then []
  else
    let held : List Instr := match G.S.stall with
      | .lwait => [.lwaitRelease w g] | .cwait _ _ => [.cwaitWake w g] | .bar _ => [.barDepart w g]
      | .sleep _ => [.sleepEnd w g] | .kswap => [.kswapComplete w g] | _ => []
    let evs : List Instr := held ++ [.trapEntry w g, .timer w g, .blockStart w g, .queueDeadlock w g]
    let lanes := (envAt s w g).elim [] fun E =>
      (pickSplit s E).toList ++ entryList.filter fun e => atBoundary G e && stillStalled s E e
    (if G.S.stall.holds then [] else [.sWord w g]) ++ lanes.map (Turn.lWord w g)
      ++ (if G.firstFlags.isSome then [.flags w g] else []) ++ evs.map Turn.event

/-- The turns of a workgroup, wherever it is. -/
def wgTurns (s : State) (w : Nat) (W : Wg) : List Turn :=
  let own := if W.place = .active then (W.groups.mapIdx fun g G => groupTurns s w g G).flatten else []
  let late := (W.groups.mapIdx fun g G =>
    (entryList.filter fun e => (G.split e).wait == .commit).map fun e => Turn.event (.commitResume w g e)).flatten
  own ++ late ++ (if W.place = .leaving then [.imaged w] else [])
    ++ if W.place = .completed then [] else [.event (.workgroupComplete w)]

/-- The turns of a job, with free numbers for the unit it moves. -/
def jobTurns (s : State) (n : Nat) (j : Job) : List Turn :=
  let f := fun (k m : Nat) => Config.freeNat (s.ctl.fresh + k) % (m + 1)
  if j.state = .complete then []
  else
    let unit : List Instr := match j.kind with
      | .copy _ _ =>
        let sl := f 1 (j.slices.length - 1)
        let c := copyD (((j.slices[sl]?).map (·.d)).getD [])
        [.copyJobStart n, .copySector n sl (f 2 (c.receivers - 1)) (f 3 (c.rowsPer - 1)) (f 4 (c.rbytes / 32 - 1))]
      | .gather _ => [.gatherElement n (f 2 (j.units - 1))]
      | .bload => [.bloadLine n (f 2 (j.units - 1))]
    let adds : List Instr := j.owed.map fun o => .counterAdd n o.slice o.recv (1 + f 5 (o.n - 1))
    (unit ++ adds ++ [Instr.jobComplete n]).map Turn.event

/-- The turns of a core. -/
def coreTurns (c : Nat) (C : Core) : List Turn :=
  let array : List Instr := (List.range C.mq.length).map (Instr.quarterOp c) ++ (List.range C.arr.length).map (Instr.tileReady c)
  let bind : List Instr := match (nextRec C).map (·.op) with
    | none => []
    | some 2 => [.bindResume c]
    | some 3 => [.bindFill c]
    | some 4 => [.bindSwap c]
    | some _ => [.bindStart c]
  let bank : List Instr := match C.shadow with
    | .filling => [.spillFillDone c]
    | .draining => [.spillDrainDone c]
    | _ => []
  (array ++ bind ++ bank ++ (if C.tasks.isEmpty then [] else [Instr.childTaskStart c])).map Turn.event

/-- The turns of a link; a counter that has reached its limit starts the rekey (R348). -/
def linkTurns (l : Nat) (k : Link) : List Turn :=
  (k.owners.filter LinkOwner.full).map (fun x => .rekey l x.owner) ++ (if k.queue.isEmpty then [] else [.transmit l])
    ++ ((List.range 8).filter fun i => k.full.getLsbD i).map (Turn.drain l)

/-- Every turn that may come next; those whose condition fails do nothing. -/
def turns (s : State) : List Turn :=
  (s.wgs.mapIdx (wgTurns s)).flatten ++ (s.jobs.mapIdx (jobTurns s)).flatten
    ++ (List.range s.reds.length).map (fun r => Turn.event (.reductionApply r))
    ++ s.cores.flatMap (fun p => coreTurns p.1 p.2) ++ s.links.flatMap (fun p => linkTurns p.1 p.2)
    ++ (s.drv.launches.filter fun l => l.status.isNone && l.tlimit != 0).map (fun l => Turn.event (.timeLimit l.handle))
    ++ s.ctl.asked.map Turn.event

/-- R306: a swap that has been asked for, at the first clk at which the shadow bank allows it. -/
def swapDue (s : State) : Option Turn :=
  s.cores.findSome? fun p =>
    if p.2.swapReq && (p.2.shadow == .empty || p.2.shadow == .ready) then some (.event (.duskSwap p.1)) else none

/-- R129, R138, R160, R306: what follows at once: a swap that has been asked for, the return of a yielded split, the reload of an
overflowed one, the end of a `WAITGE` that has seen its values. -/
def urgent (s : State) : Option Turn :=
  (swapDue s).orElse fun _ =>
  (List.range s.wgs.length).findSome? fun w =>
    (List.range (((s.wgs[w]?).map fun W => W.groups.length).getD 0)).findSome? fun g =>
      match envAt s w g with
      | none => none
      | some E =>
        if !E.issues then none
        else if E.G.freeEntry?.isSome && !E.G.L.ovf.isEmpty then some (.event (.splitReload w g))
        else
          entryList.findSome? fun e =>
            if yieldOver E.G e then some (.event (.yldReturn w g e))
            else if E.G.L.running && (E.G.split e).st == .ready && (E.G.split e).seenAll then
              some (.event (.waitgeRecheck w g e))
            else none

/-! ### Inputs -/

/-- The instructions that only the outside makes happen. -/
def fromOutside : Instr → Bool
  | .serviceComplete _ _ | .testLaunch _ _ _ | .revocationNotice _ | .undervoltagePowerDown | .firmwareImageReceive _
  | .thermalShutdown _ | .clockThrottle _ | .stateUncorr _ | .tenantAdmission _ _ | .tenantRetirement _ | .sessionOpen _ _
  | .grantAdmission _ _ _ _ | .noticeAcknowledgement _ | .flitAck _ _ _ | .linkFailure _ _ | .slabMigration _
  | .zhenanFlitReceive _ _ | .flitNak _ _ | .linkRetrain _ _ | .linkRekey _ _ | .virtualLaneStop _ _ _ | .secretDelivery _ _ _
  | .periodAdvance _ | .contextMigrate _ _ | .migrationConfirm _ _ _ => true
  | _ => false

/-- R326: the bytes of a client's message. -/
def takeMessage (s : State) (session : Nat) (bytes : List Byte) : Host.Outcome State Fault Refusal :=
  match messageOf session bytes with
  | none => .next s
  | some m =>
    match decodeMsg m with
    | some i => exec i s
    | none => unknownRequest s m

/-- R304: the workgroup at the head of a die's resume queue has a resume or a fill record in a slot table of the die. -/
def headServed (s : State) (die w : Nat) : Bool :=
  (List.range 16).any fun k => (s.core (16 * die + k)).slots.any fun d =>
    let r := bindRec d
    (r.op == 2 || r.op == 3) && r.image == w

/-- R304: the promise of the scheduling core: no start of a priority that is not above that of the workgroup at the head of the
die's resume queue is written before that workgroup's record. -/
def recordInTurn (s : State) (core : Nat) (dws : List W64) : Bool :=
  let r := bindRec dws
  let prio := fun (h : BitVec 32) => ((s.launch? h).map (·.prio)).getD 0
  r.op != 1 || (match (s.die (core / 16)).resume with
    | [] => true
    | w :: _ => headServed s (core / 16) w || (s.wgs[w]?).all fun W => decide (prio W.launch < prio r.launch))

/-- R304, R334: a scheduling core writes a bind record into a slot table of its die, where there is room and the record's turn has
come. -/
def takeRecord (s : State) (core : Nat) (dws : List W64) : State :=
  let C := s.core core
  if core < Config.cores ∧ dws.length = 8 ∧ C.slots.length < 256 ∧ s.time.boot = .running ∧ recordInTurn s core dws then
    s.setCore core { C with slots := C.slots ++ [dws] }
  else s

/-- R328: the driver gives a queue its priority, and opens it. -/
def setQueue (s : State) (q prio : Nat) (tenant : Option (BitVec 64)) : State :=
  if q < 64 ∧ prio < 8 then { s with drv := { s.drv with queues := insertNat q (prio, tenant) s.drv.queues } } else s

/-- R349: the driver seals an ARRAY table of this module: its bytes become ciphertext under the seal pair of its owner, the current
period and a free serial, and no core keeps a line of it that it fetched before (R180). -/
def sealTable (s : State) (id : BitVec 32) : State :=
  match (s.versionOf id).bind fun v => (s.table? v).map fun t => (v, t) with
  | none => s
  | some (v, t) =>
    if !t.desc.isArray || t.sealed.isSome || idModule id != s.drv.module then s
    else
      let d := s.draw
      let period := s.periodOf ((worldHolder s t.desc.owner).getD 0)
      let r : SealRec := { period := period, serial := BitVec.ofNat 64 d.1 }
      let units := (List.range ((t.desc.rows * t.desc.width + 1023) / 1024)).map fun u =>
        Config.xtsSeal (sealKey s t.desc.owner r) (sealTweak r u) (t.bytes (1024 * u) 1024)
      let s := writeHome d.2 v 0 (units.flatten.take (t.desc.rows * t.desc.width))
      ({ s with cores := s.cores.map fun p => (p.1, { p.2 with cache := p.2.cache.filter fun l => l.version != v }) } :
        State).modTable v fun t => { t with sealed := some r }

/-- R343, R371, log entry 58: a table of another module as that module holds it now, with the windows on it, each by its index there: it
becomes known here, or its contents and descriptor are as they now are. -/
def remoteTable (s : State) (t : Table) (ws : List (Nat × Window)) : State :=
  let module := idModule t.desc.id
  if module = s.drv.module ∨ 6144 ≤ module.toNat then s
  else
    let others := s.mem.windows.filter fun p => p.1 / 4096 != module.toNat + 1 || p.2.table != t.desc.id
    let s : State := { s with mem := { s.mem with
      windows := ws.foldl (fun l p => insertNat (windowNumber module (p.1 % 4096)) { p.2 with table := t.desc.id } l) others } }
    match s.versionOf t.desc.id with
    | some v => s.modTable v fun _ => t
    | none =>
      { s with mem := { s.mem with tables := s.mem.tables ++ [t], dir := (t.desc.id, s.mem.tables.length) :: s.mem.dir } }

/-- R372: a soft error strikes a granule of a table. -/
def softError (s : State) (id : BitVec 32) (granule : Nat) (corrected : Bool) : State :=
  match s.versionOf id with
  | none => s
  | some v => s.modTable v fun t =>
      if corrected then { t with weak := granule :: t.weak } else { t with bad := granule :: t.bad }

/-- R298, R372: a soft error that can be corrected in a register file, scratchpad, accumulator store, stationary store or Dusk bank: it
is corrected and logged. -/
def softState (s : State) (ctx : BitVec 32) : State :=
  s.logEvent { cause := .eccCorr, ctx := ctx.setWidth 64, table := 0, detail := 0 }

/-- The first input that waits is acted on. -/
def takeInput (s : State) : Host.Outcome State Fault Refusal :=
  match s.ctl.inbox with
  | [] => .next s
  | x :: rest =>
    let s : State := { s with ctl := { s.ctl with inbox := rest } }
    match x with
    | .event i => if fromOutside i then exec i s else .next s
    | .msg session bytes => takeMessage s session bytes
    | .record core dws => .next (takeRecord s core dws)
    | .image t => .next { s with drv := { s.drv with transit := s.drv.transit ++ [{ t with confirmed := false, sent := false }] } }
    | .remote t ws => .next (remoteTable s t ws)
    | .queue q prio tenant => .next (setQueue s q prio tenant)
    | .sealing id => .next (sealTable s id)
    | .storage h on => .next (s.modLaunch h fun l => { l with io := on })
    | .tag w t => .next (s.modWg w fun W => { W with tags := t })
    | .softState ctx => .next (softState s ctx)
    | .soft id granule corrected => .next (softError s id granule corrected)

/-! ### One step -/

/-- A free choice among the turns and the first input that waits. -/
def freeTurn (s : State) : Host.Outcome State Fault Refusal :=
  let ts := turns s
  let d := s.draw
  let s := { d.2 with ctl := { d.2.ctl with fresh := d.2.ctl.fresh + 8 } }
  let n := ts.length + if s.ctl.inbox.isEmpty then 0 else 1
  match ts[d.1 % n]? with
  | some t => runTurn s t
  | none => takeInput s

/-- What happens once time has passed: power-on boots; a turn that is fixed comes first, then what follows at once, then a free
choice. -/
def act (s : State) : Host.Outcome State Fault Refusal :=
  match s.ctl.agenda with
  | t :: rest => runTurn { s with ctl := { s.ctl with agenda := rest } } t
  | [] =>
    if s.time.boot = .powerOn then exec .boot s
    else
      match urgent s with
      | some t => runTurn s t
      | none => freeTurn s

/-- R364: a packet that a step has made carries what a SYNC would have said of its group before the step. -/
def Packet.note (s : State) (p : Packet) : Packet :=
  if p.noted then p else { p with noted := true, before := p.wg.bind fun q => syncRecord s q.1 q.2 }

/-- R364: the packets that a step from `s` has made are noted. -/
def noteTrace (s s' : State) : State :=
  { s' with dies := s'.dies.map fun p => (p.1, { p.2 with tr := { p.2.tr with pend := p.2.tr.pend.map (Packet.note s) } }) }

/-- R355, R364: a group with a packet that shows its split table makes another packet, or changes its table, in the same clk. -/
def crowded (s s' : State) : Bool :=
  s.dies.any fun p => p.2.tr.pend.any fun q =>
    q.moves && q.wg.any fun n =>
      let mine := fun (t : State) => ((t.die p.1).tr.pend.filter fun r => r.wg == some n).length
      let table := fun (t : State) => (t.group? n.1 n.2).map fun G => (G.L.running, G.liveRecords)
      mine s' > mine s || table s' != table s

/-- R111, R355, R364: a run that keeps to one packet of a group in a clk, the packets of one word being one: what would come after it
comes a clk later. -/
def traceOrder (s : State) (run : State → Host.Outcome State Fault Refusal) : Host.Outcome State Fault Refusal :=
  match run s with
  | .next s' =>
    if crowded s s' then
      let t := elapse s 1 0
      let t := { t with time := { t.time with steps := s.time.steps } }
      onNext (run t) (noteTrace t)
    else .next (noteTrace s s')
  | o => o

/-- R367: a module that is off waits for power; what reaches it before is lost. -/
def offStep (s : State) : Host.Outcome State Fault Refusal :=
  match s.ctl.inbox.dropWhile fun x => x != .event .boot with
  | _ :: rest => exec .boot { s with ctl := { s.ctl with inbox := rest } }
  | [] => .fault .poweredDown

/-- One step of the machine. -/
def stepOnce (s : State) : Host.Outcome State Fault Refusal :=
  if s.time.boot = .off then offStep s else traceOrder (tick s) act

/-! ### Placing a word -/

/-- The kernel of a placed word: 256 lane registers, 16 tiles, one group, the whole scratchpad. -/
def placedKernel (nbits w : Nat) : Kernel :=
  let lane := decide (32 < nbits)
  { handle := 1, world := 1, tenant := 1, name := []
    header := { scratch := 1048576, accs := 16, groups := 1, nbind := 0, lregs := 256, lsize := if lane then 1 else 0
                ssize := if lane then 0 else 1, psize := 0, csize := 0 }
    scode := if lane then [] else [BitVec.ofNat 32 w], lcode := if lane then [BitVec.ofNat 96 w] else [], consts := [], temps := []
    levels := [], test := [], unloaded := false }

/-- The launch of a placed word: one workgroup. -/
def placedLaunch : Launch :=
  { handle := 1, queue := 0, prio := 0, ctx := 1, kernel := 1, world := 1, extents := [1, 1], doms := [], params := []
    counter := 0, binds := [], deps := [], tlimit := 0, tshift := 0, started := some 0, begun := [0], done := [], counted := 0
    status := none, acct := { fields := [0, 0, 0, 0, 0, 0, 0, 0] }, test := false, io := false }

/-- The context of a placed word. -/
def placedContext : Context :=
  { handle := 1, tenant := 1, world := 1, bankKey := 0, right := none, dbgctl := 0, breaks := [], watches := [], ended := none }

/-- The workgroup of a placed word, on core 0; for an L word a block runs in split 0 with every lane. -/
def placedWg (nbits : Nat) : Wg :=
  let G := Group.reset 256 16
  let p : Split := { Split.freeEntry with st := .ready, mask := 0xFFFFFFFF }
  let L : LStream := { G.L with running := true, blockSeq := 1, splits := p :: List.replicate 7 Split.freeEntry }
  freshWg 1 1 0 [] 0 0 1 0 1048576 [if 32 < nbits then { G with L := L } else G]

/-- Log entry 1: an instruction placed as the next that a step runs. -/
def placeWord (s : State) (nbits w : Nat) : State :=
  let n := s.wgs.length
  { s with
    time := { s.time with boot := .running }
    drv := { s.drv with kernels := placedKernel nbits w :: s.drv.kernels, launches := placedLaunch :: s.drv.launches
                        contexts := placedContext :: s.drv.contexts }
    wgs := s.wgs ++ [placedWg nbits]
    ctl := { s.ctl with agenda := [if 32 < nbits then .lWord n 0 0 else .sWord n 0] } }

end Sys2Proof.Machine
end

