-- ==== Sys2Proof/Machine/Step.lean ====
section
/-! DEFINITION. One step of the module, and how an instruction is placed where a step runs it next (log entry 1). -/

namespace Sys2Proof.Machine

/-- One step. -/
def step : State → Host.Outcome State Fault Refusal := stepOnce

/-- Log entry 1: the state with an instruction placed as the next that a step runs: a kernel whose one word it is, loaded, launched
and started, with the turn fixed. A word of 32 bits is an S word, a longer one an L word. -/
def State.withFetchWord (s : State) (nbits w : Nat) : State := placeWord s nbits w

end Sys2Proof.Machine
end

