-- ==== Sys2Proof/Safety.lean ====
section
/-! DEFINITION. What a safe run of the module is: every step answers a next state until the module powers down, and every
memory keeps its canonical form (R6, R153, R171, R354). -/

namespace Sys2Proof.Machine

/-- A workgroup's allotment is in canonical form. -/
abbrev Wg.memOk (W : Wg) : Prop := memWf W.scratch = true

/-- The row bytes of a table version are in canonical form. -/
abbrev Table.memOk (T : Table) : Prop := memWf T.rows = true

/-- The ring buffer of a die's trace unit is in canonical form. -/
abbrev Die.memOk (D : Die) : Prop := memWf D.tr.buf = true

/-- The allotments of an image in transit are in canonical form. -/
def Transit.memOk (T : Transit) : Prop := ∀ W ∈ T.wgs, W.memOk

/-- An input that waits brings memory in canonical form: a context image (R350) and a remote table (R371) bring any. -/
def Input.memOk : Input → Prop
  | .image t => t.memOk
  | .remote t _ => t.memOk
  | .queue _ _ _ => True
  | .sealing _ => True
  | .storage _ _ => True
  | .tag _ _ => True
  | .softState _ => True
  | .soft _ _ _ => True
  | .event _ => True
  | .msg _ _ => True
  | .record _ _ => True

/-- Every byte memory of the state is in canonical form: allotments, rows, trace rings, and what images bring. -/
structure State.memOk (s : State) : Prop where
  wgs     : ∀ W ∈ s.wgs, W.memOk
  tables  : ∀ T ∈ s.mem.tables, T.memOk
  dies    : ∀ p ∈ s.dies, p.2.memOk
  transit : ∀ t ∈ s.drv.transit, t.memOk
  inbox   : ∀ x ∈ s.ctl.inbox, x.memOk

/-- A state answers a next state, or is powered down (R367): no other stop is safe. -/
def stepSafe (s : State) : Prop :=
  match step s with
  | .next _ => True
  | .fault f => f = .poweredDown
  | .refused _ => False

/-- A run of n steps that never stops but for lack of power, in memories that keep their form. -/
def runSafe : Nat → State → Prop
  | 0, s => s.memOk
  | n + 1, s => s.memOk ∧ stepSafe s ∧ match step s with
    | .next s' => runSafe n s'
    | .fault _ => True
    | .refused _ => True

/-! ### When a word may issue -/

/-- The group named in the state may issue an S word in environment E: it is resident, runs, no debug stop or waiting trap
holds it, and no S word of it is in progress (R86, R279, R299). -/
def SReady (s : State) (E : Env) : Prop := envOf s = some E ∧ E.G.S.stall.holds = false

/-- R58, R60, R104, R208, R212: nothing that every L word is subject to stops this one: the region's word limit and its refusals,
an empty uq, an invalid latch. -/
structure Word.Free (x : Word) : Prop where
  region : match x.G.regionOf x.p.mask with
    | none => regionFault x.op.toNat false = none
    | some r => r.count < 64 ∧ regionFault x.op.toNat true = none
  uq : namesUq x.o = true → x.G.S.uq.isEmpty = false
  latch : latchTrap x = none

/-- The word x is the L word i, its split may issue it, and nothing that every L word is subject to stops it. -/
def LReady (s : State) (i : Instr) (x : Word) : Prop :=
  lParts i = some (x.op, x.o) ∧ wordOf s x.op x.o = some x ∧ x.Free

/-- The state in which an L word takes its effect: issued (R60, R61, R103, R105, R130, R212, R287). -/
def Word.issued (x : Word) (s : State) (clears : Bool) : State := x.mod (x.takeEntry s) (x.begin clears)

end Sys2Proof.Machine
end

