-- ==== Sys2Proof/WellFormed.lean ====
section
/-! DEFINITION. The well-formed instructions: the operand values that an encoding of the spec admits (R42 to R57), the messages
that carry the request they name (R326, R327), and events on cores, dies and links that exist (R11). -/

namespace Sys2Proof

open Machine

/-- R52: a source with a code of its own: the inline byte 0 has none, its code is that of IMM32. -/
def srcOk : Src → Bool
  | .byte n => n != 0
  | _ => true

/-- R54 to R57: an L word's fields, with every lane register that exists, raise no word fault. -/
def fieldsOk (op : BitVec 8) (o : LOp) : Bool :=
  srcOk o.a && srcOk o.b && srcOk o.c && (lFault 256 (rawOfOp op o)).isNone

/-- R326: a request's header: its op, status 0, the length of its body, at most 2^30, and reserved bytes of zero. -/
def msgOk (m : Msg) (op : Nat) : Bool :=
  m.op.toNat == op && m.status == 0 && m.length.toNat == m.body.length && decide (m.length.toNat ≤ 2 ^ 30) && m.resv == 0

/-- R327: a DEBUG request with the subcode in its first body byte. -/
def debugOk (m : Msg) (k : Nat) : Bool :=
  msgOk m 0x0050 && ((m.body.head?).map (·.toNat)) == some k

/-- The conditions of each instruction on its own fields. -/
def ownOk : Instr → Bool
  | .b c a _ => c != .al || a == 0
  | .loop _ o => o != 0
  | .loopi _ o => o != 0
  | .copy d _ => decide (d.toNat ≤ 60)
  | .gather d _ => decide (d.toNat ≤ 60)
  | .bload d => decide (d.toNat ≤ 60)
  | .cwait _ _ o _ => o == .rlx || o == .acq
  | .fence o _ => o != .rlx
  | .csrr _ c => csrKnown c
  | .csrw _ c => csrKnown c
  | .joinAll o => o.var == 0
  | .joinAny o => o.var != 0
  | .quarterOp core _ => decide (core < 512)
  | .tileReady core _ => decide (core < 512)
  | .bindStart core => decide (core < 512)
  | .bindResume core => decide (core < 512)
  | .bindFill core => decide (core < 512)
  | .bindSwap core => decide (core < 512)
  | .duskSwap core => decide (core < 512)
  | .spillDrainDone core => decide (core < 512)
  | .spillFillDone core => decide (core < 512)
  | .childTaskStart core => decide (core < 512)
  | .contextCreate m => msgOk m 0x0001
  | .contextEnd m => msgOk m 0x0002
  | .load m => msgOk m 0x0010
  | .unload m => msgOk m 0x0011
  | .levels m => msgOk m 0x0012
  | .tableCreate m => msgOk m 0x0020
  | .tableRetire m => msgOk m 0x0021
  | .rowsWrite m => msgOk m 0x0022
  | .rowsRead m => msgOk m 0x0023
  | .tableSwap m => msgOk m 0x0024
  | .windowSet m => msgOk m 0x0030
  | .windowRevoke m => msgOk m 0x0031
  | .launch m => msgOk m 0x0040
  | .wait m => msgOk m 0x0041
  | .debugGrantRight m => debugOk m 1
  | .debugRevokeRight m => debugOk m 2
  | .debugWriteDbgctl m => debugOk m 3
  | .debugWriteBreakpoint m => debugOk m 4
  | .debugStopOrHold m => debugOk m 5
  | .debugStateAccess m => debugOk m 6
  | .debugTraceChannel m => debugOk m 7
  | .debugNoonTrigger m => debugOk m 8
  | .attest m => msgOk m 0x0060
  | .sync die => decide (die < 32)
  | .loss die => decide (die < 32)
  | .thermalShutdown die => decide (die < 32)
  | .flitAck link _ _ => decide (link < 48)
  | .linkFailure link _ => decide (link < 48)
  | .zhenanFlitReceive link _ => decide (link < 48)
  | .flitNak link _ => decide (link < 48)
  | .linkRetrain link _ => decide (link < 48)
  | .linkRekey link _ => decide (link < 48)
  | .virtualLaneStop link _ _ => decide (link < 48)
  | .add _ _ _ | .sub _ _ _ | .and _ _ _ | .or _ _ _ | .xor _ _ _ | .andn _ _ _ | .shl _ _ _ | .shr _ _ _ | .sar _ _ _
  | .mul _ _ _ | .mulh _ _ _ | .mulhn _ _ _ | .div _ _ _ | .divn _ _ _ | .rem _ _ _ | .remn _ _ _ | .min _ _ _
  | .max _ _ _ | .minn _ _ _ | .maxn _ _ _ | .slt _ _ _ | .sltn _ _ _ | .seq _ _ _ | .sne _ _ _ | .clz _ _ | .ctz _ _
  | .popc _ _ | .brev _ _ | .addw _ _ _ | .subw _ _ _ | .divT _ _ _ | .divnT _ _ _ | .remT _ _ _ | .remnT _ _ _
  | .addi _ _ _ | .andi _ _ _ | .ori _ _ _ | .xori _ _ _ | .shli _ _ _ | .shri _ _ _ | .sari _ _ _ | .slti _ _ _
  | .sltni _ _ _ | .muli _ _ _ | .movi _ _ | .movh _ _ | .ldk _ _ | .ldkx _ _ _ | .ldp _ _ | .j _ | .call _ | .jr _
  | .jalr _ _ | .rds _ _ | .lrun _ | .lrunr _ | .lwaitRelease _ _ | .pushu _ | .popb _ | .queueDeadlock _ _
  | .skld _ _ _ _ | .skst _ _ _ _ | .kswap _ _ | .kswapComplete _ _ | .cwaitWake _ _ | .bar _ | .barDepart _ _
  | .spawn _ _ | .sleep _ | .sleepEnd _ _ | .mark _ | .trap _ | .lAdd _ | .lSub _ | .lMul _ | .lMulh _ | .mad _
  | .adds _ | .subs _ | .abs _ | .neg _ | .lMin _ | .lMax _ | .lAnd _ | .lOr _ | .lXor _ | .not _ | .lShl _ | .lShr _
  | .lSar _ | .lClz _ | .lPopc _ | .lBrev _ | .bfx _ | .bfi _ | .sel _ | .cmp _ | .mov _ | .prm _ | .dotb _ | .madw _
  | .fadd _ | .fsub _ | .fmul _ | .fma _ | .fnma _ | .fmin _ | .fmax _ | .fabs _ | .fneg _ | .fcmp _ | .fcls _
  | .frnd _ | .fdiv _ | .fsqrt _ | .rcp _ | .rsq _ | .exp2 _ | .log2 _ | .sin _ | .cos _ | .tanh _ | .fscl _ | .fcvt _
  | .icvt _ | .fcvti _ | .qblk _ | .dqblk _ | .pack _ | .unpk _ | .shfl _ | .shfx _ | .bcst _ | .ball _ | .vote _
  | .mbcnt _ | .conf _ | .red _ | .scan _ | .bra _ | .jmp _ | .lend _ | .exitl _ | .yld _ | .yldReturn _ _ _
  | .splitReload _ _ | .movw _ | .pushb _ | .setmd _ | .getmd _ | .rdfl _ | .clfl _ | .lds _ | .sts _ | .ats _
  | .waitge _ | .waitgeRecheck _ _ _ | .kfind _ | .kld _ | .kst _ | .kins _ | .kdel _ | .kseek _ | .knext _
  | .kclose _ | .kat _ | .scat _ | .reductionApply _ | .abeg _ | .ald _ | .ast _ | .acom _ | .commitResume _ _ _
  | .aabt _ | .astat _ | .mma _ | .mzero _ | .mdrn _ | .mrd _ | .mwt _ | .nop _ | .fencel _ | .trapl _ | .markl _
  | .blockStart _ _ | .copyJobStart _ | .copySector _ _ _ _ _ | .gatherElement _ _ | .bloadLine _ _
  | .counterAdd _ _ _ _ | .jobComplete _ | .trapEntry _ _ | .timer _ _ | .timeLimit _ | .workgroupComplete _
  | .debugStop _ _ | .splitHold _ _ _ | .lbrk | .lwait | .exit | .eret | .halt | .brk | .yield | .serviceComplete _ _
  | .testLaunch _ _ _ | .revocationNotice _ | .boot | .undervoltagePowerDown | .firmwareImageReceive _
  | .clockThrottle _ | .stateUncorr _ | .tenantAdmission _ _ | .tenantRetirement _ | .sessionOpen _ _
  | .grantAdmission _ _ _ _ | .noticeAcknowledgement _ | .slabMigration _ | .secretDelivery _ _ _ | .periodAdvance _
  | .contextMigrate _ _ | .migrationConfirm _ _ _ => true

/-- A well-formed instruction. -/
def wellFormed (i : Instr) : Bool :=
  ownOk i && match lParts i with
    | some p => fieldsOk p.1 p.2
    | none => true

end Sys2Proof
end

