-- ==== Sys2Proof/Certificates/Slice0/Obligations.lean ====
section
/-! DEFINITION. The statements for the provers, with the tables of results that they are stated by. -/

/-! ### The tables that the statements use -/

namespace Sys2Proof.Claims

open Sys2Proof.Machine

/-- What an S word that writes one register makes of the two values it reads. -/
abbrev Alu := W64 → W64 → W64

/-- R88: 1 where a condition holds, else 0. -/
def bit (b : Bool) : W64 := if b then 1 else 0

/-- R44, R88, R89: the register forms: destination, the two sources, and the result. -/
def aluR : Instr → Option (BitVec 6 × BitVec 6 × BitVec 6 × Alu)
  | .add d a b => some (d, a, b, fun x y => x + y)
  | .sub d a b => some (d, a, b, fun x y => x - y)
  | .and d a b => some (d, a, b, fun x y => x &&& y)
  | .or d a b => some (d, a, b, fun x y => x ||| y)
  | .xor d a b => some (d, a, b, fun x y => x ^^^ y)
  | .andn d a b => some (d, a, b, fun x y => x &&& ~~~ y)
  | .shl d a b => some (d, a, b, fun x y => x <<< (y.extractLsb' 0 6).toNat)
  | .shr d a b => some (d, a, b, fun x y => x >>> (y.extractLsb' 0 6).toNat)
  | .sar d a b => some (d, a, b, fun x y => x.sshiftRight (y.extractLsb' 0 6).toNat)
  | .mul d a b => some (d, a, b, fun x y => BitVec.ofNat 64 (x.toNat * y.toNat))
  | .mulh d a b => some (d, a, b, fun x y => (x.signExtend 128 * y.signExtend 128).extractLsb' 64 64)
  | .mulhn d a b => some (d, a, b, fun x y => (x.setWidth 128 * y.setWidth 128).extractLsb' 64 64)
  | .min d a b => some (d, a, b, fun x y => if x.toInt ≤ y.toInt then x else y)
  | .max d a b => some (d, a, b, fun x y => if x.toInt ≤ y.toInt then y else x)
  | .minn d a b => some (d, a, b, fun x y => if x.toNat ≤ y.toNat then x else y)
  | .maxn d a b => some (d, a, b, fun x y => if x.toNat ≤ y.toNat then y else x)
  | .slt d a b => some (d, a, b, fun x y => bit (decide (x.toInt < y.toInt)))
  | .sltn d a b => some (d, a, b, fun x y => bit (decide (x.toNat < y.toNat)))
  | .seq d a b => some (d, a, b, fun x y => bit (decide (x = y)))
  | .sne d a b => some (d, a, b, fun x y => bit (decide (x ≠ y)))
  | .addw d a b => some (d, a, b, fun x y => (x.setWidth 32 + y.setWidth 32).signExtend 64)
  | .subw d a b => some (d, a, b, fun x y => (x.setWidth 32 - y.setWidth 32).signExtend 64)
  | .clz d a => some (d, a, 0, fun x _ => BitVec.ofNat 64 (((List.range 64).find? fun k => x.getMsbD k).getD 64))
  | .ctz d a => some (d, a, 0, fun x _ => BitVec.ofNat 64 (((List.range 64).find? fun k => x.getLsbD k).getD 64))
  | .popc d a => some (d, a, 0, fun x _ => BitVec.ofNat 64 ((List.range 64).countP fun k => x.getLsbD k))
  | .brev d a => some (d, a, 0, fun x _ => x.reverse)
  | _ => none

/-- R90: the immediate forms: destination, source, and the result; R91: MOVI and MOVH, which reads its destination. -/
def aluI : Instr → Option (BitVec 6 × BitVec 6 × (W64 → W64))
  | .addi d a i => some (d, a, fun x => x + i.signExtend 64)
  | .andi d a i => some (d, a, fun x => x &&& i.signExtend 64)
  | .ori d a i => some (d, a, fun x => x ||| i.signExtend 64)
  | .xori d a i => some (d, a, fun x => x ^^^ i.signExtend 64)
  | .shli d a i => some (d, a, fun x => x <<< i.toNat)
  | .shri d a i => some (d, a, fun x => x >>> i.toNat)
  | .sari d a i => some (d, a, fun x => x.sshiftRight i.toNat)
  | .slti d a i => some (d, a, fun x => bit (decide (x.toInt < i.toInt)))
  | .sltni d a i => some (d, a, fun x => bit (decide (x.toNat < (i.signExtend 64).toNat)))
  | .muli d a i => some (d, a, fun x => BitVec.ofInt 64 (x.toInt * i.toInt))
  | _ => none

/-- R89: the quotient and the remainder, with the borderline cases that the rule fixes. -/
def divWord : Instr → Option (BitVec 6 × BitVec 6 × BitVec 6 × Bool × Alu)
  | .div d a b => some (d, a, b, false, fun x y => if y = 0 then BitVec.allOnes 64 else BitVec.ofInt 64 (x.toInt.tdiv y.toInt))
  | .divn d a b => some (d, a, b, false, fun x y => if y = 0 then BitVec.allOnes 64 else BitVec.ofNat 64 (x.toNat / y.toNat))
  | .rem d a b => some (d, a, b, false, fun x y => if y = 0 then x else x - y * BitVec.ofInt 64 (x.toInt.tdiv y.toInt))
  | .remn d a b => some (d, a, b, false, fun x y => if y = 0 then x else x - y * BitVec.ofNat 64 (x.toNat / y.toNat))
  | .divT d a b => some (d, a, b, true, fun x y => BitVec.ofInt 64 (x.toInt.tdiv y.toInt))
  | .divnT d a b => some (d, a, b, true, fun x y => BitVec.ofNat 64 (x.toNat / y.toNat))
  | .remT d a b => some (d, a, b, true, fun x y => x - y * BitVec.ofInt 64 (x.toInt.tdiv y.toInt))
  | .remnT d a b => some (d, a, b, true, fun x y => x - y * BitVec.ofNat 64 (x.toNat / y.toNat))
  | _ => none

/-- The state after an S word that only writes register d and retires. -/
def afterWrite (s : State) (E : Env) (d : BitVec 6) (v : W64) : State :=
  s.modGroup E.w E.g fun G => (G.wS d v).retire

/-- R266, R269: what holder a knows of a write as f in s, holder b knows as f' in t. -/
def Turned (s t : State) (a b : Holder) (f f' : How) : Prop :=
  ∀ l ∈ s.late, (∃ k ∈ l.known, k.who.meets a = true ∧ k.how = f) →
    ∃ l' ∈ t.late, l'.space = l.space ∧ l'.unit = l.unit ∧ l'.id = l.id ∧ (⟨b, f'⟩ : Known) ∈ l'.known

/-- R266: what is ordered before a in s is ordered before b in t. -/
def Passes (s t : State) (a b : Holder) : Prop := ∀ v, Turned s t a b (.order v) (.order v)

/-- R267: the same writes are on their way in t as in s, with the same bytes before them. -/
def SameWrites (s t : State) : Prop :=
  t.late.map (fun l => (l.space, l.unit, l.id, l.old)) = s.late.map fun l => (l.space, l.unit, l.id, l.old)

/-- Only group g of workgroup w differs, and of that workgroup nothing but this group. -/
structure OnlyGroup (s t : State) (w g : Nat) : Prop where
  meters : t.meters = s.meters
  time  : t.time = s.time
  mem   : t.mem = s.mem
  drv   : t.drv = s.drv
  cores : t.cores = s.cores
  dies  : t.dies = s.dies
  jobs  : t.jobs = s.jobs
  reds  : t.reds = s.reds
  late  : t.late = s.late
  links : t.links = s.links
  ctl   : t.ctl = s.ctl
  others : ∀ w' g', (w', g') ≠ (w, g) → t.group? w' g' = s.group? w' g'
  wgs   : ∀ (w' : Nat) (W : Wg), s.wgs[w']? = some W → ∃ W' : Wg, t.wgs[w']? = some W' ∧ W' = { W with groups := W'.groups }

/-- R267: only group g of workgroup w differs, but for which writes of other parties it has seen and the free values drawn. -/
structure ReadGroup (s t : State) (w g : Nat) : Prop where
  meters : t.meters = s.meters
  time  : t.time = s.time
  mem   : t.mem = s.mem
  drv   : t.drv = s.drv
  cores : t.cores = s.cores
  dies  : t.dies = s.dies
  jobs  : t.jobs = s.jobs
  reds  : t.reds = s.reds
  links : t.links = s.links
  asked : t.ctl.asked = s.ctl.asked ∧ t.ctl.inbox = s.ctl.inbox
  others : ∀ w' g', (w', g') ≠ (w, g) → t.group? w' g' = s.group? w' g'
  wgs   : ∀ (w' : Nat) (W : Wg), s.wgs[w']? = some W → ∃ W' : Wg, t.wgs[w']? = some W' ∧ W' = { W with groups := W'.groups }

/-- R180, R182, R372: only group g of workgroup w differs, but for the core's row cache and the ids whose resolution acquires, the
errors that an access to table version v has corrected and logged, which writes of others the group has seen, and the free values drawn.
-/
structure ReadTable (s t : State) (w g core v : Nat) : Prop where
  meters : t.meters = s.meters
  time  : t.time = s.time
  dies  : t.dies = s.dies
  jobs  : t.jobs = s.jobs
  reds  : t.reds = s.reds
  links : t.links = s.links
  mem   : t.mem = { s.mem with tables := t.mem.tables }
  tables : ∀ k T, s.table? k = some T → ∃ l, t.table? k = some { T with weak := l } ∧ (k ≠ v → l = T.weak)
  drv   : ∃ log, t.drv = { s.drv with log := s.drv.log ++ log }
  sound : (∀ T, s.table? v = some T → T.weak = []) → t.mem = s.mem ∧ t.drv = s.drv
  core_ : t.core core = { s.core core with cache := (t.core core).cache, due := (t.core core).due }
  cores : ∀ c, c ≠ core → t.core c = s.core c
  asked : t.ctl.asked = s.ctl.asked ∧ t.ctl.inbox = s.ctl.inbox
  others : ∀ w' g', (w', g') ≠ (w, g) → t.group? w' g' = s.group? w' g'
  wgs   : ∀ (w' : Nat) (W : Wg), s.wgs[w']? = some W → ∃ W' : Wg, t.wgs[w']? = some W' ∧ W' = { W with groups := W'.groups }

/-- R267: no write in a space is on its way: everybody reads the same bytes there. -/
def Settled (s : State) (sp : LateSpace) : Prop := ∀ l ∈ s.late, l.space ≠ sp

/-- R44, R88 to R93: the register that an S word of the frame statement writes. -/
def scalarDest (i : Instr) : Option (BitVec 6) :=
  ((aluR i).map (·.1)).orElse fun _ => ((aluI i).map (·.1)).orElse fun _ => ((divWord i).map (·.1)).orElse fun _ =>
    match i with
    | .movi d _ => some d
    | .movh d _ => some d
    | .ldk d _ => some d
    | .ldkx d _ _ => some d
    | .ldp d _ => some d
    | .rds d _ => some d
    | _ => none

/-- R89, R92: the word meets no trap of its own: its divisor, constant index or parameter index is in order. -/
structure ScalarPasses (E : Env) (i : Instr) : Prop where
  divisor : ∀ d a b f, divWord i = some (d, a, b, true, f) → E.G.rS b ≠ 0
  const : ∀ d n, i = .ldk d n → 8 * n.toNat + 8 ≤ E.K.header.csize
  index : ∀ d a k, i = .ldkx d a k → 8 * (E.G.rS a + k.signExtend 64).toNat + 8 ≤ E.K.header.csize
  param : ∀ d p, i = .ldp d p → 8 * p.toNat + 8 ≤ E.La.params.length

/-- R94: the conditions of `b`, on sa read as i64. -/
def taken : Cond → W64 → Prop
  | .al, _ => True
  | .eqz, v => v.toInt = 0
  | .nez, v => v.toInt ≠ 0
  | .ltz, v => v.toInt < 0
  | .gez, v => 0 ≤ v.toInt
  | .lez, v => v.toInt ≤ 0
  | .gtz, v => 0 < v.toInt

/-- R97: an entry of the current call depth whose body the target lies outside. -/
def Outside (depth : BitVec 16) (target : W64) (e : LoopEntry) : Prop :=
  e.depth = depth ∧ (target.toNat < e.start.toNat ∨ e.stop.toNat < target.toNat)

/-- R97: a transfer to a target pops the innermost entries while they are of the current call depth and the target lies outside their
bodies. -/
def Unwound (depth : BitVec 16) (target : W64) (before after : List LoopEntry) : Prop :=
  ∃ gone, before = gone ++ after ∧ (∀ e ∈ gone, Outside depth target e) ∧ ∀ e ∈ after.head?, ¬ Outside depth target e

/-- R86, R96: a transfer of control: the group goes on at the target with this call depth, these registers and loop entries; the rest
of the group, and everything else, stays. -/
structure Went (s t : State) (E : Env) (target : W64) (depth : BitVec 16) (regs : List W64) (loops : List LoopEntry) : Prop where
  only : OnlyGroup s t E.w E.g
  group : t.group? E.w E.g = some { E.G with S := { E.G.S with
    pc := target, depth := depth, s := regs, loops := loops, slast := E.G.S.pc.setWidth 26, stall := .none } }

/-- R177, R343: world x may act with a right on a slab of a table version: the slab is its own, or an active window over the bytes
from lo to hi − 1 grants it. -/
def SlabOpen (s : State) (v : Nat) (t : Table) (x : BitVec 16) (r : Right) (owner : BitVec 16) (lo hi : Nat) : Prop :=
  (owner = x ∧ x ≠ 0) ∨ ∃ p ∈ s.mem.windows, p.2.owner = owner ∧ p.2.grantee = x ∧ p.2.table = s.idOf v t ∧ p.2.has r = true
    ∧ p.2.st = .active ∧ p.2.lo.toNat ≤ lo ∧ hi ≤ p.2.hi.toNat

/-- R176, R177, R343: the slabs of n bytes of rows are present and open to a world; a window over a table that is no ARRAY covers the
whole of it. -/
def RowsOpen (s : State) (v : Nat) (t : Table) (x : BitVec 16) (r : Right) (a n : Nat) : Prop :=
  0 < n → ∀ slab, a / 65536 ≤ slab → slab * 65536 < a + n → slab ∉ t.absent ∧
    (if t.desc.isArray then SlabOpen s v t x r (t.slabOwner slab) a (a + n)
     else SlabOpen s v t x r (t.slabOwner slab) 0 (2 ^ 64 - 1))

/-- R331, R343: a world has been granted a right on n bytes of rows, whatever firmware must fetch or repair before it can use it. -/
def Granted (s : State) (v : Nat) (t : Table) (x : BitVec 16) (r : Right) (a n : Nat) : Prop :=
  let lo := if t.desc.isArray then a else 0
  let hi := if t.desc.isArray then a + n else 2 ^ 64 - 1
  ∀ slab, a / 65536 ≤ slab → slab * 65536 < a + n → slab ∉ t.absent →
    (t.slabOwner slab = x ∧ x ≠ 0) ∨ ∃ p ∈ s.mem.windows, p.2.st ≠ .revoked ∧ p.2.owner = t.slabOwner slab ∧ p.2.grantee = x
      ∧ p.2.table = s.idOf v t ∧ p.2.has r = true ∧ p.2.lo.toNat ≤ lo ∧ hi ≤ p.2.hi.toNat

/-- R372: none of n bytes of rows holds an error that cannot be corrected. -/
def NoBad (t : Table) (a n : Nat) : Prop := ∀ q ∈ t.bad, ¬ (a / 8 ≤ q ∧ q * 8 < a + n)

/-- R127, R285 to R288: the reserved bits of doubleword n of the frame, as ranges of bits, highest and lowest. -/
def frameRsv (n : Nat) : List (Nat × Nat) :=
  if n = 0 then [(63, 19), (15, 8)]
  else if n = 2 then [(63, 53)]
  else if n = 3 then [(63, 56)]
  else if n = 6 then [(63, 47)]
  else if n = 7 then [(63, 0)]
  else if n < 8 then []
  else if n < 20 then (if (n - 8) % 3 = 0 then [(63, 52)] else if (n - 8) % 3 = 2 then [(63, 16)] else [])
  else if n < 68 then
    (if (n - 20) % 6 = 0 then [(63, 62)] else if (n - 20) % 6 = 1 then [(63, 42), (15, 13), (7, 0)]
     else if (n - 20) % 6 = 2 then [(63, 52)] else if (n - 20) % 6 = 3 then [(63, 36)] else [])
  else if n < 116 then []
  else if n < 124 then [(63, 26)]
  else if n = 124 then [(31, 7)]
  else if (n - 125) % 3 = 0 then [(63, 59)]
  else []

/-- The fields of an L word that uses type, VD and two sources: every other field at its zero value, and no guard (R47, R55). -/
def plain (ty : Ty) (vd : BitVec 8) (a b : Src) : LOp :=
  { ty := ty, var := 0, vd := vd, nw := false, pn := false, pg := 7, a := a, b := b, c := .reg 0, aux := 0, imm := 0 }

/-- R228: a locator names counter c for a use: it is well formed, and its doubleword is aligned and inside the allotment, or lies in
a row of a bound ARRAY table. -/
def CounterOk (s : State) (E : Env) (l : W64) (u : LocUse) (c : Counter) : Prop :=
  locatorBad l u = false ∧
  ((locKind l = false ∧ bitsOf l 31 0 % 8 = 0 ∧ bitsOf l 31 0 + 8 ≤ E.W.size ∧ c = .scratch (bitsOf l 31 0))
   ∨ (locKind l = true ∧ ∃ b, slotOf s E.La (locSlot l) = .bound b ∧ (u.adds = true → b.ro = false) ∧ b.t.desc.isArray = true
      ∧ locKey l < b.t.desc.rows ∧ locOff l + 8 ≤ b.t.desc.width
      ∧ c = .table (locSlot l) b.v (locKey l * b.t.desc.width + locOff l)))

/-- R177, R230: a counter in a table is open to a read of the group's world, and sound. -/
def CounterReads (s : State) (E : Env) : Counter → Prop
  | .scratch _ => True
  | .table _ v a => ∀ t, s.table? v = some t → RowsOpen s v t E.world .rd a 8 ∧ NoBad t a 8

/-- R106, R182, R183: a scalar access of 8 bytes finds its slot bound, its row there, and the row open to it and sound. -/
def ScalarRow (s : State) (E : Env) (slot : BitVec 6) (k : W64) (off : Nat) (store : Bool) (b : Bound) (r : Row) : Prop :=
  slotOf s E.La slot = .bound b ∧ (store = true → b.ro = false) ∧ off + 8 ≤ b.t.desc.width
  ∧ b.t.rowOf true (k.setWidth 128) = .ok r
  ∧ RowsOpen s b.v b.t E.world (if store then .wr else .rd) (r.addr + off) 8 ∧ (store = false → NoBad b.t (r.addr + off) 8)

/-- R157, R264: write n is the last one of a counter's granule that anybody may still miss. -/
def LastWrite (s : State) (E : Env) (c : Counter) (n : Nat) : Prop :=
  let sp : LateSpace := match c with | .scratch _ => .scratch E.w | .table _ v _ => .rows v
  let u := match c with | .scratch a => a / 8 | .table _ _ a => a / 8
  ∃ pre l post, s.late = pre ++ l :: post ∧ l.space = sp ∧ l.unit = u ∧ l.id = n ∧ n < s.ctl.writes
    ∧ ∀ k ∈ post, ¬ (k.space = sp ∧ k.unit = u)

/-- R230: nothing is ordered before the S-stream that was not, but what reductions that its fence point covers have done, and what came
before the exchange that installed a descriptor which it resolves (R278). -/
def ReadsOnly (s t : State) (E : Env) : Prop :=
  ∀ l' ∈ t.late, ∀ v, (⟨E.who, .order v⟩ : Known) ∈ l'.known →
    ∃ l ∈ s.late, l.space = l'.space ∧ l.unit = l'.unit ∧ l.id = l'.id ∧ ∃ k ∈ l.known,
      (k.how = .order v ∧ (k.who = E.who ∨ ∃ q m, k.who = .reds E.w E.g q m)) ∨ (v = some domAll ∧ ∃ id, k.who = .swap id)

/-- R202, R284: a fence point lets the word go on: no reduction of the group is in flight, and its record is empty or it is in its
handler. -/
def FenceClear (s : State) (E : Env) : Prop :=
  (∀ r ∈ s.reds, ¬ (r.wg = E.w ∧ r.group = E.g)) ∧ (E.G.T.handler = true ∨ E.G.T.elems = [])

/-- R102: a block runs, or one is to come. -/
def LanesBusy (G : Group) : Prop := G.L.running = true ∨ G.S.dq ≠ []

/-- R104: the S word at issue is `POPB` with bq empty, `PUSHU` with uq full, `LRUN` or `LRUNR` with the dispatch queue full, `LWAIT`, or
an `EXIT`, `BAR` or `ERET` that is held in its implied `LWAIT`. -/
def WaitsForL (E : Env) : Prop :=
  let G := E.G
  G.S.stall ≠ .none ∧ ∃ x i, E.K.scode[G.S.pc.toNat]? = some x ∧ decodeS x = .ok i ∧
    (((∃ d, i = .popb d) ∧ G.S.bq = [])
     ∨ ((∃ a, i = .pushu a) ∧ 32 ≤ G.S.uq.length + G.taken.length)
     ∨ (((∃ o, i = .lrun o) ∨ ∃ a, i = .lrunr a) ∧ 8 ≤ G.S.dq.length)
     ∨ (i = .lwait ∧ LanesBusy G)
     ∨ ((i = .exit ∨ i = .eret ∨ ∃ n, i = .bar n) ∧ G.S.stall = .implied ∧ LanesBusy G))

/-- R104: the split of an entry is stalled on a pop or a peek of uq with uq empty, or on a `PUSHB` with bq full. -/
def StuckAt (E : Env) (e : Nat) : Prop :=
  let p := E.G.split e
  p.st = .ready ∧ p.wait = .queue ∧ ∃ x i op o, E.K.lcode[p.lpc.toNat]? = some x ∧ decodeL E.K.header.lregs x = .ok i
    ∧ lParts i = some (op, o)
    ∧ (((∃ q, (q = o.a ∨ q = o.b ∨ q = o.c) ∧ (q = .uqPop ∨ q = .uqPeek)) ∧ E.G.S.uq = []) ∨ (op = 0x61 ∧ 16 ≤ E.G.S.bq.length))

/-- R104: the L-stream is idle with nothing to come; or every live split is stalled so or parked, and one is stalled so. -/
def StuckL (E : Env) : Prop :=
  ¬ LanesBusy E.G
  ∨ (E.G.L.running = true ∧ E.G.L.ovf = []
     ∧ (∀ e, e < 8 → (E.G.split e).mask ≠ 0 → (E.G.split e).st = .joinPark ∨ (E.G.split e).st = .endPark ∨ StuckAt E e)
     ∧ ∃ e, e < 8 ∧ (E.G.split e).mask ≠ 0 ∧ StuckAt E e)

/-- R279, R283: a trap of the group is entered at once: user mode, a handler, and no issued word of it in flight. -/
def TrapOpen (E : Env) : Prop := E.G.T.handler = false ∧ E.G.T.trapbase ≠ 0 ∧ E.G.inFlight = false

/-- R283, R284: the group has entered its handler with a cause and a kind: what is saved, what is emptied, where it goes on. -/
structure Entered (G G' : Group) (c : Cause) (k : TrapKind) (from_ d0 d1 : W64) : Prop where
  handler : G'.T.handler = true
  cause : G'.T.cause = 1#1 ++ causeCode c
  traps : G'.T.traps = G.T.traps + 1
  pc : G'.S.pc = G.T.trapbase.setWidth 64
  empty : G'.S.uq = [] ∧ G'.S.bq = [] ∧ G'.S.dq = [] ∧ G'.S.loops = [] ∧ G'.S.depth = 0 ∧ G'.L.running = false
  code : (G'.T.frame.getD 0 0).extractLsb' 0 8 = causeCode c ∧ (G'.T.frame.getD 0 0).extractLsb' 16 3 = kindCode k
  saved : (G'.T.frame.getD 2 0).extractLsb' 0 26 = from_.setWidth 26
  det : G'.T.frame.getD 4 0 = d0 ∧ G'.T.frame.getD 5 0 = d1
  scalars : G'.S.s = G.S.s
  record : G'.T.elems = []

/-- R127, R285: the mask and the state code of entry e of a frame. -/
def frameMask (f : List W64) (e : Nat) : LMask := (f.getD (20 + 6 * e) 0).extractLsb' 0 32
def frameState (f : List W64) (e : Nat) : Nat := bitsOf (f.getD (20 + 6 * e) 0) 61 58

/-- R290: a frame in order: no state above 5; an entry free exactly where its mask is 0; masks, those of the overflow area among them,
that share no lane and hold no lane outside %alive; counts within the queues and the loop stack; done lanes within the lane mask; and at
most 64 record entries. -/
structure FrameFine (G : Group) : Prop where
  states : ∀ e, e < 8 → frameState G.T.frame e ≤ 5 ∧ (frameState G.T.frame e = 0 ↔ frameMask G.T.frame e = 0)
  apart : ((List.range 8).map (frameMask G.T.frame) ++ G.T.saved.ovf.map (·.mask)).Pairwise fun a b => a &&& b = 0
  alive : ∀ m ∈ (List.range 8).map (frameMask G.T.frame) ++ G.T.saved.ovf.map (·.mask), m &&& ~~~ G.L.alive = 0
  counts : let h := G.T.frame.getD 6 0
    bitsOf h 24 19 ≤ 32 ∧ bitsOf h 29 25 ≤ 16 ∧ bitsOf h 33 30 ≤ 8 ∧ bitsOf h 18 16 ≤ 4
  done : (G.T.frame.getD 1 0).extractLsb' 32 32 &&& ~~~ (G.T.frame.getD 1 0).extractLsb' 0 32 = 0
  record : bitsOf (G.T.frame.getD 124 0) 6 0 ≤ 64

/-- R285, R290: the S-stream is as a frame has it: S-PC, call depth, queues and loop entries; the registers stay as they are. -/
structure Reloaded (f : List W64) (G G' : Group) : Prop where
  pc : G'.S.pc = ((f.getD 2 0).extractLsb' 0 26).setWidth 64
  depth : G'.S.depth = (f.getD 6 0).extractLsb' 0 16
  scalars : G'.S.s = G.S.s
  lanes : ∀ i, (G'.lane i).regs = (G.lane i).regs ∧ (G'.lane i).preds = (G.lane i).preds
  uq : G'.S.uq = (f.drop 68).take (bitsOf (f.getD 6 0) 24 19)
  bq : G'.S.bq = (f.drop 100).take (bitsOf (f.getD 6 0) 29 25)
  dq : G'.S.dq = ((f.drop 116).take (bitsOf (f.getD 6 0) 33 30)).map fun d => d.extractLsb' 0 26
  count : G'.S.loops.length = bitsOf (f.getD 6 0) 18 16
  loops : ∀ (k : Nat) (e : LoopEntry), G'.S.loops[k]? = some e → e.start = ((f.getD (8 + 3 * k) 0).extractLsb' 0 26).setWidth 64
    ∧ e.stop = ((f.getD (8 + 3 * k) 0).extractLsb' 26 26).setWidth 64 ∧ e.count = f.getD (9 + 3 * k) 0
    ∧ e.depth = (f.getD (10 + 3 * k) 0).extractLsb' 0 16

/-- R127, R140, R290: entry e is as a frame has it, a yielded one ready; it goes on at its replay point, the oldest word of its record
with NW = 1, or at its L-PC where there is none. -/
def EntryBack (f : List W64) (G' : Group) (e : Nat) : Prop :=
  let d1 := f.getD (21 + 6 * e) 0
  let d2 := f.getD (22 + 6 * e) 0
  let pc := fun k => (if k = 0 then d1.extractLsb' 16 26 else if k = 1 then d2.extractLsb' 0 26 else d2.extractLsb' 26 26).setWidth 64
  (G'.split e).mask = frameMask f e
  ∧ (stateCode (G'.split e).st).toNat = (if frameState f e = 4 then 1 else frameState f e)
  ∧ ((∀ k, k < bitsOf d1 12 11 → d1.getLsbD (8 + k) = false) →
      (G'.split e).lpc = ((f.getD (20 + 6 * e) 0).extractLsb' 32 26).setWidth 64)
  ∧ ∀ k, k < bitsOf d1 12 11 → d1.getLsbD (8 + k) = true → (∀ j, j < k → d1.getLsbD (8 + j) = false) → (G'.split e).lpc = pc k

/-- R128: the split of an entry is parked at a join or at the end. -/
def Parked (G : Group) (e : Nat) : Prop := (G.split e).st = .joinPark ∨ (G.split e).st = .endPark

/-- R134, R136: a split of another entry is parked where the word would park its own. -/
def There (x : Word) (st : SplitState) (k : Nat) : Prop :=
  k < 8 ∧ k ≠ x.e ∧ (x.G.split k).st = st ∧ (x.G.split k).lpc = x.p.lpc + 1

/-- R134, R136: none is. -/
def NoneThere (x : Word) (st : SplitState) : Prop := ∀ k, ¬ There x st k

/-- R134, R136: entry e is the lowest that is. -/
def ParkedThere (x : Word) (st : SplitState) (e : Nat) : Prop := There x st e ∧ ∀ k, k < e → ¬ There x st k

/-- R134: the word's own entry, or that of a ready split whose next word it is. -/
def JoinsHere (x : Word) (e : Nat) : Prop :=
  e = x.e ∨ ((x.G.split e).mask ≠ 0 ∧ (x.G.split e).st = .ready ∧ (x.G.split e).lpc = x.p.lpc)

/-- R138: a sibling of the word's split that is ready. -/
def Sibling (x : Word) (k : Nat) : Prop := k ≠ x.e ∧ (x.G.split k).mask ≠ 0 ∧ (x.G.split k).st = .ready

/-- R128: an entry holds a split in a state, at an L-PC, with a mask. -/
def EntryIs (G : Group) (e : Nat) (st : SplitState) (lpc : W64) (m : LMask) : Prop :=
  (G.split e).st = st ∧ (G.split e).lpc = lpc ∧ (G.split e).mask = m

/-- R128: an entry is free. -/
def Freed (G : Group) (e : Nat) : Prop := (G.split e).st = .free ∧ (G.split e).mask = 0

/-- R129, R135: the group is in its handler with a cause, kind A, at the word that has parked last, whose split the frame names. -/
def ParkTrap (x : Word) (G' : Group) (c : Cause) : Prop :=
  G'.T.handler = true ∧ G'.T.cause = 1#1 ++ causeCode c ∧ (G'.T.frame.getD 0 0).extractLsb' 16 3 = kindCode .after
  ∧ (G'.T.frame.getD 3 0).getLsbD 55 = true ∧ bitsOf (G'.T.frame.getD 3 0) 54 52 = x.e
  ∧ (G'.T.frame.getD 3 0).extractLsb' 0 26 = x.p.lpc.setWidth 26

/-- Everything but the workgroups is as it was, but for trace packets that wait for the end of their clk (R355), the free values drawn,
and the places of queue entries that a trap frame has taken over (R284). -/
structure OnlyWgs (s t : State) : Prop where
  time  : t.time = s.time
  mem   : t.mem = s.mem
  drv   : t.drv = s.drv
  cores : t.cores = s.cores
  jobs  : t.jobs = s.jobs
  reds  : t.reds = s.reds
  links : t.links = s.links
  meters : t.meters = s.meters
  late  : SameWrites s t
  dies  : ∀ d, ∃ ps, t.die d = { s.die d with tr := { (s.die d).tr with pend := (s.die d).tr.pend ++ ps } }

/-- R108, R113 to R122, R125, R146 to R151: the opcodes of the L words that write one result to VD. -/
def resultOp (op : Nat) : Bool :=
  (decide (0x01 ≤ op) && decide (op ≤ 0x18)) || (decide (0x1A ≤ op) && decide (op ≤ 0x1D))
  || (decide (0x20 ≤ op) && decide (op ≤ 0x28)) || (decide (0x2A ≤ op) && decide (op ≤ 0x38))
  || (decide (0x40 ≤ op) && decide (op ≤ 0x43)) || (decide (0x48 ≤ op) && decide (op ≤ 0x4A))
  || (decide (0x4D ≤ op) && decide (op ≤ 0x50)) || op == 0x69 || op == 0x6A

/-- R114, R118, R148: the opcodes of the L words that write a predicate. -/
def predOp (op : Nat) : Bool := op == 0x19 || op == 0x29 || op == 0x4C

/-- What an L word leaves as it was in its group: the scalar stream but for uq and the stamp, the block, the uniform registers and
MD, the tiles, the traps but for the skip mask, and how the group stands. -/
structure LaneKept (G G' : Group) : Prop where
  scalar : G'.S = { G.S with uq := G'.S.uq, stamp := G'.S.stamp }
  block : G'.L = { G.L with splits := G'.L.splits, ovf := G'.L.ovf }
  trap : G'.T = { G.T with skip := G'.T.skip }
  rest : G' = { G with S := G'.S, L := G'.L, T := G'.T, lanes := G'.lanes }
  length : G'.lanes.length = G.lanes.length

/-- A lane keeps its registers, predicates, flags and cursors. -/
def LaneSame (L L' : Lane) : Prop :=
  L'.regs = L.regs ∧ L'.preds = L.preds ∧ L'.flags = L.flags ∧ L'.pend = L.pend ∧ L'.cur = L.cur ∧ L'.rstat = L.rstat

/-- Exactly the listed changes to a lane's registers; everything else of LaneSame stays but the flags. -/
def LaneWrote (o : LOp) (L L' : Lane) (v : W64) : Prop :=
  L'.regs = (if o.nw then L.regs else L.regs.set o.vd.toNat v) ∧ L'.preds = L.preds ∧ L'.pend = L.pend ∧ L'.cur = L.cur

/-- R105: t is s with group G' in the place of the word's; a word that pops uq comes after what the S-stream had done when it pushed the
entry, and nothing else is ordered anew. -/
def WordOnly (s t : State) (x : Word) (G' : Group) : Prop :=
  t = { s.setGroup x.E.w x.E.g G' with late := t.late } ∧ (popsUq x.o = false → t.late = s.late)
    ∧ (popsUq x.o = true → SameWrites s t ∧ Passes s t (.entry x.E.w x.E.g true x.G.taken.length) x.who)

/-- The word x has issued and retired in a group that it alone has changed, and its split goes on at the next word. -/
def Retired (s t : State) (x : Word) (G' : Group) : Prop :=
  WordOnly s t x G' ∧ LaneKept x.G G' ∧ (G'.split x.e).lpc = x.p.lpc + 1 ∧ (G'.split x.e).mask = x.p.mask
    ∧ G'.S.uq = (if popsUq x.o then x.G.S.uq.drop 1 else x.G.S.uq)

/-- R113, R115, R122: the integer words whose sub-elements are exact functions of two sub-elements, wrapped to the type. -/
def intElem : Nat → Ty → Option (Int → Int → Int)
  | 0x01, _ => some fun a b => a + b
  | 0x02, _ => some fun a b => a - b
  | 0x03, _ => some fun a b => a * b
  | 0x04, t => some fun a b => a * b / 2 ^ tyBits t
  | 0x06, t => some fun a b => max (intMin t) (min (intMax t) (a + b))
  | 0x07, t => some fun a b => max (intMin t) (min (intMax t) (a - b))
  | 0x0A, _ => some fun a b => if a ≤ b then a else b
  | 0x0B, _ => some fun a b => if a ≤ b then b else a
  | _, _ => none

/-- The exact number that a finite value stands for. -/
def ratOf (x : Ex) : Rat := (if x.neg then -1 else 1) * (x.m : Rat) * (2 : Rat) ^ x.e

/-- R117, R119: what the two-source float words compute exactly. -/
def floatElem : Nat → Option (Rat → Rat → Rat)
  | 0x20 => some fun a b => a + b
  | 0x21 => some fun a b => a - b
  | 0x22 => some fun a b => a * b
  | 0x2C => some fun a b => a / b
  | _ => none

/-- The scratchpad word x passes its checks: every active lane's bytes lie inside the allotment and are aligned (R156). -/
def ScratchOk (x : Word) (n align : Nat) : Prop :=
  ∀ i, inMask x.act i = true → 0 ≤ scrAddr x i ∧ scrAddr x i + n ≤ x.E.W.size ∧ scrAddr x i % align = 0

/-- The state with every trap enable of a group's MD and every sticky flag of its lanes cleared: what flags a word raises shows there. -/
def quiet (s : State) (w g : Nat) : State :=
  s.modGroup w g fun G => { G with L := { G.L with md := G.L.md &&& 0xFC1F }, lanes := G.lanes.map fun L => { L with flags := 0 } }

/-- R205: only group g of workgroup w differs, but for what an acquire or a release does: row-cache lines dropped, and which writes are
ordered. -/
structure OrderedGroup (s t : State) (w g core : Nat) : Prop where
  meters : t.meters = s.meters
  time  : t.time = s.time
  mem   : t.mem = s.mem
  drv   : t.drv = s.drv
  dies  : t.dies = s.dies
  jobs  : t.jobs = s.jobs
  reds  : t.reds = s.reds
  links : t.links = s.links
  ctl   : t.ctl = s.ctl
  core_ : t.core core = { s.core core with cache := (t.core core).cache }
  cores : ∀ c, c ≠ core → t.core c = s.core c
  others : ∀ w' g', (w', g') ≠ (w, g) → t.group? w' g' = s.group? w' g'
  wgs   : ∀ (w' : Nat) (W : Wg), s.wgs[w']? = some W → ∃ W' : Wg, t.wgs[w']? = some W' ∧ W' = { W with groups := W'.groups }

/-- R158: lane k of a store writes byte a of the allotment. -/
def StoresAt (x : Word) (k a : Nat) : Prop :=
  inMask x.act k = true ∧ (scrAddr x k).toNat ≤ a ∧ a < (scrAddr x k).toNat + (storeBytes x k).length

/-- R159: bits of the unit of an atomic: a register pair for `.cas128`. -/
def unitBits (o : LOp) : Nat := if o.var = 9 then 128 else tyBits o.ty

/-- R159: an operand of an atomic on a lane. -/
def unitArg (x : Word) (k : Nat) (q : Src) : Nat :=
  if x.o.var = 9 then ((x.G.lane k).r (regNo q)).toNat + 2 ^ 64 * ((x.G.lane k).r (regNo q + 1)).toNat
  else subElem (tyBits x.o.ty) (x.src x.o.ty k q) 0

/-- R159: what the integer atomics of a kind make of the old value of a unit of w bits. -/
def rmw (kind : Nat) (t : Ty) (w old b c : Nat) : Option Nat :=
  match kind with
  | 0 => some ((old + b) % 2 ^ w)
  | 1 => some ((old + 2 ^ w - b) % 2 ^ w)
  | 2 => some (if intOf t old ≤ intOf t b then old else b)
  | 3 => some (if intOf t old ≤ intOf t b then b else old)
  | 4 => some (old &&& b)
  | 5 => some (old ||| b)
  | 6 => some (old ^^^ b)
  | 7 => some b
  | 8 => some (if old = b then c else old)
  | 9 => some (if old = b then c else old)
  | _ => none

/-- R159: a lane's registers after an atomic has delivered an old value: VD, and the register after it for `.cas128`. -/
def gotOld (o : LOp) (L : Lane) (old : Nat) : List W64 :=
  if o.var = 9 then (L.regs.set o.vd.toNat (BitVec.ofNat 64 old)).set (o.vd.toNat + 1) (BitVec.ofNat 64 (old / 2 ^ 64))
  else L.regs.set o.vd.toNat (widen (tySigned o.ty) (tyBytes o.ty) old)

/-- R67, R69, R159: `new` is the sum of two patterns of a format, rounded to the nearest of its values where that lies within the finite
range; infinities as they are, and the canonical NaN. -/
def SumIs (g : Fmt) (old b new : Nat) : Prop :=
  let nan := (2 ^ g.ebits - 1) * 2 ^ g.fbits + 2 ^ (g.fbits - 1)
  match readF g old, readF g b with
  | .fin p, .fin q => ∀ top, readF g g.maxMag = .fin top → ratOf p + ratOf q ≤ ratOf top → -ratOf top ≤ ratOf p + ratOf q →
      ∃ y, readF g new = .fin y ∧ ∀ u z, readF g u = .fin z →
        (ratOf y - (ratOf p + ratOf q)) * (ratOf y - (ratOf p + ratOf q)) ≤ (ratOf z - (ratOf p + ratOf q)) * (ratOf z - (ratOf p + ratOf q))
  | .inf n, .fin _ => readF g new = .inf n
  | .fin _, .inf n => readF g new = .inf n
  | .inf m, .inf n => if m = n then readF g new = .inf m else new = nan
  | _, _ => new = nan

/-- R159, R197: one step of an atomic makes `new` of what it finds. -/
def AtomStep (x : Word) (k old new : Nat) : Prop :=
  match rmw x.o.var.toNat x.o.ty (unitBits x.o) old (unitArg x k x.o.b) (unitArg x k x.o.c) with
  | some v => new = v
  | none => x.o.var = 10 → x.o.ty = .f32 ∨ x.o.ty = .f64 → SumIs (fmtOf x.o.ty) old (unitArg x k x.o.b) new

/-- R159, R197, R204: the steps of an atomic's active lanes in ascending order, memory after memory: n bytes from `at_ k` are what the
step of lane k makes of them, every other byte stays, and the lane gets what it found. -/
def LaneSteps (x : Word) (G' : Group) (n : Nat) (at_ : Nat → Nat) (M : Nat → Mem) : Prop :=
  ∀ j k, (lanesOf x.act)[j]? = some k →
    AtomStep x k (memNat (M j) (at_ k) n) (memNat (M (j + 1)) (at_ k) n)
    ∧ (∀ b, b < at_ k ∨ at_ k + n ≤ b → memGet (M (j + 1)) b = memGet (M j) b)
    ∧ (G'.lane k).regs = gotOld x.o (x.G.lane k) (memNat (M j) (at_ k) n) ∧ (G'.lane k).preds = (x.G.lane k).preds

/-- R156 to R160: a scratchpad word: its fields, the bytes that a lane accesses, their alignment, and whether it is a `.cas128`. -/
def scrForm : Instr → Option (LOp × Nat × Nat × Bool)
  | .lds o => some (o, accBytes o, tyBytes o.ty, false)
  | .sts o => some (o, accBytes o, tyBytes o.ty, false)
  | .ats o => some (o, atomBytes o, atomBytes o, o.var == 9)
  | .waitge o => some (o, tyBytes o.ty, tyBytes o.ty, false)
  | _ => none

/-- R8, R281: the word traps before any effect, kind L, with a cause on exactly the lanes of a set. -/
def TrapsOn (i : Instr) (s : State) (x : Word) (c : Cause) (on : Nat → Prop) : Prop :=
  ∃ ti, exec i s = .next (takeTrap s x.E.w x.E.g ti) ∧ ti.cause = c ∧ ti.kind = .lane ∧ ∀ k, inMask ti.lanes k = true ↔ on k

/-- R160: the value that a lane of a `WAITGE` finds in an allotment. -/
def valueAt (m : Mem) (a n : Nat) (signed : Bool) : W64 := widen signed n (memNat m a n)

/-- R160: a value is at or above a bound. -/
def atLeast (signed : Bool) (v b : W64) : Bool := if signed then decide (b.toInt ≤ v.toInt) else decide (b.toNat ≤ v.toNat)

/-- R160: a waiting lane that looks at an allotment, as it is after n writes. -/
def looked (n : Nat) (m : Mem) (q : WaitLane) : WaitLane :=
  let v := valueAt m q.addr q.bytes q.signed
  if q.seen.isSome ∨ atLeast q.signed v q.bound = false then q else { q with seen := some v, after := n }

/-- R160: a lane of a `WAITGE` before it has looked. -/
def waitOf (x : Word) (k : Nat) : WaitLane :=
  { lane := k, addr := (scrAddr x k).toNat, bytes := tyBytes x.o.ty, signed := tySigned x.o.ty
    bound := widen (tySigned x.o.ty) (tyBytes x.o.ty) (x.b x.o.ty k).toNat, seen := none, after := 0 }

/-- R189: lane k of a table store writes byte a of the row space, its row being r. -/
def RowStoresAt (x : Word) (R : Nat → Row) (k a : Nat) : Prop :=
  inMask x.act k = true ∧ (R k).addr + tabOff x.o ≤ a ∧ a < (R k).addr + tabOff x.o + (storeBytes x k).length

/-- R197: lane k of a KAT acts on byte a of the row space, its row being r. -/
def UnitAt (x : Word) (R : Nat → Row) (k a : Nat) : Prop :=
  inMask x.act k = true ∧ (R k).addr + tabOff x.o ≤ a ∧ a < (R k).addr + tabOff x.o + katBytes x.o

/-- R183: the table word x finds its slot bound and every check up to its lanes passed. -/
def TableOk (x : Word) (s : State) (write : Bool) (okKind : Bound → Bool) (n align : Nat) (b : Bound) : Prop :=
  slotOf s x.E.La (tabSlot x.o) = .bound b ∧ (write = true → b.ro = false) ∧ okKind b = true
  ∧ (b.t.desc.k128 = true → tabRid x.o = false → isPair x x.o.a = true)
  ∧ tabOff x.o + n ≤ b.t.desc.width ∧ tabOff x.o % align = 0

/-- R182, R183, R372: lane i of a table word finds row r, and n bytes of it from an offset are there, open to the lane's world, and sound
where they are read. -/
def LaneRow (x : Word) (s : State) (b : Bound) (off n : Nat) (rt : Right) (reads : Bool) (i : Nat) (r : Row) : Prop :=
  b.t.rowOf (tabRid x.o) (tabKey x b.t.desc.k128 i) = .ok r ∧ RowsOpen s b.v b.t x.E.world rt (r.addr + off) n
  ∧ (reads = true → NoBad b.t (r.addr + off) n)

/-- R214, R215: an ALD or AST passes its checks, and its active lanes name these places. -/
def AreaOk (x : Word) (s : State) (write : Bool) (locs : Nat → Loc) : Prop :=
  let n := tyBytes x.o.ty
  (x.o.var = 1 ∧ ScratchOk x n n ∧ ∀ i, inMask x.act i = true → locs i = .scratch (scrAddr x i).toNat)
  ∨ (x.o.var ≠ 1 ∧ ∃ (b : Bound) (R : Nat → Row), TableOk x s write (fun _ => true) n n b
      ∧ (∀ i, inMask x.act i = true → LaneRow x s b (tabOff x.o) n (if write then .wr else .rd) (!write) i (R i))
      ∧ ∀ i, inMask x.act i = true → locs i = .table b.slot b.v (R i).rid ((R i).addr + tabOff x.o))

/-- R214: accesses of n and m bytes have no byte in common. -/
def Apart (a : Loc) (n : Nat) (b : Loc) (m : Nat) : Prop :=
  a.span.1 ≠ b.span.1 ∨ a.span.2 + n ≤ b.span.2 ∨ b.span.2 + m ≤ a.span.2

/-- R214: the same access. -/
def SameAccess (a : Loc) (n : Nat) (b : Loc) (m : Nat) : Prop := a.span = b.span ∧ n = m

/-- R209: the tag that a region holds for a register. -/
def tagIn (r : Region) (n : Nat) : Option Tag := lookupNat n r.rtags

/-- R214: the bytes of a place, as they stand at home. -/
def placeBytes (s : State) (E : Env) (n : Nat) : Loc → Nat
  | .scratch off => memNat E.W.scratch off n
  | .table _ v _ addr => match s.table? v with | some t => memNat t.rows addr n | none => 0

/-- R267, R180: what is read at a place is what stands at home: no write there is on its way, and the core keeps no copy. -/
def PlaceSettled (s : State) (E : Env) : Loc → Prop
  | .scratch _ => Settled s (.scratch E.w)
  | .table _ v _ _ => Settled s (.rows v) ∧ (s.core E.W.coreNo).cache = []

/-- R178, R216, R223: the bytes that a commit needs are at hand: the descriptor, the row and its slabs, open and sound; an input on the
version that its `ALD` resolved. -/
def PlaceHere (s : State) (E : Env) (rt : Right) (n : Nat) : Loc → Prop
  | .scratch _ => True
  | .table slot v rid addr => ∃ b, slotOf s E.La slot = .bound b ∧ (rt = .rd → b.v = v ∧ NoBad b.t addr n)
      ∧ (if b.t.desc.isArray then rid.toNat < b.t.desc.rows else (b.t.liveRow rid).isSome = true)
      ∧ RowsOpen s b.v b.t E.world rt addr n

/-- R216, R223: a place that a commit needs is no longer: its slot names no table, its row is no longer live, or an input's slot resolves
another version. -/
def PlaceGone (s : State) (E : Env) (rt : Right) : Loc → Prop
  | .scratch _ => False
  | .table slot v rid _ => slotOf s E.La slot = .unbound ∨ ∃ b, slotOf s E.La slot = .bound b
      ∧ ((rt = .rd ∧ b.v ≠ v) ∨ ¬ (if b.t.desc.isArray then rid.toNat < b.t.desc.rows else (b.t.liveRow rid).isSome = true))

/-- R216, R223: of every place that a lane's region needs Equinox knows without firmware whether it is at hand or gone. -/
def RegionKnown (s : State) (E : Env) (r : Region) : Prop :=
  (∀ q ∈ r.inputs, PlaceHere s E .rd q.bytes q.loc ∨ PlaceGone s E .rd q.loc)
  ∧ ∀ q ∈ r.stores, PlaceHere s E .wr q.bytes q.loc ∨ PlaceGone s E .wr q.loc

/-- R223: a buffered store needs a slab that is absent. -/
def StoreWaits (s : State) (E : Env) (q : RegionStore) : Prop :=
  match q.loc with
  | .scratch _ => False
  | .table slot _ rid addr => ∃ b, slotOf s E.La slot = .bound b ∧ 0 < q.bytes
      ∧ (if b.t.desc.isArray then rid.toNat < b.t.desc.rows else (b.t.liveRow rid).isSome = true)
      ∧ ∃ slab ∈ b.t.absent, addr / 65536 ≤ slab ∧ slab * 65536 < addr + q.bytes

/-- R175, R214: the bytes at home: those of a workgroup's allotment, and those of every table version's rows. -/
abbrev Home := Option Nat → Mem

/-- The bytes at home in a state. -/
def homeOf (s : State) (w : Nat) : Home
  | none => match s.wgs[w]? with | some W => W.scratch | none => []
  | some v => match s.table? v with | some T => T.rows | none => []

/-- Two homes read alike everywhere. -/
def SameHome (m m' : Home) : Prop := ∀ sp a, memGet (m' sp) a = memGet (m sp) a

/-- R216: the place of a buffered store at its commit: on the version that its slot resolves now. -/
def storePlace (s : State) (E : Env) (q : RegionStore) : Option Nat × Nat :=
  match q.loc with
  | .scratch off => (none, off)
  | .table slot v _ addr => (some (match slotOf s E.La slot with | .bound b => b.v | _ => v), addr)

/-- R215, R216: buffered stores in program order: each writes its low bytes, little-endian, of its own data, or of input k's fresh value
plus a constant; no other byte changes. -/
def StoresDone (s : State) (E : Env) (f : Nat → W64) : List RegionStore → Home → Home → Prop
  | [], m, m' => SameHome m m'
  | q :: qs, m, m' => ∃ m1 : Home, StoresDone s E f qs m1 m' ∧
      let at_ := storePlace s E q
      let v := match q.tag with | none => q.value | some k => f k + q.value
      ∀ sp a, memGet (m1 sp) a = if sp = at_.1 ∧ at_.2 ≤ a ∧ a < at_.2 + q.bytes
        then BitVec.ofNat 8 (v.toNat / 256 ^ (a - at_.2)) else memGet (m sp) a

/-- R114, R210: the condition of a `CMP`. -/
def CondIs : Nat → Int → Int → Prop
  | 0, a, b => a = b
  | 1, a, b => a ≠ b
  | 2, a, b => a < b
  | 3, a, b => a ≤ b
  | 4, a, b => b < a
  | _, a, b => b ≤ a

/-- R210: a constraint holds against the inputs' values: the comparison, the tagged side being its input's value plus its constant, gives
the outcome that was observed. -/
def Holds (c : Constraint) (f : Nat → W64) : Prop :=
  let n := fun (w : W64) => if c.signed then w.toInt else (w.toNat : Int)
  let v := n (f c.input + c.offset)
  (if c.tagLeft then CondIs c.cond.toNat v (n c.other) else CondIs c.cond.toNat (n c.other) v) ↔ c.outcome = true

/-- R216, R221, R223: the commit of a lane's region takes the bytes at home from m to m' and the lane from L to L'. With every input as
recorded it commits clean; with the lowest changed one that is pinned it aborts with status 3; with a failing constraint, the lowest,
with status 2; else it commits with status 1 and repairs its tagged registers; with a place gone it aborts with status 3, detail 8. Only
a commit writes its stores. -/
def LaneCommits (s : State) (E : Env) (r : Region) (L L' : Lane) (m m' : Home) : Prop :=
  let f : Nat → W64 := fun k => ((r.inputs[k]?).map fun q => valueAt (m q.loc.span.1) q.loc.span.2 q.bytes q.signed).getD 0
  let changed := fun k => ∃ q, r.inputs[k]? = some q ∧ f k ≠ q.value
  let pinned := fun k => r.pins.getLsbD k = true ∧ changed k
  let fails := fun j => ∃ c, r.cons[j]? = some c ∧ ¬ Holds c f
  let gone := (∃ q ∈ r.inputs, PlaceGone s E .rd q.loc) ∨ ∃ q ∈ r.stores, PlaceGone s E .wr q.loc
  let aborts := fun st => L'.rstat = BitVec.ofNat 8 st ∧ L'.regs = L.regs ∧ SameHome m m'
  L'.region = none ∧ L'.preds = L.preds
  ∧ (gone → aborts 0x8B)
  ∧ (¬ gone →
      ((∀ k, ¬ changed k) → L'.rstat = 8 ∧ L'.regs = L.regs ∧ StoresDone s E f r.stores m m')
      ∧ (∀ k, pinned k → (∀ j, j < k → ¬ pinned j) → aborts (16 * k + 11))
      ∧ ((∃ k, changed k) → (∀ k, ¬ pinned k) →
          (∀ j, fails j → (∀ i, i < j → ¬ fails i) → aborts (16 * j + 10))
          ∧ ((∀ j, ¬ fails j) → L'.rstat = 9 ∧ StoresDone s E f r.stores m m'
              ∧ ∀ n, (∀ g, tagIn r n = some g → n < L.regs.length → L'.r n = f g.input + g.offset)
                ∧ (tagIn r n = none → L'.r n = L.r n))))

/-- R216, R218, R223: Equinox has committed the lanes of word x in ascending order, and its split has gone on: the lanes that have
committed at the next word; the others at their fallback, where some have committed in a new split, placed as a divergent `BRA` places
one. -/
structure Committed (s t : State) (x : Word) (G' : Group) : Prop where
  lanes : ∃ M : Nat → Home, SameHome (M 0) (homeOf s x.E.w) ∧ SameHome (M (lanesOf x.p.mask).length) (homeOf t x.E.w)
    ∧ ∀ j k, (lanesOf x.p.mask)[j]? = some k → match (x.G.lane k).region with
      | some r => LaneCommits s x.E r (x.G.lane k) (G'.lane k) (M j) (M (j + 1))
      | none => LaneSame (x.G.lane k) (G'.lane k) ∧ SameHome (M j) (M (j + 1))
  others : ∀ k, inMask x.p.mask k = false → LaneSame (x.G.lane k) (G'.lane k)
  tables : ∀ v T, s.table? v = some T → ∃ T', t.table? v = some T' ∧ T' = { T with rows := T'.rows, bad := T'.bad, weak := T'.weak }
  frame : t.jobs = s.jobs ∧ t.reds = s.reds
  goes : (∀ k, inMask x.p.mask k = true → (G'.lane k).rstat.toNat % 8 ≤ 1) →
    (G'.split x.e).lpc = x.p.lpc + 1 ∧ (G'.split x.e).mask = x.p.mask
  back : ∀ fb, (∃ k r, inMask x.p.mask k = true ∧ (x.G.lane k).region = some r) →
    (∀ k r, inMask x.p.mask k = true → (x.G.lane k).region = some r → r.fallback = fb) →
    let out := fun k => inMask x.p.mask k = true ∧ 1 < (G'.lane k).rstat.toNat % 8
    (∃ k, out k) →
    ((∀ k, inMask x.p.mask k = true → out k) → (G'.split x.e).lpc = fb ∧ (G'.split x.e).mask = x.p.mask)
    ∧ ((∃ k, inMask x.p.mask k = true ∧ ¬ out k) →
        (G'.split x.e).lpc = x.p.lpc + 1 ∧ (∀ k, inMask (G'.split x.e).mask k = true ↔ inMask x.p.mask k = true ∧ ¬ out k)
        ∧ (∀ n, n < 8 → (x.G.split n).st = .free → (∀ j, j < n → (x.G.split j).st ≠ .free) →
            (G'.split n).st = .ready ∧ (G'.split n).lpc = fb ∧ ∀ k, inMask (G'.split n).mask k = true ↔ out k)
        ∧ ((∀ n, n < 8 → (x.G.split n).st ≠ .free) → ∃ q, G'.L.ovf.getLast? = some q ∧ G'.L.ovf.length = x.G.L.ovf.length + 1
            ∧ q.st = .ready ∧ q.lpc = fb ∧ ∀ k, inMask q.mask k = true ↔ out k))

/-- R171, R173: an index has room for one more row: capacity, a free row slot in a slab that is present, and nodes for every split. -/
def Room (t : Table) : Prop :=
  t.liveCount < t.desc.rows ∧ t.takenSlots.length < t.desc.nslabs * t.desc.perSlab
  ∧ (t.desc.kind = kindHash ∨ t.inner.length + 2 ≤ t.pool)

/-- R164, R168, R169: what every index that has been created keeps: a row width of a slab at most, slab numbers of 32 bits, and a leaf
where it is no HASH index. -/
def IndexSound (t : Table) : Prop :=
  0 < t.desc.width ∧ t.desc.width ≤ 65536 ∧ t.desc.slab0 + t.desc.nslabs ≤ 2 ^ 32 ∧ (t.desc.kind = kindHash ∨ t.leaves ≠ [])

/-- R194: an entry lies after the last one that a cursor has returned, and within its bounds. -/
def InReach (t : Table) (c : Cursor) (e : Key × W64) : Prop :=
  e.1.toNat ≤ c.hi.toNat ∧
  match c.last with
  | none => c.lo.toNat ≤ e.1.toNat
  | some l => l.1.toNat < e.1.toNat ∨ (t.desc.unique = false ∧ l.1 = e.1 ∧ l.2.toNat < e.2.toNat)

/-- R194: the entry that a cursor returns next: the first in index order that is in reach. -/
def IsNext (t : Table) (c : Cursor) (e : Key × W64) : Prop :=
  ∃ pre post, t.entries = pre ++ e :: post ∧ InReach t c e ∧ ∀ d ∈ pre, ¬ InReach t c d

/-- R77, R78: what an f32 operand adds to a cell: units of 2^−160, and a status bit. -/
def cellUnits (v : Nat) : Int × Nat :=
  match readF (fmtOf .f32) v with
  | .nan _ => (0, 4)
  | .inf neg => (0, if neg then 2 else 1)
  | .fin y => ((if y.neg then -1 else 1) * (y.m : Int) * 2 ^ (y.e + 160).toNat, 0)

/-- R77, R78: a cell of 40 bytes holds the sum, modulo 2^312, and the union of the status bits, of an old cell and an amount. -/
def CellSum (new old : Nat) (units : Int) (status : Nat) : Prop :=
  ((new % 2 ^ 312 : Nat) : Int) = (((old % 2 ^ 312 : Nat) : Int) + units) % 2 ^ 312
  ∧ new / 2 ^ 312 % 256 = (old / 2 ^ 312 % 256) ||| status

/-- R78: an f32 pattern reads a cell. -/
def ReadsCell (cell : Nat) (v : W64) : Prop :=
  let bit := fun k => cell / 2 ^ (312 + k) % 2 = 1
  let units : Int := (BitVec.ofNat 312 cell).toInt
  (bit 2 ∨ (bit 0 ∧ bit 1) → v = 0x7FC00000)
  ∧ (bit 0 ∧ ¬ bit 1 ∧ ¬ bit 2 → v = 0x7F800000) ∧ (bit 1 ∧ ¬ bit 0 ∧ ¬ bit 2 → v = 0xFF800000)
  ∧ (¬ bit 0 ∧ ¬ bit 1 ∧ ¬ bit 2 → units = 0 → v = 0)
  ∧ (¬ bit 0 ∧ ¬ bit 1 ∧ ¬ bit 2 → (units.natAbs : Int) ≤ (2 ^ 24 - 1) * 2 ^ 264 →
      ∃ y, v.toNat < 2 ^ 32 ∧ readF (fmtOf .f32) v.toNat = .fin y ∧ ∀ u z, readF (fmtOf .f32) u = .fin z →
        let exact : Rat := (units : Rat) * (2 : Rat) ^ (-160 : Int)
        (ratOf y - exact) * (ratOf y - exact) ≤ (ratOf z - exact) * (ratOf z - exact))

/-- R198, R199: what the reductions of a kind make of an old value and an operand; cells are their 40 bytes. -/
def combine (kind : Nat) (t : Ty) (old v : Nat) : Nat :=
  let g := fmtOf t
  match kind with
  | 0 => (sumF g modePlain (readF g old) (readF g v)).1
  | 1 => (old + v) % 2 ^ tyBits t
  | 2 => if tyFloat t then (minmaxF g modePlain false false (readF g old) (readF g v)).1 else if intOf t old ≤ intOf t v then old else v
  | 3 => if tyFloat t then (minmaxF g modePlain true false (readF g old) (readF g v)).1 else if intOf t old ≤ intOf t v then v else old
  | _ => (old % 2 ^ 312 + v % 2 ^ 312) % 2 ^ 312 + ((old / 2 ^ 312 % 256) ||| (v / 2 ^ 312 % 256)) * 2 ^ 312

/-- R77, R198: a lane's operand of a reduction; for cells, a cell that holds it alone. -/
def operand (x : Word) (i : Nat) : Nat :=
  let v := subElem (tyBits x.o.ty) (x.b x.o.ty i) 0
  if x.o.var = 4 then ((cellUnits v).1 % 2 ^ 312).toNat + (cellUnits v).2 * 2 ^ 312 else v

/-- R174, R198: exact cells for a `.xadd`: the table has an exact range, and every active element inside its row lies within one. -/
def InExact (x : Word) (b : Bound) : Prop :=
  (∃ r ∈ b.t.desc.fmtRanges, rangeFmt r = 2) ∧ ∀ i, inMask x.act i = true →
    let off := tabOff x.o + (x.c .n64 i).toNat
    off + 40 ≤ b.t.desc.width → ∃ r ∈ b.t.desc.fmtRanges, rangeFmt r = 2 ∧ rangeStart r ≤ off ∧ off + 40 ≤ rangeStart r + rangeLen r

/-- R199: two lanes of a SCAT name one address. -/
def SameAddr (x : Word) (b : Bound) (i k : Nat) : Prop :=
  tabKey x b.t.desc.k128 i = tabKey x b.t.desc.k128 k ∧ x.c .n64 i = x.c .n64 k

/-- R199: the reduction that lane l sends for its address: whose it is, where it goes, and the operands of its lanes combined in lane
order. -/
structure SentBy (x : Word) (b : Bound) (l : Nat) (r : Reduction) : Prop where
  from_ : r.wg = x.E.w ∧ r.group = x.E.g ∧ r.blockSeq = x.G.L.blockSeq ∧ r.issuer = x.p.mask ∧ r.split = x.e
    ∧ r.leader = l ∧ r.lpc = x.p.lpc.setWidth 26
  place : r.slot = tabSlot x.o ∧ r.byRid = tabRid x.o ∧ r.version = b.v ∧ r.key = tabKey x b.t.desc.k128 l
    ∧ r.off = tabOff x.o + (x.c .n64 l).toNat ∧ r.kind = x.o.var ∧ r.ty = x.o.ty
  lanes : ∀ i, i < 32 → (inMask r.lanes i = true ↔ inMask x.act i = true ∧ SameAddr x b i l)
  value : ∀ i is, lanesOf r.lanes = i :: is →
    r.value = natToBytes (if x.o.var = 4 then 40 else tyBytes x.o.ty)
      (is.foldl (fun v k => combine x.o.var.toNat x.o.ty v (operand x k)) (operand x i))

/-- R253: every active quarter's tile lies below accs. -/
def TilesIn (x : Word) : Prop := ∀ q ∈ x.quarters, tileBase x.o + q < x.E.K.header.accs

/-- R249: no operation is queued or in flight on a tile of an active quarter. -/
def TilesIdle (x : Word) (s : State) : Prop :=
  ∀ q ∈ x.quarters, ∀ p ∈ (s.core x.E.W.coreNo).mq ++ (s.core x.E.W.coreNo).arr,
    ¬ (p.wg = x.E.w ∧ p.group = x.E.g ∧ p.tile = tileBase x.o + q)

/-- R156, R253: n bytes at an address of every lane of a mask lie in the allotment, aligned. -/
def SpanOk (x : Word) (m : LMask) (a : Nat → Int) (n align : Nat) : Prop :=
  ∀ i, inMask m i = true → 0 ≤ a i ∧ a i + n ≤ x.E.W.size ∧ a i % align = 0

/-- R250: the legal pairs of format codes. -/
def Legal (a b : Nat) : Prop :=
  (a, b) ∈ [(0, 0), (1, 1), (1, 6), (2, 2), (3, 3), (3, 4), (4, 3), (4, 4), (5, 5)] ∨ (a = 7 ∨ a = 9) ∧ 7 ≤ b ∧ b ≤ 11

/-- R246: a B-line holds data of a world. -/
def LineOf (C : Core) (world : BitVec 16) (n : Nat) : Prop := ∃ l, C.lines.find? (fun l => l.line == n) = some l ∧ l.world = world

/-- R255: operation k of a core's queue heads it, or fuses with the pass that the array is at: the same first B-line and B format, within
4 clk of the pass's first operation, and fewer than 16 so far; no earlier operation of the queue is on its tile. -/
def MayFuse (p : Pass) (q : Quarter) : Prop :=
  p.line = q.line ∧ p.fb = q.fb ∧ q.clk ≤ p.clk + 4 ∧ p.clk ≤ q.clk + 4 ∧ p.count < 16

def Enters (C : Core) (k : Nat) (q : Quarter) : Prop :=
  C.mq[k]? = some q ∧ (k = 0 ∨ ∃ p, C.pass = some p ∧ MayFuse p q)
  ∧ ∀ j p, j < k → C.mq[j]? = some p → ¬ (p.wg = q.wg ∧ p.group = q.group ∧ p.tile = q.tile)

/-- R252, R254: a queued operation is that of quarter q of word x. -/
structure Queued (x : Word) (q : Nat) (p : Quarter) : Prop where
  owner : p.wg = x.E.w ∧ p.group = x.E.g
  place : p.tile = tileBase x.o + q ∧ p.q = q ∧ p.line = mmaLine x q
  form  : p.fa = mmaA x.o ∧ p.fb = mmaB x.o ∧ p.ow = mmaOw x.o
  rows  : ∀ l, l < 8 → inMask x.act (8 * q + l) = false → p.rows[l]? = some none
  reads : ∀ l, l < 8 → inMask x.act (8 * q + l) = true → ∃ r, p.rows[l]? = some (some r)
    ∧ r.addr = (matAddr x (8 * q + l)).toNat

/-- R259: the number that cell n of a tile stands for. -/
def CellIs (t : Tile) (n : Nat) (v : Rat) : Prop :=
  match t.tag with
  | .clear => v = 0
  | .i32 => v = (t.cells.getD n 0).toInt
  | .f32 => ∃ y, readF (fmtOf .f32) (t.cells.getD n 0).toNat = .fin y ∧ v = ratOf y

/-- R259: the column scale n of lane i: an f32 of the scratchpad, or 1. -/
def ScaleIs (x : Word) (i n : Nat) (v : Rat) : Prop :=
  match x.o.c with
  | .reg k => ∃ y, readF (fmtOf .f32) (memNat x.E.W.scratch (((x.G.lane (x.quarterLead (i / 8))).r k.toNat).toNat + 4 * n) 4) = .fin y
      ∧ v = ratOf y
  | _ => v = 1

/-- R259, R267: column scale n of lane i is what stands in the scratchpad: no write there is on its way, and no active lane stores over
it. -/
def ScaleStays (s : State) (x : Word) (i n : Nat) : Prop :=
  ∀ v, x.o.c = .reg v → Settled s (.scratch x.E.w) ∧
    let b := ((x.G.lane (x.quarterLead (i / 8))).r v.toNat).toNat + 4 * n
    ∀ j, inMask x.act j = true → b + 4 ≤ (matAddr x j).toNat ∨ (matAddr x j).toNat + 128 * tyBytes x.o.ty ≤ b

/-- R69: no value of a format lies nearer to an exact result than the one that a pattern stands for. -/
def Nearest (g : Fmt) (v : Nat) (exact : Rat) : Prop :=
  ∃ y, readF g v = .fin y ∧ ∀ u z, readF g u = .fin z → (ratOf y - exact) * (ratOf y - exact) ≤ (ratOf z - exact) * (ratOf z - exact)

/-- The request m reaches the driver as a request of tenant x: the module runs, the session is open and acts for a tenant that is
admitted, and the header is in order (R326). -/
def Asks (s : State) (m : Msg) (tenant : BitVec 64) : Prop :=
  s.time.boot = .running ∧ (∃ x, s.session? m.session = some x ∧ x.tenant = tenant) ∧ (s.tenant? tenant).isSome = true
  ∧ closesSession m = false ∧ m.status = 0 ∧ m.body.length = m.length.toNat

/-- The request names a context of the tenant that has not ended (R326). -/
def AsksIn (s : State) (m : Msg) (tenant : BitVec 64) (C : Context) : Prop :=
  Asks s m tenant ∧ s.context? m.ctx = some C ∧ C.tenant = tenant ∧ C.ended = none

/-- The request names a table of this module whose owner world the tenant holds (R326). -/
def OwnTable (s : State) (tenant : BitVec 64) (id : BitVec 32) (v : Nat) (t : Table) : Prop :=
  idModule id = s.drv.module ∧ s.versionOf id = some v ∧ s.table? v = some t ∧ holdsWorld s tenant t.desc.owner = true

/-- R326: the tenant holds the world that owns the kernel, or has loaded it for none (log entry 16). -/
def OwnKernel (s : State) (tenant : BitVec 64) (h : BitVec 32) (K : Kernel) : Prop :=
  s.kernel? h = some K ∧ K.unloaded = false ∧ (if K.world = 0 then K.tenant = tenant else holdsWorld s tenant K.world = true)

/-- R325: a request for a world can be met: 0 asks for one that nobody holds, any other for one that the tenant holds. -/
def WorldOpen (s : State) (tenant : BitVec 64) (w : BitVec 16) : Prop :=
  if w = 0 then (heldWorlds s).eraseDups.length < 0xFFFE else holdsWorld s tenant w = true

/-- R20, R331, R340: what the kernel and the levels of a launch must keep. -/
structure LevelsOk (h : Header) (l : Levels) : Prop where
  groups : l.extents.head? = some h.groups
  total : (l.extents.drop 1).foldl (· * ·) 1 ≤ 2 ^ 32
  core : 1 ≤ perCore h
  cluster : ∀ i, 2 ≤ i → i < l.extents.length → l.doms.getD (i - 2) 0 = 2 ∨ l.doms.getD (i - 2) 0 = 3 →
    ((l.extents.take i).drop 1).foldl (· * ·) 1 ≤ 16 * perCore h

/-- R165, R349: a binding of a launch names a table of the kind that its slot's template asks for, which the world reaches, and which is
bound read-only where it is sealed. -/
def BindOk (s : State) (K : Kernel) (world : BitVec 16) (b : Binding) : Prop :=
  ∃ v t, s.versionOf b.id = some v ∧ s.table? v = some t
  ∧ (∀ q, K.temps.find? (fun q => q.slot == b.slot) = some q →
      q.kind = t.desc.kind.toNat ∧ (q.ktype = 1 ↔ t.desc.k128 = true) ∧ (q.width = 0 ∨ q.width = t.desc.width))
  ∧ (world = t.desc.owner ∨ ∃ p ∈ s.mem.windows, p.2.st ≠ .revoked ∧ p.2.owner = t.desc.owner ∧ p.2.grantee = world ∧ p.2.table = b.id)
  ∧ (t.sealed = none ∨ b.ro = true)

/-- R228, R329, R331, R353: a launch's counter lies in an ARRAY table that it can write, with room for the status word and the
accounting record, at scope `.mod` or `.dom`. -/
def LaunchCounterOk (s : State) (binds : List Binding) (world : BitVec 16) (l : W64) : Prop :=
  locKind l = true ∧ l.getLsbD 59 = false ∧ ((locScope l).toNat = 4 ∨ (locScope l).toNat = 5)
  ∧ ∃ b v t, binds.find? (fun b => b.slot == locSlot l) = some b ∧ s.versionOf b.id = some v ∧ s.table? v = some t ∧ b.ro = false
    ∧ t.desc.isArray = true ∧ locKey l < t.desc.rows ∧ locOff l + 80 ≤ t.desc.width
    ∧ Granted s v t world .wr (locKey l * t.desc.width + locOff l) 80 ∧ Granted s v t world .at_ (locKey l * t.desc.width + locOff l) 8

/-- R331: nothing refuses a launch. -/
structure LaunchOk (s : State) (tenant : BitVec 64) (C : Context) (K : Kernel) (r : LaunchRec) : Prop where
  queue : r.queue < 64 ∧ ∀ p t, lookupNat r.queue s.drv.queues = some (p, some t) → t = tenant
  world : r.world = C.world
  levels : LevelsOk K.header r.levels
  deps : ∀ d ∈ r.deps, ∃ P, s.launch? d.producer = some P ∧ holdsWorld s tenant P.world = true
  temps : ∀ q ∈ K.temps, ∃ b ∈ mergedBinds K r.binds, b.slot = q.slot
  binds : ∀ b ∈ mergedBinds K r.binds, BindOk s K r.world b
  psize : K.header.psize ≤ r.plen
  params : r.plen = 0 ∨ ∃ v t, s.versionOf r.ptable = some v ∧ s.table? v = some t ∧ t.desc.isArray = true
    ∧ r.poff + r.plen ≤ t.desc.rows * t.desc.width ∧ Granted s v t r.world .rd r.poff r.plen
  counter : LaunchCounterOk s (mergedBinds K r.binds) r.world r.counter

/-- R163, R164, R170: the module has an index, slab numbers and HBM for a new table. -/
def TableRoom (s : State) (d : Desc) : Prop :=
  let n := d.slabsNeeded
  (s.mem.dir.filter fun p => idModule p.1 == s.drv.module).length < 2 ^ 19 - 1
  ∧ (∃ a, (a = 0 ∨ ∃ t ∈ slabOwners s, a = t.desc.slab0 + t.desc.nslabs) ∧ a + n ≤ 2 ^ 32 ∧ ∀ t ∈ slabOwners s,
      n = 0 ∨ t.desc.nslabs = 0 ∨ a + n ≤ t.desc.slab0 ∨ t.desc.slab0 + t.desc.nslabs ≤ a)
  ∧ ∀ die, die < 32 →
      ((slabOwners s).map fun t => t.desc.slabsOn die).sum + (if d.homed then n else n / 32 + 1) ≤ slabsPerDie

/-- The request of debug subcode 3 to 8 comes from the session that holds the debug right of its context (R327). -/
def AsksDebug (s : State) (m : Msg) (tenant : BitVec 64) (C : Context) : Prop :=
  AsksIn s m tenant C ∧ C.right = some m.session

/-- R327: a well-formed request and the table that it names. -/
def Forwards (m : Msg) (i : Instr) (id : BitVec 32) : Prop :=
  let first := BitVec.ofNat 32 (le m.body 0 4)
  (i = .tableRetire m ∧ m.body.length = 4 ∧ id = first) ∨ (i = .tableSwap m ∧ m.body.length = 8 ∧ id = first)
  ∨ (i = .rowsRead m ∧ 16 ≤ m.body.length ∧ id = first)
  ∨ (i = .rowsWrite m ∧ 4 ≤ m.body.length ∧ id = first
      ∧ (readRows (countRows (m.body.drop 4).length (m.body.drop 4)) (m.body.drop 4)).isSome = true)
  ∨ (i = .windowSet m ∧ ∃ w, readWindow m.body = some w ∧ id = w.table)

/-- R348, R371: a flit may go out on its virtual lane: the link has not failed and does not retrain, and the peer does not stop the
lane. -/
def mayGo (k : Link) (f : SentFlit) : Bool :=
  !k.retrain && !k.failed && !k.stopped.getLsbD (Config.flitLane f.plain % 8)

/-- R348: flits are sent again in their order; those whose lane is stopped wait. -/
def Resent (k k' : Link) (fs : List SentFlit) : Prop :=
  k'.wire = k.wire ++ (fs.filter (mayGo k')).map (fun f => (f.owner, f.counter, f.bytes)) ∧ k'.again = fs.filter fun f => !mayGo k' f

/-- R327, R337: the group that a DEBUG request names from a place of its body: by launch handle, linear index and group number, or, with
bit 7 of the last byte set, as a child task in the order of their starts (log entry 50). -/
def Named (s : State) (C : Context) (bs : List Byte) (at_ w g : Nat) (G : Group) : Prop :=
  let h := BitVec.ofNat 32 (le bs at_ 4)
  let n := le bs (at_ + 4) 4
  let b := le bs (at_ + 8) 1
  (∃ La, s.launch? h = some La ∧ La.ctx = C.handle) ∧ g = b % 128 ∧ s.group? w g = some G
  ∧ (if 128 ≤ b then (childrenOf s h)[n]? = some w
     else (∃ W, s.wgs[w]? = some W ∧ W.launch = h ∧ W.w = n ∧ W.child = false)
       ∧ ∀ k V, k < w → s.wgs[k]? = some V → ¬ (V.launch = h ∧ V.w = n ∧ V.child = false))

/-- R327, R359: what a state access of kind `what` reads, where the group is stopped, or the split that holds the lane is held. -/
def ReadsState (G : Group) (what lane index : Nat) (v : W64) : Prop :=
  (G.stopped.isSome = true ∨ what = 6 ∨ ((what = 1 ∨ what = 2) ∧
    ∃ p, G.L.splits.find? (fun p => inMask p.mask lane) = some p ∧ p.st = .held))
  ∧ match what with
    | 0 => index < 64 ∧ v = G.rS (BitVec.ofNat 6 index)
    | 1 => lane < 32 ∧ (G.lane lane).regs[index]? = some v
    | 2 => lane < 32 ∧ v = (G.lane lane).preds.setWidth 64
    | 3 => G.L.w[index]? = some v
    | 4 => (G.L.splits.flatMap splitWords)[index]? = some v
    | 5 => G.T.frame[index]? = some v
    | 6 => (index < 8 ∧ v = (((G.split index).why).map fun x => (causeCode x).setWidth 64).getD 0)
        ∨ (index = 8 ∧ v = ((G.stopped).map fun x => (causeCode x).setWidth 64).getD 0)
    | _ => False

/-- R327, R359: what a write of a scalar register (0), a lane register (1), predicates (2), a uniform register (3) or a doubleword of the
trap frame (5) leaves: that value, everything else as it was, but for windows and replay records, which an edit empties. -/
def EditedState (G G' : Group) (what lane index : Nat) (v : W64) : Prop :=
  match what with
  | 0 => G'.S = { G.S with s := if index % 64 = 0 then G.S.s else G.S.s.set (index % 64) v } ∧ G'.L.w = G.L.w
      ∧ ∀ i, (G'.lane i).regs = (G.lane i).regs ∧ (G'.lane i).preds = (G.lane i).preds
  | 1 => G'.S = G.S ∧ (G'.lane lane).regs = (G.lane lane).regs.set index v ∧ (∀ i, (G'.lane i).preds = (G.lane i).preds)
      ∧ ∀ i, i ≠ lane → (G'.lane i).regs = (G.lane i).regs
  | 2 => G'.S = G.S ∧ (∀ i, (G'.lane i).regs = (G.lane i).regs) ∧ (lane < G.lanes.length → (G'.lane lane).preds = v.setWidth 7)
      ∧ ∀ i, i ≠ lane → (G'.lane i).preds = (G.lane i).preds
  | 3 => G'.S = G.S ∧ G'.L.w = G.L.w.set index v ∧ ∀ i, (G'.lane i).regs = (G.lane i).regs ∧ (G'.lane i).preds = (G.lane i).preds
  | 5 => G'.S = G.S ∧ G'.L = G.L ∧ G'.lanes = G.lanes ∧ G'.T = { G.T with frame := G.T.frame.set index v }
  | _ => False

/-- R355: a trace unit writes bytes at wr, modulo the size of its ring, and moves wr past them; every other byte stays. -/
def RingWrote (t t' : Trace) (bs : List Byte) : Prop :=
  let size := 2 ^ t.lg.toNat
  t'.wr.toNat = (t.wr.toNat + bs.length) % size ∧ t'.rd = t.rd ∧ t'.lg = t.lg ∧ t'.world = t.world
  ∧ (∀ i, i < bs.length → memGet t'.buf ((t.wr.toNat + i) % size) = bs.getD i 0)
  ∧ ∀ a, (∀ i, i < bs.length → a ≠ (t.wr.toNat + i) % size) → memGet t'.buf a = memGet t.buf a

/-- R356: the header of a packet of a type, delta clk after the last one. -/
def headerOf (ty delta : Nat) : List Byte :=
  if delta < 31 then [BitVec.ofNat 8 (32 * ty + delta)] else BitVec.ofNat 8 (32 * ty + 31) :: leb128 20 delta

/-- The job n is started, and its slice k was brought by the group of E. -/
def JobReady (s : State) (n k : Nat) (j : Job) (q : Slice) (E : Env) : Prop :=
  s.jobs[n]? = some j ∧ j.slices[k]? = some q ∧ envAt s j.wg q.group = some E ∧ j.state = .started

/-- R232: every group of the job's workgroup that has not ended has brought its slice. -/
def Gathered (s : State) (j : Job) : Prop :=
  ∀ g G, s.group? j.wg g = some G → G.fin = .running → ∃ q ∈ j.slices, q.group = g

/-- R242: two footprints share no byte. -/
def FeetApart (a b : List Foot) : Prop := ∀ x ∈ a, ∀ y ∈ b, x.space ≠ y.space ∨ x.hi ≤ y.lo ∨ y.hi ≤ x.lo

/-- R242: no earlier job of a group of job n that is still to complete writes what n touches, or reads what n writes. -/
def NoneAhead (s : State) (n : Nat) (j : Job) : Prop :=
  ∀ k a, k ≠ n → s.jobs[k]? = some a → a.state = .complete ∨ a.wg ≠ j.wg
    ∨ (∀ p ∈ a.slices, ∀ q ∈ j.slices, p.group = q.group → q.seq ≤ p.seq)
    ∨ (FeetApart (a.feet s).2 (j.feet s).1 ∧ FeetApart (a.feet s).2 (j.feet s).2 ∧ FeetApart (a.feet s).1 (j.feet s).2)

/-- R233, R235, R302: the workgroup that takes receiver r's sectors: the job's own, or for a multicast the resident one of that index,
or its own again, wherever that is. -/
def Takes (s : State) (E : Env) (c : CopyD) (r w : Nat) : Prop :=
  if c.mc then
    let is := fun (V : Wg) => V.launch = E.La.handle ∧ V.w = receiverIndex E.La E.W r ∧ V.child = false
    receiverIndex E.La E.W r ∉ E.La.done ∧ (∃ V, s.wgs[w]? = some V ∧ is V ∧
      (V.place = .active ∨ V.place = .leaving ∨ V.place = .shadow ∨ (w = E.w ∧ V.place ≠ .completed)))
    ∧ ∀ k V, k < w → s.wgs[k]? = some V → ¬ is V
  else w = E.w

/-- R76, R237: code k of a coded range that starts at a row byte. -/
def codeAt (t : Table) (fmt a k : Nat) : Nat :=
  if fmt = 0 then (memGet t.rows (a + 4 + k)).toNat else (memGet t.rows (a + 4 + k / 2)).toNat / 16 ^ (k % 2) % 16

/-- R236, R237: the bytes that a found element delivers: those of its row, or its codes, each code × scale + offset rounded once. -/
def Delivers (t : Table) (c : GatherD) (a : Nat) (data : List Byte) : Prop :=
  let fmt := ((t.desc.codedAt c.off).map (·.1)).getD 0
  let g := fmtOf (if c.mode = 1 then .bf16 else .f32)
  let z := g.bits / 8
  (c.mode = 0 → data = t.bytes a c.n)
  ∧ (c.mode ≠ 0 → ∀ m p q top, m < c.n → readF (fmtOf .f16) (memNat t.rows a 2) = .fin p →
      readF (fmtOf .f16) (memNat t.rows (a + 2) 2) = .fin q → readF g g.maxMag = .fin top →
      let exact := (codeAt t fmt a (c.first + m) : Rat) * ratOf p + ratOf q
      exact ≤ ratOf top → -ratOf top ≤ exact → Nearest g (bytesToNat ((data.drop (m * z)).take z)) exact)

/-- R238: element i of a GATHER has been handled: its status, and its output slice where it has one. -/
def Handled (old new : Mem) (c : GatherD) (i : Nat) (st : Byte) (data : List Byte) : Prop :=
  ∀ a, memGet new a = if a = c.stat + i then st
    else if c.dst + i * c.out ≤ a ∧ a < c.dst + i * c.out + data.length then data.getD (a - (c.dst + i * c.out)) 0
    else memGet old a

/-- R246: no quarter operation of another world in the queue reads a B-line. -/
def LineFree (s : State) (core n : Nat) (world : BitVec 16) : Prop :=
  ∀ p ∈ (s.core core).mq, p.line ≤ n → n < p.line + bLines p.fb → ∀ F, envAt s p.wg p.group = some F → F.world = world

/-- The task at the head of a core's queue finds its launch, its kernel, and room in the active bank, and no start of a higher launch
priority heads the slot table (R337). -/
def TaskRoom (s : State) (core : Nat) (La : Launch) (K : Kernel) : Prop :=
  let held := bankHeld s core .active
  held.length < 16 ∧ (held.flatMap (·.slots)).length < 48
  ∧ held.foldl (fun n b => n + b.lregs) K.header.lregs ≤ 4096 ∧ held.foldl (fun n b => n + b.accs) K.header.accs ≤ 128
  ∧ ∀ d l, (s.core core).slotStop = false → (s.core core).slots.head? = some d → (bindRec d).op = 1 →
      s.launch? (bindRec d).launch = some l → l.prio ≤ La.prio

/-- R335: the record that a core's dispatch reads next; none while a swap that a record asked for is still to come, or once a record has
been refused. -/
def Head (s : State) (c : Nat) (r : BindRec) : Prop :=
  (s.core c).swapReq = false ∧ (s.core c).slotStop = false ∧ ∃ d, (s.core c).slots.head? = some d ∧ r = bindRec d

/-- R335: the record at the head of a core's slot table is refused: nothing is done, dispatch stops there, and the scheduling core is told
which record it was. -/
structure RefusedRec (s t : State) (c : Nat) : Prop where
  wgs : t.wgs = s.wgs
  mem : t.mem = s.mem
  drv : t.drv = s.drv
  slots : (t.core c).slots = (s.core c).slots
  stop : (t.core c).slotStop = true
  told : (t.core c).refused = (s.core c).slots.head?

/-- R14, R20, R335: an allocation fits beside those held in a bank: its workgroup slot, group slots and scratchpad bytes are free, and
registers and tiles suffice. -/
def FitsIn (held : List Alloc) (a : Alloc) : Prop :=
  (∀ b ∈ held, b.wslot ≠ a.wslot ∧ (∀ x ∈ a.slots, x ∉ b.slots) ∧ (b.lo = b.hi ∨ a.lo = a.hi ∨ a.hi ≤ b.lo ∨ b.hi ≤ a.lo))
  ∧ held.foldl (fun n b => n + b.lregs) a.lregs ≤ 4096 ∧ held.foldl (fun n b => n + b.accs) a.accs ≤ 128 ∧ a.hi ≤ 1048576

/-- R331, R334, R335: a start record of a launch is in order: its fields, its workgroup's indices and place, and room for it. -/
structure StartOk (s : State) (c : Nat) (La : Launch) (K : Kernel) (r : BindRec) : Prop where
  op : r.op = 1 ∧ r.resv = false
  groups : (slotBits r.gslots).length = K.header.groups
  declared : ∀ k, k < 7 → if k + 1 < La.extents.length then (r.idx.getD k 0).toNat < (La.extents.getD (k + 1) 0) else r.idx.getD k 0 = 0
  linear : linearIndex La r.idx = r.w
  fresh : r.w ∉ La.begun
  place : ∀ l, 2 ≤ l → l < La.extents.length → La.doms.getD (l - 2) 0 = 2 ∨ La.doms.getD (l - 2) 0 = 3 → ∀ W ∈ s.wgs,
    W.launch = La.handle → W.child = false → (∀ k, k < 7 → l ≤ k + 1 → W.idx.getD k 0 = r.idx.getD k 0) → W.die = c / 16
  room : let n := (slotBits r.gslots).length
    FitsIn (bankHeld s c .active) ⟨r.wslot.toNat, slotBits r.gslots, n * K.header.lregs, n * K.header.accs, r.sbase,
      r.sbase + K.header.allot⟩

/-- R333, R350: a dependence of consumer workgroup w is met; of a producer that is not of this module, where the consumer's context came
from another one, only the tiles that were ready then are known (log entry 33). -/
def DepMet (s : State) (w : Nat) (d : Dependence) : Prop :=
  (s.launch? d.producer = none ∧ d.tile = true ∧ ∃ k ∈ d.known, min (w / 2 ^ d.cshift + d.base) k.1 ∈ k.2)
  ∨ ∃ P, s.launch? d.producer = some P ∧ (P.status ≠ none ∨ (d.tile = true ∧ ∀ k, k < 2 ^ P.tshift →
    let at_ := min (w / 2 ^ d.cshift + d.base) ((P.total - 1) / 2 ^ P.tshift) * 2 ^ P.tshift + k
    at_ < P.total → at_ ∈ P.done))

/-- R328, R332, R333: a workgroup may start: the launches before in its queue have begun, it lies in the reorder window, and its
dependences are met. -/
structure StartDue (s : State) (La : Launch) (w : Nat) : Prop where
  turn : ∀ l ∈ s.drv.launches.takeWhile (fun l => l.handle != La.handle), l.queue = La.queue → l.started ≠ none ∨ l.status ≠ none
  window : w < 256 ∨ w - 256 ∈ La.done
  deps : ∀ d ∈ La.deps, DepMet s w d

/-- R245, R302: no word of workgroup w is in flight that its image must hold; its jobs run on into it (log entry 70). -/
def WholeImage (s : State) (w : Nat) (W : Wg) : Prop :=
  (∀ p ∈ s.cores, ∀ q ∈ p.2.mq ++ p.2.arr, q.wg ≠ w) ∧ ∀ G ∈ W.groups, G.inFlight = false

/-- R304, R335: a resume or fill record names its workgroup rightly, and the workgroup fits into the bank. -/
def ResumeFits (s : State) (c : Nat) (r : BindRec) (W : Wg) (bank : Place) : Prop :=
  r.resv = false ∧ r.launch = W.launch ∧ (W.child = true ∨ r.w = W.w) ∧ W.die = c / 16
  ∧ (slotBits r.gslots).length = W.groups.length
  ∧ FitsIn (bankHeld s c bank) (allocOf s r.image { W with wslot := r.wslot, gslots := r.gslots, sbase := r.sbase })

/-- R311: what a group meets at its restore ends no context: it has a handler to go to, or no trap is due. -/
def Restorable (s : State) (G : Group) : Prop :=
  (G.T.handler = false ∧ G.T.trapbase ≠ 0)
  ∨ (G.L.running = false ∧ (G.T.handler = true ∨ (G.T.pending = none ∧ (G.T.timer = 0 ∨ s.time.clock.toNat < G.T.timer.toNat))))

/-- R338: nothing of a workgroup is left to be done. -/
def AllOver (s : State) (w : Nat) (W : Wg) : Prop :=
  W.place ≠ .completed ∧ (∀ G ∈ W.groups, G.fin ≠ .running) ∧ (∀ j ∈ s.jobs, j.wg = w → j.state = .complete)
  ∧ (∀ r ∈ s.reds, r.wg ≠ w) ∧ ∀ p ∈ s.cores, ∀ q ∈ p.2.mq ++ p.2.arr, q.wg ≠ w

end Sys2Proof.Claims

open Sys2Proof Sys2Proof.Machine Sys2Proof.Claims

/-! ### Encodings and steps -/

/-- R44, R46, R54, R57, R91, R94, R133, R137, R158, R187, R207, R252, R271, R294, R296, R336, R338: words that the spec writes
out decode to what they stand for; a word of zeros and a word of ones are refused first, in both streams, whatever the kernel's
registers. -/
def Obligations.WordsDecode : Prop :=
  (decodeTableWord 32 0x44850002 = some (.b .nez 5 2) ∧ decodeTableWord 32 0x0830C020 = some (.addi 3 3 0x20)
       ∧ decodeTableWord 32 0x3016789A = some (.movi 1 0x6789A) ∧ decodeTableWord 32 0x34112345 = some (.movh 1 0x12345)
       ∧ decodeTableWord 32 0x9C424000 = some (.spawn 4 9) ∧ decodeTableWord 32 0xA0000000 = some .exit
       ∧ decodeTableWord 32 0x98000003 = some (.bar 3) ∧ decodeTableWord 32 0xF8010000 = some .eret
       ∧ decodeTableWord 32 0xF8020000 = some .halt ∧ decodeTableWord 32 0xF8030000 = some .brk
       ∧ decodeTableWord 32 0xF8040000 = some .yield
       ∧ decodeL 256 0x22A001380382800000000000 = .ok (.fmul (plain .f32 1 (.reg 1) (.const 5)))
       ∧ decodeL 256 0x017007380D0000000000012C = .ok (.lAdd { plain .n64 7 (.reg 6) .imm with imm := 300 })
       ∧ decodeL 256 0x5CF000400000000000000000 = .ok (.exitl { plain .none 0 (.reg 0) (.reg 0) with pn := true, pg := 0 })
       ∧ decodeL 256 0x20A000BA0001800000000000 = .ok (.fadd { plain .f32 0 (.latch 0) (.reg 3) with nw := true })
       ∧ decodeL 256 0x1972003A4088000000000000 = .ok (.cmp { plain .n64 0 .lane .uqPop with var := 2 })
       ∧ decodeL 256 0x58F000080000000000000004 = .ok (.bra { plain .none 0 (.reg 0) (.reg 0) with pg := 1, imm := 4 })
       ∧ decodeL 256 0x723005380403000700000008 = .ok (.ats { plain .i64 5 (.reg 2) (.reg 6) with aux := 7, imm := 8 })
       ∧ decodeL 256 0x81A00A181200000000420010 = .ok (.kld { plain .f32 10 (.reg 9) (.reg 0) with pg := 3, imm := 0x420010 })
       ∧ decodeL 256 0xA0F000380000000000000009 = .ok (.abeg { plain .none 0 (.reg 0) (.reg 0) with imm := 9 })
       ∧ decodeL 256 0xB07B00385014854100000000 =
           .ok (.mma { plain .n64 0 (.reg 40) (.reg 41) with var := 11, c := .reg 42, aux := 1 })
       ∧ decodeL 256 0xC2F000080000000000000009 = .ok (.trapl { plain .none 0 (.reg 0) (.reg 0) with pg := 1, imm := 9 }))
  ∧ (decodeS 0 = .error .zeroWord ∧ decodeS (BitVec.allOnes 32) = .error .onesWord
       ∧ ∀ n, decodeL n 0 = .error .zeroWord ∧ decodeL n (BitVec.allOnes 96) = .error .onesWord)

/-- R42 to R46, R55: every well-formed S instruction is read back from its word, and an S word that decodes is the only word of
its instruction: no bit of it is ignored. -/
def Obligations.ScalarRoundTrip : Prop :=
  (∀ i w, wellFormed i = true → encodeS i = some w → decodeS w = .ok i)
  ∧ (∀ w i, decodeS w = .ok i → encodeS i = some w)

/-- R47 to R57: every well-formed L instruction is read back from its word. -/
def Obligations.LaneRoundTrip : Prop :=
  ∀ i w, wellFormed i = true → encodeL i = some w → decodeL 256 w = .ok i

/-- R56, R86, R130, R289: the turn of a group's S-stream or of a split executes the instruction that the word at its PC decodes to;
what follows a word (R303, R359, R360) is `afterS` and `afterL`; one that meets the tag of another world (R341) and one that acts on a
table of another module (R371) are stated beside the tenants and the links. A fetch outside the code section traps with FETCH_FAULT and
the address, and a word that does not decode with its cause and the word. A step passes time and takes one turn: the one that is fixed,
else the one that follows at once, else one that it draws among all that may come next; and of a turn that stops no workgroup the module
only counts (R361). Which agent moves is drawn freely (log entry 3). -/
def Obligations.StepRunsDecodedWord : Prop :=
  (∀ s w g E x i, envOf (s.turnTo w g 0) = some E → beforeWord s E none = none →
       E.G.S.stall.holds = false → breakAt E.C false E.G.S.pc = none →
       E.K.scode[E.G.S.pc.toNat]? = some x → decodeS x = .ok i →
       E.tagMiss (scalarUses E i) = none → farS (s.turnTo w g 0) E i = [] →
       takeTurn s (.sWord w g) = onNext (exec i (s.turnTo w g 0)) fun s' => afterS E (firstTrap (s.turnTo w g 0) E s'))
  ∧ (∀ s w g e E x i, envOf (s.turnTo w g e) = some E → beforeWord s E (some e) = none →
       atBoundary E.G e = true → breakAt E.C true (E.G.split e).lpc = none →
       E.K.lcode[(E.G.split e).lpc.toNat]? = some x → decodeL E.K.header.lregs x = .ok i →
       (∀ p, laneWord s w g e = some p → E.tagMiss (laneUses p.1 p.2) = none ∧ farL (s.turnTo w g e) p.1 p.2 = []) →
       takeTurn s (.lWord w g e) = onNext (exec i (s.turnTo w g e)) fun s' =>
         afterL (s.turnTo w g e) E e (laneWord s w g e) (firstTrap (s.turnTo w g e) E s'))
  ∧ (∀ s E, (E.K.scode[E.G.S.pc.toNat]? = none →
         issueS s E = .next (takeTrap s E.w E.g { cause := .fetchFault, kind := .word, d0 := E.G.S.pc }))
       ∧ (∀ x c, E.K.scode[E.G.S.pc.toNat]? = some x → decodeS x = .error c →
         issueS s E = .next (takeTrap s E.w E.g { cause := c, kind := .word, d0 := x.setWidth 64 }))
       ∧ ∀ e, let p := E.G.split e
         let info : Cause → W64 → W64 → TrapInfo := fun c d0 d1 =>
           { cause := c, kind := .word, lStream := true, lanes := p.mask, split := some e, fpc := p.lpc, d0 := d0, d1 := d1 }
         (E.K.lcode[p.lpc.toNat]? = none → issueLane s E e = .next (takeTrap s E.w E.g (info .fetchFault p.lpc 0)))
         ∧ ∀ x c, E.K.lcode[p.lpc.toNat]? = some x → decodeL E.K.header.lregs x = .error c →
             issueLane s E e = .next (takeTrap s E.w E.g
               (info c (x.extractLsb' 0 64) ((x.extractLsb' 64 32).setWidth 64))))
  ∧ (∀ s, s.time.boot = .running → (∀ p ∈ s.dies, p.2.tr.pend = []) →
       let s1 := tick s
       let drawn : State := { s1 with ctl := { s1.ctl with fresh := s1.ctl.fresh + 9 } }
       (∀ t rest, s.ctl.agenda = t :: rest →
           step s = onNext (runTurn { s1 with ctl := { s1.ctl with agenda := rest } } t) (noteTrace s1))
       ∧ (∀ t, s.ctl.agenda = [] → urgent s1 = some t → step s = onNext (runTurn s1 t) (noteTrace s1))
       ∧ (s.ctl.agenda = [] → urgent s1 = none →
           (∃ t ∈ turns s1, step s = onNext (runTurn drawn t) (noteTrace s1))
           ∨ step s = onNext (takeInput drawn) (noteTrace s1))
       ∧ (s.ctl.agenda = [] → urgent s1 = none → s.ctl.inbox = [] → turns s1 ≠ [] →
           ∃ t ∈ turns s1, step s = onNext (runTurn drawn t) (noteTrace s1)))
  ∧ (∀ s, s.time.boot ≠ .off → step s = traceOrder (tick s) act)
  ∧ ∀ s t s', takeTurn s t = .next s' →
       (∀ (w : Nat) (W W' : Wg), s.wgs[w]? = some W → s'.wgs[w]? = some W' → W.place = .active →
         W'.place ≠ .leaving ∧ W'.place ≠ .shadow) →
       runTurn s t = .next (measure s t s')

/-- R369: what reset leaves: the module has not booted; no table, window, kernel, launch, context, tenant or session exists,
nothing runs, and memory is in canonical form. The registers whose power-on values the spec does not give are the model's choice
(log entry 16). -/
def Obligations.ResetState : Prop :=
  (State.reset.time.boot = .powerOn ∧ State.reset.mem.tables = [] ∧ State.reset.mem.windows = []
       ∧ State.reset.drv.kernels = [] ∧ State.reset.drv.launches = [] ∧ State.reset.drv.contexts = []
       ∧ State.reset.drv.tenants = [] ∧ State.reset.drv.sessions = [] ∧ State.reset.wgs = [] ∧ State.reset.jobs = []
       ∧ step State.reset ≠ .fault .poweredDown)
  ∧ (State.reset.memOk)

/-- R6, R153, R171: every step keeps every memory in canonical form. -/
def Obligations.StepKeepsMemory : Prop := ∀ s t, s.memOk → step s = .next t → t.memOk

/-- R6: a value written to memory stands little-endian: the byte at the lowest address holds bits 7:0, and reading gives the
value back; every other address reads as before. -/
def Obligations.LittleEndian : Prop :=
  ∀ (m : Mem) (a n : Nat) (v : W64), memWf m = true → n ≤ 8 →
    let m' := memWrite m a (wordToBytes n v)
    (∀ k, k < n → memGet m' (a + k) = v.extractLsb' (8 * k) 8)
      ∧ memNat m' a n = v.toNat % 2 ^ (8 * n)
      ∧ ∀ x, x < a ∨ a + n ≤ x → memGet m' x = memGet m x


/-! ### The scalar stream -/

/-- R88, R90: each register form writes its result to sd; the immediate forms compute sd ← sa op imm, with imm14 sign-extended,
shifts by imm14[5:0], and SLTNI unsigned; and the word retires. -/
def Obligations.ScalarArithmetic : Prop :=
  (∀ i s E d a b f, SReady s E → aluR i = some (d, a, b, f) →
       exec i s = .next (afterWrite s E d (f (E.G.rS a) (E.G.rS b))))
  ∧ (∀ i s E d a f, SReady s E → aluI i = some (d, a, f) → exec i s = .next (afterWrite s E d (f (E.G.rS a))))

/-- R91: MOVI sets sd to the sign-extended immediate; MOVH sets bits 39:20 and leaves the others. -/
def Obligations.MoveImmediate : Prop :=
  ∀ (s : State) (E : Env) (d : BitVec 6) (i : BitVec 20), SReady s E →
    exec (.movi d i) s = .next (afterWrite s E d (i.signExtend 64))
    ∧ ∃ v : W64, exec (.movh d i) s = .next (afterWrite s E d v)
      ∧ v.extractLsb' 20 20 = i ∧ v.extractLsb' 40 24 = (E.G.rS d).extractLsb' 40 24
      ∧ v.extractLsb' 0 20 = (E.G.rS d).extractLsb' 0 20

/-- R89: division truncates toward zero, the remainder is what it leaves, and a zero divisor gives all ones or the dividend, or
traps with INT_DIVZERO under .t. -/
def Obligations.Division : Prop :=
  ∀ i s E d a b t f, SReady s E → divWord i = some (d, a, b, t, f) →
    (t = true → E.G.rS b = 0 → exec i s = .next (takeTrap s E.w E.g { cause := .intDivzero, kind := .word }))
    ∧ (¬ (t = true ∧ E.G.rS b = 0) → exec i s = .next (afterWrite s E d (f (E.G.rS a) (E.G.rS b))))

/-- R85, R86, R88 to R93: the frame of every S word that writes one register and traps for nothing of its own: nothing but the group
changes; in the group only sd, S-PC, the loop stack's count, the last word and the stall; s0 stays zero, and the lanes, tiles, trap
state, residence, queues and call depth stay. -/
def Obligations.ScalarFrame : Prop :=
  ∀ i s E d, SReady s E → scalarDest i = some d → ScalarPasses E i →
    ∃ t G', exec i s = .next t ∧ OnlyGroup s t E.w E.g ∧ t.group? E.w E.g = some G' ∧ (∃ v, t = afterWrite s E d v)
      ∧ (∀ n, n ≠ d → G'.rS n = E.G.rS n) ∧ G'.rS 0 = 0
      ∧ G' = { E.G with S := G'.S }
      ∧ G'.S = { E.G.S with s := G'.S.s, pc := G'.S.pc, loops := G'.S.loops, slast := E.G.S.pc.setWidth 26, stall := .none }

/-- R92, R93: LDK and LDKX read a doubleword of the constant section, LDP one of the launch's parameter block, and an index past
the end traps with CONST_RANGE or PARAM_RANGE; RDS reads a special: the group's number, its level indices, where it runs, CLOCK,
the ns of residence, the live lanes and the world. While a block runs, %alive leaves out the lanes that it has retired (R93 lets them
count or not): the model's choice, log entry 65. -/
def Obligations.ScalarSources : Prop :=
  (∀ (s : State) (E : Env) (d a : BitVec 6) (n : BitVec 20) (i : BitVec 14) (p : BitVec 9), SReady s E →
       (8 * n.toNat + 8 ≤ E.K.header.csize → exec (.ldk d n) s = .next (afterWrite s E d (dwAt E.K.consts n.toNat)))
       ∧ (E.K.header.csize < 8 * n.toNat + 8 → exec (.ldk d n) s =
           .next (takeTrap s E.w E.g { cause := .constRange, kind := .word, d0 := n.setWidth 64 }))
       ∧ (let k := E.G.rS a + i.signExtend 64
          (8 * k.toNat + 8 ≤ E.K.header.csize → exec (.ldkx d a i) s = .next (afterWrite s E d (dwAt E.K.consts k.toNat)))
          ∧ (E.K.header.csize < 8 * k.toNat + 8 → exec (.ldkx d a i) s =
             .next (takeTrap s E.w E.g { cause := .constRange, kind := .word, d0 := k })))
       ∧ (8 * p.toNat + 8 ≤ E.La.params.length → exec (.ldp d p) s = .next (afterWrite s E d (dwAt E.La.params p.toNat)))
       ∧ (E.La.params.length < 8 * p.toNat + 8 → exec (.ldp d p) s =
           .next (takeTrap s E.w E.g { cause := .paramRange, kind := .word, d0 := p.setWidth 64 })))
  ∧ (∀ s E d n, SReady s E → ∃ v, exec (.rds d n) s = .next (afterWrite s E d v)
       ∧ (n = .gid → v = BitVec.ofNat 64 E.g) ∧ (n = .ngroups → v = BitVec.ofNat 64 E.W.groups.length)
       ∧ (∀ k, k < 7 → specialCode n = (if k = 0 then 1 else BitVec.ofNat 4 (k + 2)) → v = (E.W.idx.getD k 0).setWidth 64)
       ∧ (n = .core → v = BitVec.ofNat 64 E.W.core) ∧ (n = .die → v = BitVec.ofNat 64 E.W.die)
       ∧ (n = .module → v = s.drv.module.setWidth 64) ∧ (n = .clock → v = s.time.clock) ∧ (n = .gtime → v = E.G.gtime)
       ∧ (n = .alive → v = E.G.L.alive.setWidth 64) ∧ (n = .world → v = E.La.world.setWidth 64))

/-- R46, R94, R97: branches and calls: B is taken where its condition holds on sa, and only retires where it does not; the target is
exact; a call writes the address of the next word and raises the call depth; a taken B, J or JR that is no return pops the loop entries
of its depth whose bodies the target leaves, and a call pops none; a return through s62 lowers the depth and traps with LOOP_OPEN_RET
where a loop of its depth is open. -/
def Obligations.Branches : Prop :=
  ∀ (s : State) (E : Env) (c : Cond) (a d : BitVec 6) (o16 : BitVec 16) (o : BitVec 26), SReady s E →
    let pc := E.G.S.pc
    let S := E.G.S
    (taken c (E.G.rS a) → ∃ t ls, exec (.b c a o16) s = .next t ∧ Unwound S.depth (pc + o16.signExtend 64) S.loops ls
        ∧ Went s t E (pc + o16.signExtend 64) S.depth S.s ls)
    ∧ (¬ taken c (E.G.rS a) → exec (.b c a o16) s = .next (s.modGroup E.w E.g Group.retire))
    ∧ (∃ t ls, exec (.j o) s = .next t ∧ Unwound S.depth (pc + o.signExtend 64) S.loops ls
        ∧ Went s t E (pc + o.signExtend 64) S.depth S.s ls)
    ∧ (∃ t, exec (.call o) s = .next t ∧ Went s t E (pc + o.signExtend 64) (S.depth + 1) (S.s.set 62 (pc + 1)) S.loops)
    ∧ (∃ t, exec (.jalr d a) s = .next t
        ∧ Went s t E (E.G.rS a) (S.depth + 1) (if d = 0 then S.s else S.s.set d.toNat (pc + 1)) S.loops)
    ∧ (a ≠ 62 → ∃ t ls, exec (.jr a) s = .next t ∧ Unwound S.depth (E.G.rS a) S.loops ls
        ∧ Went s t E (E.G.rS a) S.depth S.s ls)
    ∧ ((∀ e ∈ S.loops.head?, e.depth ≠ S.depth) → ∃ t, exec (.jr 62) s = .next t
        ∧ Went s t E (E.G.rS 62) (S.depth - 1) S.s S.loops)
    ∧ (∀ e, S.loops.head? = some e → e.depth = S.depth →
        exec (.jr 62) s = .next (takeTrap s E.w E.g { cause := .loopOpenRet, kind := .word }))

/-- R95: LOOP and LOOPI: no run skips the body; otherwise the entry is pushed, with LOOP_OVERFLOW at four entries and LOOP_NEST
where the new end lies past that of an entry of the same depth. -/
def Obligations.Loops : Prop :=
  ∀ (i : Instr) (s : State) (E : Env) (a : BitVec 6) (n : BitVec 12) (o : BitVec 14) (c : W64), SReady s E →
    (i = .loop a o ∧ c = E.G.rS a ∨ i = .loopi n o ∧ c = n.setWidth 64) →
    let stop := E.G.S.pc + o.setWidth 64
    let nests := ∃ e ∈ E.G.S.loops, e.depth = E.G.S.depth ∧ e.stop.toNat < stop.toNat
    (c = 0 → exec i s = .next (s.modGroup E.w E.g fun G => G.jump (stop + 1) false))
    ∧ (c ≠ 0 → 4 ≤ E.G.S.loops.length →
        exec i s = .next (takeTrap s E.w E.g { cause := .loopOverflow, kind := .word }))
    ∧ (c ≠ 0 → E.G.S.loops.length < 4 → nests →
        exec i s = .next (takeTrap s E.w E.g { cause := .loopNest, kind := .word }))
    ∧ (c ≠ 0 → E.G.S.loops.length < 4 → ¬ nests → exec i s = .next (s.modGroup E.w E.g fun G => Group.retire { G with S := { G.S with
        loops := { start := G.S.pc + 1, stop := stop, count := c - 1, depth := G.S.depth } :: G.S.loops } }))

/-- R98: LBRK pops the innermost entry and goes to its end + 1, or traps with LOOP_UNDERFLOW where the stack is empty or the
innermost entry is of another call depth. -/
def Obligations.LoopBreak : Prop :=
  ∀ (s : State) (E : Env), SReady s E →
    (∀ e es, E.G.S.loops = e :: es → e.depth = E.G.S.depth → ∃ t G', exec .lbrk s = .next t ∧ OnlyGroup s t E.w E.g
        ∧ t.group? E.w E.g = some G' ∧ G'.S.loops = es ∧ G'.S.pc = e.stop + 1 ∧ G'.S.s = E.G.S.s)
    ∧ ((∀ e ∈ E.G.S.loops.head?, e.depth ≠ E.G.S.depth) →
        exec .lbrk s = .next (takeTrap s E.w E.g { cause := .loopUnderflow, kind := .word }))

/-- R96: the end check of a retiring word at S-PC: while the innermost entry is of the current depth and ends here, it counts
down and goes back to its start, or is popped; a word that ends no loop goes on at the next. -/
def Obligations.EndCheck : Prop :=
  ∀ (G : Group), let P := G.S.loops.head?
    ((∀ e ∈ P, ¬ (e.depth = G.S.depth ∧ e.stop = G.S.pc)) → G.retire.S.pc = G.S.pc + 1 ∧ G.retire.S.loops = G.S.loops)
    ∧ (∀ e es, G.S.loops = e :: es → e.depth = G.S.depth → e.stop = G.S.pc → e.count ≠ 0 →
        G.retire.S.pc = e.start ∧ G.retire.S.loops = { e with count := e.count - 1 } :: es)
    ∧ (∀ e es, G.S.loops = e :: es → e.depth = G.S.depth → e.stop = G.S.pc → e.count = 0 →
        G.retire.S.pc = (Group.retire { G with S := { G.S with loops := es } }).S.pc
        ∧ G.retire.S.loops = (Group.retire { G with S := { G.S with loops := es } }).S.loops)

/-- R46, R100 to R103, R105: LRUN and LRUNR append a block start inside the code section, or trap with LRUN_TARGET, and stall at a
full queue; PUSHU appends to uq and POPB takes the head of bq, and they stall at a full and an empty one; LWAIT retires at once
while the L-stream is idle with nothing queued, else LWAIT_RELEASE ends it (an entry that a waiting WAITGE has taken keeps its place in
uq, log entry 57); and the L-stream takes the head of the dispatch queue into split 0 with every live lane, all others free. What is
ordered before the S-stream at an LRUN is ordered before the lanes of the block once it begins; what is ordered before it at a PUSHU goes
with the entry, as what comes with an entry of bq goes to the S-stream at the POPB; and what is ordered before the lanes at an LWAIT is
ordered before the S-stream after it. -/
def Obligations.QueuesAndBlocks : Prop :=
  (∀ (i : Instr) (s : State) (E : Env) (o : BitVec 26) (a : BitVec 6) (v : W64), SReady s E →
       (i = .lrun o ∧ v = o.setWidth 64 ∨ i = .lrunr a ∧ v = E.G.rS a) →
       (v.toNat < 2 ^ 26 → v.toNat < E.K.header.lsize → E.G.S.dq.length < 8 → ∃ late,
           exec i s = .next { s.modGroup E.w E.g fun G =>
             Group.retire { G with S := { G.S with dq := G.S.dq ++ [v.setWidth 26] } } with late := late }
           ∧ SameWrites s { s with late := late } ∧ Passes s { s with late := late } E.who (.block E.w E.g E.G.S.dq.length))
       ∧ (v.toNat < 2 ^ 26 → v.toNat < E.K.header.lsize → 8 ≤ E.G.S.dq.length → exec i s = .next (s.modGroup E.w E.g fun G =>
           { G with S := { G.S with stall := .queue } }))
       ∧ (2 ^ 26 ≤ v.toNat ∨ E.K.header.lsize ≤ v.toNat →
           exec i s = .next (takeTrap s E.w E.g { cause := .lrunTarget, kind := .word })))
  ∧ (∀ s E, SReady s E →
       (∀ a, E.G.S.uq.length + E.G.taken.length < 32 → ∃ late,
           exec (.pushu a) s = .next { s.modGroup E.w E.g fun G =>
             Group.retire { G with S := { G.S with uq := G.S.uq ++ [G.rS a] } } with late := late }
           ∧ SameWrites s { s with late := late }
           ∧ Passes s { s with late := late } E.who (.entry E.w E.g true (E.G.S.uq.length + E.G.taken.length)))
       ∧ (∀ a, 32 ≤ E.G.S.uq.length + E.G.taken.length → exec (.pushu a) s = .next (s.modGroup E.w E.g fun G =>
           { G with S := { G.S with stall := .queue } }))
       ∧ (∀ d, E.G.S.bq = [] → exec (.popb d) s = .next (s.modGroup E.w E.g fun G =>
           { G with S := { G.S with stall := .queue } }))
       ∧ (∀ d v rest, E.G.S.bq = v :: rest → ∃ late,
           exec (.popb d) s = .next { s.modGroup E.w E.g fun G =>
             (({ G with S := { G.S with bq := rest } } : Group).wS d v).retire with late := late }
           ∧ SameWrites s { s with late := late } ∧ Passes s { s with late := late } (.entry E.w E.g false 0) E.who))
  ∧ ((∀ s E, SReady s E → E.G.L.running = false → E.G.S.dq = [] → ∃ late,
         exec .lwait s = .next { s.modGroup E.w E.g fun G => G.cover.retire with late := late }
         ∧ SameWrites s { s with late := late } ∧ Passes s { s with late := late } E.allLanes E.who)
     ∧ (∀ s E, SReady s E → (E.G.L.running = true ∨ E.G.S.dq ≠ []) → exec .lwait s =
         .next (s.modGroup E.w E.g fun G => { G with S := { G.S with stall := .lwait } }))
     ∧ ∀ s w g E, envAt s w g = some E → E.issues = true → E.G.S.stall = .lwait → E.G.L.running = false → E.G.S.dq = [] → ∃ late,
         exec (.lwaitRelease w g) s = .next { s.modGroup w g fun G => G.cover.retire with late := late }
         ∧ SameWrites s { s with late := late } ∧ Passes s { s with late := late } E.allLanes E.who)
  ∧ (∀ s w g E start rest, envAt s w g = some E → E.issues = true → E.G.L.running = false → E.G.S.dq = start :: rest →
       ∃ t G', exec (.blockStart w g) s = .next t ∧ t.group? w g = some G' ∧ G'.S.dq = rest ∧ G'.S.s = E.G.S.s
         ∧ SameWrites s t ∧ Passes s t (.block w g 0) E.allLanes
         ∧ (E.G.L.alive = 0 → G'.L.running = false)
         ∧ (E.G.L.alive ≠ 0 → G'.L.running = true ∧ (G'.split 0).lpc = start.setWidth 64 ∧ (G'.split 0).mask = E.G.L.alive
             ∧ (G'.split 0).st = .ready ∧ ∀ e, 0 < e → (G'.split e).mask = 0))


/-! ### Scalar tables, engines, waits and barriers -/

/-- R106, R107, R180: SKLD reads a doubleword of a row, and what stands at home where the core has no line cached and no write is on
its way; SKST writes one at home, where every other byte stays; KSWAP exchanges the versions that two ids name, which every directory
cache drops, but for a descriptor that a service holds present (R303), holds the S-stream, and hands on at `.dom` what is ordered before
it (R264), and KSWAP_COMPLETE lets it go on. -/
def Obligations.ScalarTableWords : Prop :=
  (∀ s E d a t o b r, SReady s E → ScalarRow s E t (E.G.rS a) (8 * o.toNat) false b r →
       ∃ v s', exec (.skld d a t o) s = .next s' ∧ s'.group? E.w E.g = some ((E.G.wS d v).retire)
         ∧ ReadTable s s' E.w E.g E.W.coreNo b.v
         ∧ ((s.core E.W.coreNo).cache = [] → Settled s (.rows b.v) → v = bytesToWord (b.t.bytes (r.addr + 8 * o.toNat) 8)))
  ∧ (∀ s E d a t o b r, SReady s E → ScalarRow s E t (E.G.rS a) (8 * o.toNat) true b r → memWf b.t.rows = true →
       ∃ s' T', exec (.skst d a t o) s = .next s' ∧ s'.table? b.v = some T' ∧ T' = { b.t with rows := T'.rows, bad := T'.bad }
         ∧ s'.group? E.w E.g = some E.G.retire ∧ s'.jobs = s.jobs ∧ s'.drv = s.drv ∧ s'.reds = s.reds
         ∧ (∀ w' g', (w', g') ≠ (E.w, E.g) → s'.group? w' g' = s.group? w' g')
         ∧ (∀ v, v ≠ b.v → s'.table? v = s.table? v)
         ∧ (∀ k, k < 8 → memGet T'.rows (r.addr + 8 * o.toNat + k) = (E.G.rS d).extractLsb' (8 * k) 8)
         ∧ ∀ x, x < r.addr + 8 * o.toNat ∨ r.addr + 8 * o.toNat + 8 ≤ x → memGet T'.rows x = memGet b.t.rows x)
  ∧ ((∀ s E a t b vy u, SReady s E → slotOf s E.La t = .bound b → (E.G.rS a).toNat < 2 ^ 32 →
         s.descHeld ((E.G.rS a).setWidth 32) = true → s.versionOf ((E.G.rS a).setWidth 32) = some vy → s.table? vy = some u →
         b.ro = false → b.t.desc.owner = E.world → u.desc.owner = E.world → b.t.desc.kind = u.desc.kind →
         b.t.desc.k128 = u.desc.k128 → b.t.desc.width = u.desc.width →
         ∃ s', exec (.kswap a t) s = .next s' ∧ s'.versionOf b.id = some vy
           ∧ s'.versionOf ((E.G.rS a).setWidth 32) = some b.v ∧ s'.mem.tables = s.mem.tables ∧ s'.mem.windows = s.mem.windows
           ∧ (∀ k, k = b.id ∨ k = (E.G.rS a).setWidth 32 →
               (k ∈ s'.mem.held ↔ k ∈ s.mem.held ∧ s.kept (.descriptor k) = true)
               ∧ ∀ v, v = none ∨ v = some domAll → Turned s s' E.who (.swap k) (.order v) (.order (some domAll)))
           ∧ (∀ p ∈ s'.cores, b.id ∈ p.2.due ∧ (E.G.rS a).setWidth 32 ∈ p.2.due) ∧ s'.jobs = s.jobs ∧ s'.drv = s.drv
           ∧ s'.group? E.w E.g = some { E.G with S := { E.G.S with stall := .kswap } })
     ∧ ∀ s w g E, envAt s w g = some E → E.issues = true → E.G.S.stall = .kswap →
         exec (.kswapComplete w g) s = .next (s.modGroup w g Group.retire))

/-- R225, R226, R231, R232, R236, R239: a COPY whose descriptor, counter, table and ranges are in order brings its slice: to the
job of its workgroup, tag and number where one waits with the same shape, else to a new job where a slot is free; a GATHER or
BLOAD in order, with a free slot, makes a job of its own. What is ordered before the engine word is ordered before the slice (R263).
-/
def Obligations.EngineWordsIssue : Prop :=
  (∀ (s : State) (E : Env) (d : BitVec 6) (tag : BitVec 8) (ctr : Counter), SReady s E →
       let ds := descRegs E.G d
       let c := copyD ds
       CounterOk s E (ds.getD 3 0) { adds := true, clu := c.multicast, onlyClu := c.multicast } ctr → copyBad E.La ds = false →
       (∀ r ∈ copyScratch c, r.2 ≤ E.W.size) →
       (c.mode ≠ 2 → ∃ b, slotOf s E.La c.slot = .bound b ∧ (c.mode = 1 → b.ro = false) ∧ b.t.desc.isArray = true
           ∧ c.rbytes ≤ b.t.desc.width) →
       let kind : JobKind := .copy tag (copiesOf E.G tag)
       let slice : Slice := { group := E.g, seq := s.nextSlice, d := ds, ctr := ctr }
       (slotFree s E.W.coreNo = true → (∀ j ∈ s.jobs, ¬ (j.wg = E.w ∧ j.kind = kind)) →
           ∃ t j, exec (.copy d tag) s = .next t ∧ t.jobs = s.jobs ++ [j] ∧ j.state = .forming ∧ j.slices = [slice]
             ∧ j.kind = kind ∧ j.wg = E.w ∧ j.core = E.W.coreNo ∧ t.mem = s.mem ∧ t.cores = s.cores
             ∧ Passes s t E.who (.slice s.jobs.length 0))
       ∧ (∀ n j q, s.jobs.findIdx? (fun j => j.wg == E.w && j.kind == kind) = some n → s.jobs[n]? = some j →
           j.slices.head? = some q → sliceShape (copyD q.d) = sliceShape c →
           ∃ t, exec (.copy d tag) s = .next t ∧ t.jobs = s.jobs.set n { j with slices := j.slices ++ [slice] } ∧ t.mem = s.mem
             ∧ Passes s t E.who (.slice n j.slices.length)))
  ∧ (∀ (s : State) (E : Env) (d : BitVec 6) (tag : BitVec 8) (ctr : Counter), SReady s E → slotFree s E.W.coreNo = true →
       let ds := descRegs E.G d
       CounterOk s E (ds.getD 3 0) { adds := true, clu := false, onlyClu := false } ctr →
       (∀ b, slotOf s E.La (gatherD ds).slot = .bound b → gatherBad ds = false →
         ((gatherD ds).mode ≠ 0 → ∃ q, b.t.desc.codedAt (gatherD ds).off = some q ∧ (gatherD ds).first + (gatherD ds).n ≤ q.2) →
         ((gatherD ds).mode = 0 → (gatherD ds).off + (gatherD ds).n ≤ b.t.desc.width) →
         (∀ r ∈ gatherScratch (gatherD ds) b.t, r.2 ≤ E.W.size) →
         ∃ late, exec (.gather d tag) s = .next (({ s with
               jobs := s.jobs ++ [newJob s E (.gather tag) ds ctr], late := late } : State).modGroup E.w E.g Group.retire)
           ∧ SameWrites s { s with late := late } ∧ Passes s { s with late := late } E.who (.slice s.jobs.length 0))
       ∧ (∀ b, slotOf s E.La (bloadD ds).slot = .bound b → bloadBad ds = false → b.t.desc.isArray = true →
         (bloadD ds).tofs + (bloadD ds).lines * 1024 ≤ b.t.desc.rows * b.t.desc.width →
         ∃ late, exec (.bload d) s = .next (({ s with
               jobs := s.jobs ++ [newJob s E .bload ds ctr], late := late } : State).modGroup E.w E.g Group.retire)
           ∧ SameWrites s { s with late := late } ∧ Passes s { s with late := late } E.who (.slice s.jobs.length 0)))

/-- R202, R230: CWAIT goes on where its counter has reached or passed the target, wrap-safe, and sleeps otherwise; CWAIT_WAKE
ends the sleep once it has. Where the word names the scope that the counter's locator declares, and acquires, what the last write of the
counter hands on at that scope is ordered before the S-stream, and at `.clu` or wider the core's lines are dropped; where it names another
scope, the read orders nothing. -/
def Obligations.CounterWait : Prop :=
  (∀ s E a b o sc ctr, SReady s E → FenceClear s E →
      CounterOk s E (E.G.rS a) { adds := false, clu := true, onlyClu := false } ctr → CounterReads s E ctr →
      let short := (counterValue s E.w ctr - E.G.rS b).toNat
      let c := E.scopeAt (scopeCode sc).toNat
      (short < 2 ^ 63 → ∃ t, exec (.cwait a b o sc) s = .next t ∧ t.group? E.w E.g = some E.G.retire ∧ t.mem = s.mem
        ∧ t.jobs = s.jobs ∧ t.drv = s.drv
        ∧ SameWrites s t ∧ (scopeCode sc ≠ locScope (E.G.rS a) → ReadsOnly s t E)
        ∧ (scopeCode sc = locScope (E.G.rS a) → (o = .acq ∨ o = .ar) →
            (∀ n v, LastWrite s E ctr n → v = none ∨ v = some c → Turned s t (.write n) E.who (.order v) (.order (some c)))
            ∧ (2 ≤ (scopeCode sc).toNat → (t.core E.W.coreNo).cache = [])))
      ∧ (2 ^ 63 ≤ short → exec (.cwait a b o sc) s = .next (s.modGroup E.w E.g fun G =>
          { G with S := { G.S with stall := .cwait (E.G.rS a) (E.G.rS b) } })))
  ∧ ∀ s w g E l target a b o sc ctr, envAt s w g = some E → E.issues = true → E.G.S.stall = .cwait l target →
      (E.G.T.handler = true ∨ E.G.T.elems = []) → decodeS (E.K.scode.getD E.G.S.pc.toNat 0) = .ok (.cwait a b o sc) →
      CounterOk s E l { adds := false, clu := true, onlyClu := false } ctr → CounterReads s E ctr →
      ((counterValue s E.w ctr - target).toNat < 2 ^ 63 →
        ∃ t, exec (.cwaitWake w g) s = .next t ∧ t.group? w g = some E.G.retire ∧ t.mem = s.mem ∧ t.jobs = s.jobs
          ∧ SameWrites s t ∧ (scopeCode sc ≠ locScope l → ReadsOnly s t E))
      ∧ (2 ^ 63 ≤ (counterValue s E.w ctr - target).toNat → exec (.cwaitWake w g) s = .next s)

/-- R180, R205, R265, R266, R269: FENCE waits for nothing but the jobs of its group that had started when its fence point passed, at
every scope (log entry 25), and goes on once they are complete. Its acquire half drops the core's row-cache lines at `.clu` and wider,
and what was released at this instance of the scope to writes that the S-stream has read is ordered before what it does from then on. Its
release half hands on to what it writes from then on everything that is ordered before it by local order or at this instance: its own
writes, and those of the group's slices of jobs that have started. Nothing else changes. How the model keeps what is ordered before whom
is log entry 56. -/
def Obligations.FenceCompletes : Prop :=
  ∀ s E o sc, SReady s E →
    let code := (scopeCode sc).toNat
    let c := E.scopeAt code
    let started : Job → Prop := fun j => j.wg = E.w ∧ j.state = .started ∧ ∃ q ∈ j.slices, q.group = E.g
    let ahead := (∀ ns, E.G.S.stall ≠ .release ns) ∧ FenceClear s E ∧ (o = .acq ∨ ∀ j ∈ s.jobs, ¬ started j)
    let past := ∃ ns, E.G.S.stall = .release ns ∧ ∀ n ∈ ns, ∀ j, s.jobs[n]? = some j → j.state = .complete
    (ahead ∨ past →
      ∃ t, exec (.fence o sc) s = .next t ∧ t.group? E.w E.g = some E.G.retire ∧ t.time = s.time ∧ t.mem = s.mem ∧ t.jobs = s.jobs
        ∧ t.drv = s.drv ∧ t.reds = s.reds ∧ t.dies = s.dies ∧ t.links = s.links ∧ t.meters = s.meters ∧ t.ctl = s.ctl
        ∧ (∀ w' g', (w', g') ≠ (E.w, E.g) → t.group? w' g' = s.group? w' g')
        ∧ (∀ k, k ≠ E.W.coreNo → t.core k = s.core k)
        ∧ ((o = .acq ∨ o = .ar) → 2 ≤ code → t.core E.W.coreNo = { s.core E.W.coreNo with cache := [] })
        ∧ ((o = .rel ∨ code < 2) → t.cores = s.cores)
        ∧ SameWrites s t
        ∧ (∀ l' ∈ t.late, ∀ k ∈ l'.known, k.who ≠ E.who →
            ∃ l ∈ s.late, l.space = l'.space ∧ l.unit = l'.unit ∧ l.id = l'.id ∧ k ∈ l.known)
        ∧ ((o = .acq ∨ o = .ar) → Turned s t E.who E.who (.got c) (.order (some c)))
        ∧ ((o = .rel ∨ o = .ar) → ∀ v, v = none ∨ v = some c →
            Turned s t E.who E.who (.order v) (.later c)
            ∧ ∀ n k j q, s.jobs[n]? = some j → j.slices[k]? = some q → q.group = E.g →
                (match E.G.S.stall with | .release ns => n ∈ ns | _ => j.wg = E.w ∧ j.state ≠ .forming) →
                Turned s t (.slice n k) E.who (.order v) (.later c)))
    ∧ ((∀ ns, E.G.S.stall ≠ .release ns) → FenceClear s E → (o = .rel ∨ o = .ar) → (∃ j ∈ s.jobs, started j) →
      ∃ ns late, exec (.fence o sc) s = .next { s.modGroup E.w E.g fun G =>
            { G with S := { G.S with stall := .release ns } } with late := late }
        ∧ SameWrites s { s with late := late } ∧ ∀ n, n ∈ ns ↔ ∃ j, s.jobs[n]? = some j ∧ started j)

/-- R271: the last group to arrive at a barrier completes its instance: it goes on, and every other group of the instance may
depart; a group that is not the last waits with its arrival made; one whose arrival would leave every group waiting where no instance
can complete traps with BAR_MISMATCH instead; BAR_DEPART lets a group of a complete instance go on. What is ordered before an arrival by
local order or at `.wg` is ordered before what the departing groups do next (R264). -/
def Obligations.BarrierCompletes : Prop :=
  (∀ s E id, SReady s E → FenceClear s E → E.G.lanesDone = true → id.toNat < E.W.bars.length →
      (E.W.bar id.toNat).leaving = [] → E.g ∉ (E.W.bar id.toNat).arrived →
      (∀ h ∈ E.W.liveGroups, h ≠ E.g → h ∈ (E.W.bar id.toNat).arrived) →
      ∃ t W' G', exec (.bar id) s = .next t ∧ t.wgs[E.w]? = some W' ∧ t.group? E.w E.g = some G' ∧ G' = E.G.cover.retire
        ∧ (W'.bar id.toNat).arrived = [] ∧ E.g ∉ (W'.bar id.toNat).leaving
        ∧ (∀ h ∈ E.W.liveGroups, h ≠ E.g → h ∈ (W'.bar id.toNat).leaving) ∧ W'.scratch = E.W.scratch
        ∧ t.mem = s.mem ∧ t.jobs = s.jobs ∧ t.cores = s.cores
        ∧ Turned s t (.bar E.w id.toNat) E.who (.order (some (E.scopeAt 1))) (.order (some (E.scopeAt 1)))
        ∧ ∀ h ∈ E.W.liveGroups, h ≠ E.g → ∀ v, v = none ∨ v = some (E.scopeAt 1) →
            Turned s t E.who (.depart E.w id.toNat h) (.order v) (.order (some (E.scopeAt 1))))
  ∧ (∀ s E id h h', SReady s E → FenceClear s E → E.G.lanesDone = true → id.toNat < E.W.bars.length →
      (E.W.bar id.toNat).leaving = [] → E.g ∉ (E.W.bar id.toNat).arrived →
      h ∈ E.W.liveGroups → h ≠ E.g → h ∉ (E.W.bar id.toNat).arrived →
      h' ∈ E.W.liveGroups → h' ≠ E.g → (∀ b ∈ E.W.bars, h' ∉ b.arrived) →
      ∃ t W' G', exec (.bar id) s = .next t ∧ t.wgs[E.w]? = some W' ∧ t.group? E.w E.g = some G' ∧ G'.S.stall = .bar id
        ∧ G'.S.pc = E.G.S.pc ∧ (W'.bar id.toNat).arrived = (E.W.bar id.toNat).arrived ++ [E.g]
        ∧ ∀ v, v = none ∨ v = some (E.scopeAt 1) → Turned s t E.who (.bar E.w id.toNat) (.order v) (.order (some (E.scopeAt 1))))
  ∧ (∀ s E id h, SReady s E → FenceClear s E → E.G.lanesDone = true → id.toNat < E.W.bars.length →
      (E.W.bar id.toNat).leaving = [] → E.g ∉ (E.W.bar id.toNat).arrived →
      h ∈ E.W.liveGroups → h ≠ E.g → h ∉ (E.W.bar id.toNat).arrived →
      (∀ k ∈ E.W.liveGroups, k ≠ E.g → ∃ b ∈ E.W.bars, k ∈ b.arrived) →
      exec (.bar id) s = .next (takeTrap s E.w E.g { cause := .barMismatch, kind := .word }))
  ∧ ∀ s w g E id, envAt s w g = some E → E.issues = true → E.G.S.stall = .bar id → g ∈ (E.W.bar id.toNat).leaving →
      ∃ t, exec (.barDepart w g) s = .next t ∧ t.group? w g = some E.G.retire ∧ t.mem = s.mem ∧ t.jobs = s.jobs ∧ t.drv = s.drv
        ∧ Passes s t (.depart w id.toNat g) E.who


/-! ### Traps, CSRs, and the words of SYS -/

/-- R291, R293: the CSR map. User mode reads TRAPBASE to DBGCTL and writes TRAPBASE and TIMER alone; handler mode also reads and writes
HSAVE0 to HSAVE3 and the frame, of whose doublewords it does not write the first. What each CSR reads and what a write to it changes;
any other access traps with PRIVILEGED, which comes before CSR_VALUE for a reserved bit, and then nothing is written. That CSR_VALUE puts
the CSR number into det0 is a reading (log entry 17). -/
def Obligations.CsrAccess : Prop :=
  ∀ (s : State) (E : Env) (d a : BitVec 6) (c : BitVec 12), SReady s E →
    let n := c.toNat
    let v := E.G.rS a
    let T := E.G.T
    let may := n = 0 ∨ n = 3 ∨ (T.handler = true ∧ ((8 ≤ n ∧ n ≤ 11) ∨ (0x401 ≤ n ∧ n ≤ 0x53C)))
    let fine := (n = 0 → v.toNat < 2 ^ 26)
      ∧ ∀ k, n = 0x400 + k → ∀ r ∈ frameRsv k, ∀ i, r.2 ≤ i → i ≤ r.1 → v.getLsbD i = false
    (n ≤ 5 ∨ (8 ≤ n ∧ n ≤ 11) ∨ (0x400 ≤ n ∧ n ≤ 0x53C)) →
    ((n ≤ 5 ∨ T.handler = true) → ∃ x, exec (.csrr d c) s = .next (afterWrite s E d x)
        ∧ (n = 0 → x = 0#38 ++ T.trapbase) ∧ (n = 1 → x = 0#55 ++ T.cause) ∧ (n = 2 → x = T.frameId ++ T.traps)
        ∧ (n = 3 → x = T.timer) ∧ (n = 4 → x = 0#32 ++ E.C.bankKey) ∧ (n = 5 → x = 0#58 ++ E.C.dbgctl)
        ∧ (∀ k, k < 4 → n = 8 + k → x = T.hsave.getD k 0) ∧ (∀ k, k < 317 → n = 0x400 + k → x = T.frame.getD k 0))
    ∧ (5 < n → T.handler = false →
        exec (.csrr d c) s = .next (takeTrap s E.w E.g { cause := .privileged, kind := .word }))
    ∧ (may → fine → ∃ T', exec (.csrw a c) s = .next (s.modGroup E.w E.g fun G => ({ G with T := T' } : Group).retire)
        ∧ (n = 0 → T' = { T with trapbase := v.setWidth 26 }) ∧ (n = 3 → T' = { T with timer := v })
        ∧ (∀ k, k < 4 → n = 8 + k → T' = { T with hsave := T.hsave.set k v })
        ∧ (∀ k, k < 317 → n = 0x400 + k → T' = { T with frame := T.frame.set k v }))
    ∧ (may → ¬ fine → exec (.csrw a c) s =
        .next (takeTrap s E.w E.g { cause := .csrValue, kind := .word, d0 := c.setWidth 64, d1 := v }))
    ∧ (¬ may → exec (.csrw a c) s = .next (takeTrap s E.w E.g { cause := .privileged, kind := .word }))

/-- R279, R283, R284, R286: taking a trap in user mode with a handler: the cause, the count, the saved S-PC and details, the
emptied queues and streams, and the handler's address. In its handler, or with TRAPBASE 0, a group takes no trap: its context
ends, with DOUBLE_TRAP and the cause as the inner one, or with the cause. The frame kept after a DOUBLE_TRAP is a reading (log
entry 20). -/
def Obligations.TakingATrap : Prop :=
  (∀ s w g E t, envAt s w g = some E → TrapOpen E →
       (∀ u, E.G.S.stall ≠ .sleep u) → E.G.S.stall ≠ .kswap →
       ∃ G', (takeTrap s w g t).group? w g = some G' ∧ Entered E.G G' t.cause t.kind E.G.S.pc t.d0 t.d1
         ∧ OnlyWgs s (takeTrap s w g t))
  ∧ (∀ s w g E t, envAt s w g = some E → E.G.inFlight = false →
       (E.G.T.handler = true → takeTrap s w g t = endContext s E.La.ctx (causeCode .doubleTrap) (causeCode t.cause) E.G.T.frame)
       ∧ (E.G.T.handler = false → E.G.T.trapbase = 0 →
           ∃ f, takeTrap s w g t = endContext s E.La.ctx (causeCode t.cause) 0 f))

/-- R290, R294: ERET outside handler mode traps with PRIVILEGED. In handler mode a frame out of order traps with FRAME_BAD; else the word
waits for its implied LWAIT, and then everything saved at entry is reloaded: user mode, the frame's S-PC, call depth, loop entries and
queues; where a block ran, also the split table, each split at its replay point, and the block goes on where some split is left to run. A
table whose splits are all parked, more than one, raises JOIN_MISMATCH again. -/
def Obligations.ReturnFromTrap : Prop :=
  ∀ s E, SReady s E →
    let f := E.G.T.frame
    let h := f.getD 6 0
    (E.G.T.handler = false → exec .eret s = .next (takeTrap s E.w E.g { cause := .privileged, kind := .word }))
    ∧ (E.G.T.handler = true → E.G.S.stall ≠ .implied → ¬ FrameFine E.G →
        exec .eret s = .next (takeTrap s E.w E.g { cause := .frameBad, kind := .word }))
    ∧ (E.G.T.handler = true → FrameFine E.G → LanesBusy E.G →
        exec .eret s = .next (s.modGroup E.w E.g fun G => { G with S := { G.S with stall := .implied } }))
    ∧ (E.G.T.handler = true → FrameFine E.G → ¬ LanesBusy E.G → h.getLsbD 46 = false →
        ∃ t G', exec .eret s = .next t ∧ t.group? E.w E.g = some G' ∧ G'.T.handler = false ∧ G'.L.running = false
          ∧ Reloaded f E.G G' ∧ OnlyWgs s t)
    ∧ (E.G.T.handler = true → FrameFine E.G → ¬ LanesBusy E.G → h.getLsbD 46 = true →
        (∃ e, e < 8 ∧ frameMask f e ≠ 0 ∧ frameState f e ≠ 2 ∧ frameState f e ≠ 3) →
        ∃ t G', exec .eret s = .next t ∧ t.group? E.w E.g = some G' ∧ G'.T.handler = false ∧ G'.L.running = true
          ∧ Reloaded f E.G G' ∧ (∀ e, e < 8 → EntryBack f G' e) ∧ t.mem = s.mem ∧ t.jobs = s.jobs ∧ t.drv = s.drv)
    ∧ (E.G.T.handler = true → FrameFine E.G → ¬ LanesBusy E.G → h.getLsbD 46 = true → E.G.T.saved.ovf = [] → E.G.T.trapbase ≠ 0 →
        (∀ e, e < 8 → frameMask f e ≠ 0 → frameState f e = 2 ∨ frameState f e = 3) →
        (∃ e e', e < 8 ∧ e' < 8 ∧ e ≠ e' ∧ frameMask f e ≠ 0 ∧ frameMask f e' ≠ 0) →
        ∃ t G', exec .eret s = .next t ∧ t.group? E.w E.g = some G' ∧ G'.T.handler = true
          ∧ G'.T.cause = 1#1 ++ causeCode .joinMismatch ∧ (G'.T.frame.getD 0 0).extractLsb' 16 3 = kindCode .after)

/-- R294, R295, R332, R357, R359: YIELD and SLEEP 0 only retire; SLEEP n holds the S-stream for 64n clk, and SLEEP_END ends it;
BRK raises BREAKPOINT of kind A, or is a debug stop after the word where DBGCTL.brk is 1; MARK writes at most a trace packet;
TRAP raises USER_TRAP of kind A with det0 = n; HALT in handler mode ends the context with HALTED, and outside it traps with
PRIVILEGED. -/
def Obligations.SystemWords : Prop :=
  (∀ s E, SReady s E →
       exec .yield s = .next (s.modGroup E.w E.g Group.retire)
       ∧ exec (.sleep 0) s = .next (s.modGroup E.w E.g Group.retire)
       ∧ (∀ n, n ≠ 0 → exec (.sleep n) s = .next (s.modGroup E.w E.g fun G =>
           { G with S := { G.S with stall := .sleep (s.time.clk + 64 * n.toNat) } }))
       ∧ (E.C.dbgctl.getLsbD 3 = false → TrapOpen E → ∃ t G', exec .brk s = .next t ∧ t.group? E.w E.g = some G'
           ∧ Entered E.G G' .breakpoint .after E.G.retire.S.pc 0 0)
       ∧ (E.C.dbgctl.getLsbD 3 = true → ∃ t G', exec .brk s = .next t ∧ t.group? E.w E.g = some G'
           ∧ G'.stopped = some .breakpoint ∧ G'.S.pc = E.G.retire.S.pc)
       ∧ (∀ n, ∃ t, exec (.mark n) s = .next t ∧ t.group? E.w E.g = some E.G.retire ∧ OnlyWgs s t
           ∧ (E.C.dbgctl.getLsbD 5 = false → t.dies = s.dies)))
  ∧ (∀ s E n, SReady s E → TrapOpen E → ∃ t G', exec (.trap n) s = .next t ∧ t.group? E.w E.g = some G'
       ∧ Entered E.G G' .userTrap .after E.G.retire.S.pc (n.setWidth 64) 0 ∧ OnlyWgs s t)
  ∧ (∀ s E, SReady s E →
       (E.G.T.handler = false → exec .halt s = .next (takeTrap s E.w E.g { cause := .privileged, kind := .word }))
       ∧ (E.G.T.handler = true → E.C.ended = none → ∃ t C st, exec .halt s = .next t ∧ t.context? E.La.ctx = some C
           ∧ C.ended = some st ∧ st.err = true ∧ st.cause = causeCode .halted
           ∧ st.inner = (E.G.T.frame.getD 0 0).extractLsb' 0 8))
  ∧ (∀ s w g E n, envAt s w g = some E → E.issues = true → E.G.S.stall = .sleep n → n ≤ s.time.clk →
       exec (.sleepEnd w g) s = .next (s.modGroup w g Group.retire))

/-- R104, R282: where the S-stream waits for the L-stream, which is stuck, the group traps with QUEUE_DEADLOCK, kind W; on any other
stall nothing happens. The 16 clk of continuous stall are left out (log entry 4), and an entry that a waiting word has taken counts
against uq (log entry 57). TIMER at or past a nonzero deadline clears the register and leaves the event pending, and TRAP_ENTRY enters a
pending event outside handler mode, with the deadline and CLOCK as details. -/
def Obligations.PendingTraps : Prop :=
  (∀ s w g E, envAt s w g = some E → E.issues = true → ¬ (WaitsForL E ∧ StuckL E) → exec (.queueDeadlock w g) s = .next s)
  ∧ (∀ s w g E, envAt s w g = some E → E.issues = true → WaitsForL E → StuckL E →
       exec (.queueDeadlock w g) s = .next (takeTrap s w g { cause := .queueDeadlock, kind := .word })
       ∧ (TrapOpen E → (∀ u, E.G.S.stall ≠ .sleep u) → E.G.S.stall ≠ .kswap →
          ∃ G', (takeTrap s w g { cause := .queueDeadlock, kind := .word }).group? w g = some G'
           ∧ Entered E.G G' .queueDeadlock .word E.G.S.pc 0 0))
  ∧ ((∀ s w g E, envAt s w g = some E → E.issues = true → E.G.T.timer ≠ 0 → E.G.T.timer.toNat ≤ s.time.clock.toNat →
         exec (.timer w g) s = .next (s.modGroup w g fun G =>
           { G with T := { G.T with timer := 0, pending := some (.timer E.G.T.timer) } }))
     ∧ ∀ s w g E deadline, envAt s w g = some E → E.issues = true → E.G.T.pending = some (.timer deadline) → TrapOpen E →
         (∀ p ∈ E.G.L.splits, p.wait.trapDue = false) →
         (∀ u, E.G.S.stall ≠ .sleep u) → E.G.S.stall ≠ .kswap →
         ∃ t G', exec (.trapEntry w g) s = .next t ∧ t.group? w g = some G'
           ∧ Entered E.G G' .timer .event E.G.S.pc deadline s.time.clock ∧ G'.T.pending = none)

/-- R202, R271, R336, R338: SPAWN offers a task to the core's queue of 64 and answers 1, or 0 where the queue is full, and an
entry at or beyond ssize traps with SPAWN_DESC; what is ordered before the SPAWN goes with the task; EXIT, once its implied LWAIT is
done and its fence point is clear, ends the group, whose queues are discarded and cursors closed; every other group stays. -/
def Obligations.TasksAndExit : Prop :=
  (∀ (s : State) (E : Env) (d a : BitVec 6), SReady s E →
       let v := E.G.rS a
       let C := s.core E.W.coreNo
       (E.K.header.ssize ≤ (v.extractLsb' 0 26).toNat →
           exec (.spawn d a) s = .next (takeTrap s E.w E.g { cause := .spawnDesc, kind := .word }))
       ∧ ((v.extractLsb' 0 26).toNat < E.K.header.ssize → 64 ≤ C.tasks.length →
           exec (.spawn d a) s = .next (afterWrite s E d 0))
       ∧ ((v.extractLsb' 0 26).toNat < E.K.header.ssize → C.tasks.length < 64 →
           ∃ late, exec (.spawn d a) s = .next { afterWrite (s.setCore E.W.coreNo { C with tasks := C.tasks ++
               [{ entry := v.extractLsb' 0 26, arg := v.extractLsb' 26 38, launch := E.La.handle, idx := E.W.idx }] }) E d 1 with late := late }
             ∧ SameWrites s { s with late := late }
             ∧ Passes s { s with late := late } E.who (.task E.W.coreNo C.tasks.length)))
  ∧ (∀ s E, SReady s E → E.G.lanesDone = true → FenceClear s E →
       ∃ t G', exec .exit s = .next t ∧ t.group? E.w E.g = some G' ∧ G'.fin = .exited ∧ G'.S.uq = [] ∧ G'.S.bq = []
         ∧ (∀ L ∈ G'.lanes, L.cur = [none, none, none, none]) ∧ t.mem = s.mem ∧ t.jobs = s.jobs
         ∧ ∀ g', g' ≠ E.g → t.group? E.w g' = s.group? E.w g')


/-! ### The lane stream -/

/-- R108, R113 to R122, R125, R146 to R151: with no trap enabled in MD, every L word that computes a lane result completes: on
its active lanes VD alone changes (nothing under NW) and flags are only added; the other lanes, the predicates, and everything
outside the group stay. -/
def Obligations.ResultWordsComplete : Prop :=
  ∀ i s x, LReady s i x → resultOp x.op.toNat = true → enables x.G.L.md = 0 →
    ∃ t G', exec i s = .next t ∧ Retired s t x G'
      ∧ (∀ k, inMask x.act k = true → ∃ v f, LaneWrote x.o (x.G.lane k) (G'.lane k) v
          ∧ (G'.lane k).flags = (x.G.lane k).flags ||| f)
      ∧ ∀ k, inMask x.act k = false → LaneSame (x.G.lane k) (G'.lane k)

/-- R113: ADD, SUB, MUL, MULH, ADDS, SUBS, MIN and MAX compute every sub-element of every active lane exactly and wrap it to its
width; the bitwise words and MOV work on the whole 64-bit pattern; SEL takes b where its predicate is false. -/
def Obligations.LaneIntegerResults : Prop :=
  (∀ i s x f, LReady s i x → intElem x.op.toNat x.o.ty = some f → x.o.nw = false → enables x.G.L.md = 0 →
       ∃ t G', exec i s = .next t ∧ t.group? x.E.w x.E.g = some G'
         ∧ ∀ k j, inMask x.act k = true → k < x.G.lanes.length → x.o.vd.toNat < (x.G.lane k).regs.length → j < tyCount x.o.ty →
           let w := tyBits x.o.ty
           subElem w ((G'.lane k).r x.o.vd.toNat) j
             = wrapInt w (f (intOf x.o.ty (subElem w (x.a x.o.ty k) j)) (intOf x.o.ty (subElem w (x.b x.o.ty k) j))))
  ∧ (∀ i s x, LReady s i x → x.op ∈ [0x0C, 0x0D, 0x0E, 0x0F, 0x18, 0x1A] → x.o.nw = false → enables x.G.L.md = 0 →
       ∃ t G', exec i s = .next t ∧ t.group? x.E.w x.E.g = some G' ∧
         ∀ k, inMask x.act k = true → k < x.G.lanes.length → x.o.vd.toNat < (x.G.lane k).regs.length →
           let a := x.a x.o.ty k
           let b := x.b x.o.ty k
           let v := (G'.lane k).r x.o.vd.toNat
           (x.op = 0x0C → v = a &&& b) ∧ (x.op = 0x0D → v = a ||| b) ∧ (x.op = 0x0E → v = a ^^^ b) ∧ (x.op = 0x0F → v = ~~~ a)
             ∧ (x.op = 0x1A → v = a)
             ∧ (x.op = 0x18 → v = if (x.G.lane k).p (x.o.aux.extractLsb' 0 3) then a else b))

/-- R65, R69, R117, R119: FADD, FSUB, FMUL and FDIV, rounding to nearest with no flush, deliver in every sub-element of every
active lane a value of the format than which none lies nearer to the exact result, where that lies within the finite range. -/
def Obligations.LaneFloatResults : Prop :=
  ∀ i s x f, LReady s i x → floatElem x.op.toNat = some f → x.o.ty ∈ [.f64, .f32, .f16, .bf16] → x.o.nw = false →
    enables x.G.L.md = 0 → x.md.rnd = .rne → x.md.fluIn = false → x.md.fluRes = false →
    ∃ t G', exec i s = .next t ∧ t.group? x.E.w x.E.g = some G'
      ∧ ∀ k j p q top, inMask x.act k = true → k < x.G.lanes.length → x.o.vd.toNat < (x.G.lane k).regs.length →
        j < tyCount x.o.ty →
        let w := tyBits x.o.ty
        let g := fmtOf x.o.ty
        readF g (subElem w (x.a x.o.ty k) j) = .fin p → readF g (subElem w (x.b x.o.ty k) j) = .fin q →
        readF g g.maxMag = .fin top → (x.op = 0x2C → q.m ≠ 0) →
        let exact := f (ratOf p) (ratOf q)
        exact ≤ ratOf top → -ratOf top ≤ exact →
        Nearest g (subElem w ((G'.lane k).r x.o.vd.toNat) j) exact

/-- R73, R112: what flags a word raises shows where no trap is enabled. A word none of whose enabled flags arises completes; where one
arises, the word has no effect and its split is held until the flags are known (log entry 66), which then takes the trap: the cause of the
lowest such flag, kind L, the lanes on which it arose, and all the flags that arose on any lane in det0. -/
def Obligations.FlagTraps : Prop :=
  ∀ i s x, LReady s i x → (resultOp x.op.toNat = true ∨ (predOp x.op.toNat = true ∧ consOver x = 0)) →
    (∀ k, inMask x.act k = true → k < x.G.lanes.length) → x.e < 8 → (∀ p ∈ x.G.L.splits, p.wait.trapDue = false) →
    ∃ t0 G0, exec i (quiet s x.E.w x.E.g) = .next t0 ∧ t0.group? x.E.w x.E.g = some G0 ∧
      let all := (List.range 32).foldl (fun f k => f ||| (G0.lane k).flags) 0
      (all &&& enables x.G.L.md = 0 → ∃ t G', exec i s = .next t ∧ Retired s t x G'
          ∧ ∀ k, k < 32 → (G'.lane k).flags = (x.G.lane k).flags ||| (G0.lane k).flags)
      ∧ ∀ k, (all &&& enables x.G.L.md).getLsbD k = true → (∀ j, j < k → (all &&& enables x.G.L.md).getLsbD j = false) →
          let ti := x.info (flagCauses.getD k .fpInvalid) .lane (maskOf fun n => (G0.lane n).flags.getLsbD k) (all.setWidth 64)
          ∃ t G', exec i s = .next t ∧ WordOnly s t x G' ∧ (∀ n, LaneSame (x.G.lane n) (G'.lane n)) ∧ (G'.split x.e).lpc = x.p.lpc
            ∧ (G'.split x.e).wait = .flags ti (if popsUq x.o then x.G.S.uq.head? else none)
            ∧ takeTurn t (.flags x.E.w x.E.g) = .next (takeTrap t x.E.w x.E.g ti)

/-- R114, R118, R148: with no trap enabled and no region constraint over its limit, CMP, FCMP and VOTE write their predicate on
the active lanes, and registers, the other predicates and the other lanes stay; CMP is true on a lane exactly when its condition
holds on every sub-element. -/
def Obligations.PredicateWords : Prop :=
  (∀ i s x, LReady s i x → predOp x.op.toNat = true → enables x.G.L.md = 0 → consOver x = 0 →
       ∃ t G', exec i s = .next t ∧ Retired s t x G'
         ∧ (∀ k, inMask x.act k = true → (G'.lane k).regs = (x.G.lane k).regs ∧ (G'.lane k).cur = (x.G.lane k).cur
             ∧ ∀ p : BitVec 3, p ≠ x.o.vd.extractLsb' 0 3 → (G'.lane k).p p = (x.G.lane k).p p)
         ∧ ∀ k, inMask x.act k = false → LaneSame (x.G.lane k) (G'.lane k))
  ∧ (∀ s o x, LReady s (.cmp o) x → enables x.G.L.md = 0 → consOver x = 0 → x.o.vd.extractLsb' 0 3 ≠ 7 →
       ∃ t G', exec (.cmp o) s = .next t ∧ t.group? x.E.w x.E.g = some G' ∧
         ∀ k, inMask x.act k = true → k < x.G.lanes.length →
           ((G'.lane k).p (x.o.vd.extractLsb' 0 3) = true ↔ ∀ j, j < tyCount x.o.ty →
             let a := intOf x.o.ty (subElem (tyBits x.o.ty) (x.a x.o.ty k) j)
             let b := intOf x.o.ty (subElem (tyBits x.o.ty) (x.b x.o.ty k) j)
             match x.o.var.toNat with
             | 0 => a = b | 1 => a ≠ b | 2 => a < b | 3 => a ≤ b | 4 => b < a | _ => b ≤ a))

/-- R72, R123, R125, R126, R142 to R144, R147: NOP changes no register; BALL and MOVW write one uniform register, MOVW where a
lane is active; PUSHB appends one value to bq, 0 where no lane is active, and what is ordered before its split goes with the entry
(R105); SETMD merges the lowest active lane's operands into
MD, or traps with MODE_VALUE; CLFL clears the named flags of the active lanes. That MODE_VALUE reports the merged MD in det1 is
a reading (log entry 17). -/
def Obligations.UniformAndModeWords : Prop :=
  (∀ s o x,
       (LReady s (.nop o) x → ∃ t G', exec (.nop o) s = .next t ∧ Retired s t x G'
           ∧ ∀ k, LaneSame (x.G.lane k) (G'.lane k))
       ∧ (LReady s (.ball o) x → ∃ t G' v, exec (.ball o) s = .next t ∧ WordOnly s t x G'
           ∧ G'.L.w = x.G.L.w.set (wdst x.o) v ∧ (∀ k, k < 32 → v.getLsbD k =
               (inMask x.act k && (x.G.lane k).p (x.o.aux.extractLsb' 0 3))) ∧ ∀ k, LaneSame (x.G.lane k) (G'.lane k))
       ∧ (LReady s (.movw o) x → ∃ t G', exec (.movw o) s = .next t ∧ WordOnly s t x G'
           ∧ (∀ l, lowestLane x.act = some l → G'.L.w = x.G.L.w.set (wdst x.o) (x.a .b64 l))
           ∧ (x.act = 0 → G'.L.w = x.G.L.w) ∧ ∀ k, LaneSame (x.G.lane k) (G'.lane k))
       ∧ (LReady s (.pushb o) x → x.G.S.bq.length < 16 → ∃ t G', exec (.pushb o) s = .next t
           ∧ t = { s.setGroup x.E.w x.E.g G' with late := t.late } ∧ SameWrites s t
           ∧ Passes s t x.who (.entry x.E.w x.E.g false x.G.S.bq.length)
           ∧ (∀ l, lowestLane x.act = some l → G'.S.bq = x.G.S.bq ++ [x.a .b64 l])
           ∧ (x.act = 0 → G'.S.bq = x.G.S.bq ++ [0]) ∧ ∀ k, LaneSame (x.G.lane k) (G'.lane k)))
  ∧ (∀ s o x,
       (LReady s (.setmd o) x → ∀ l, lowestLane x.act = some l →
         let v := (x.G.L.md &&& ~~~ (x.b .n16 l).setWidth 16) ||| ((x.a .n16 l).setWidth 16 &&& (x.b .n16 l).setWidth 16)
         (mdValid v = true → ∃ t G', exec (.setmd o) s = .next t ∧ WordOnly s t x G' ∧ G'.L.md = v
             ∧ ∀ k, LaneSame (x.G.lane k) (G'.lane k))
         ∧ (mdValid v = false → exec (.setmd o) s = .next (takeTrap s x.E.w x.E.g
             (x.info .modeValue .word x.p.mask 0 (v.setWidth 64)))))
       ∧ (LReady s (.clfl o) x → ∃ t G', exec (.clfl o) s = .next t ∧ WordOnly s t x G'
           ∧ ∀ k, (G'.lane k).regs = (x.G.lane k).regs ∧ (G'.lane k).preds = (x.G.lane k).preds
             ∧ (inMask x.act k = true → (G'.lane k).flags = (x.G.lane k).flags &&& ~~~ (x.a .b64 k).setWidth 5)
             ∧ (inMask x.act k = false → (G'.lane k).flags = (x.G.lane k).flags)))

/-- R129, R132, R133: JMP sends its split to its target. BRA does so where every lane of the split is active, goes on at the next word
where none is, and otherwise divides the split: the active lanes go to the target in a new split, the others to the next word. The new
split takes the lowest free entry; where none is free it goes to the tail of the overflow area; and where that is full the word traps
with SPLIT_OVERFLOW. -/
def Obligations.LaneBranches : Prop :=
  ∀ s o x, x.G.L.splits.length = 8 →
    let target := x.p.lpc + x.o.imm.signExtend 64
    (LReady s (.jmp o) x → ∃ t G', exec (.jmp o) s = .next t ∧ WordOnly s t x G'
        ∧ (G'.split x.e).lpc = target ∧ (G'.split x.e).mask = x.p.mask ∧ ∀ k, LaneSame (x.G.lane k) (G'.lane k))
    ∧ (LReady s (.bra o) x → x.p.mask &&& ~~~ x.act = 0 → ∃ t G', exec (.bra o) s = .next t
        ∧ t.group? x.E.w x.E.g = some G' ∧ (G'.split x.e).lpc = target ∧ (G'.split x.e).mask = x.p.mask ∧ OnlyWgs s t)
    ∧ (LReady s (.bra o) x → x.act = 0 → ∃ t G', exec (.bra o) s = .next t ∧ t.group? x.E.w x.E.g = some G'
        ∧ (G'.split x.e).lpc = x.p.lpc + 1 ∧ (G'.split x.e).mask = x.p.mask ∧ OnlyWgs s t)
    ∧ (LReady s (.bra o) x → x.act ≠ 0 → x.p.mask &&& ~~~ x.act ≠ 0 →
        ∀ n, n < 8 → (x.G.split n).st = .free → (∀ k, k < n → (x.G.split k).st ≠ .free) →
        ∃ t G', exec (.bra o) s = .next t ∧ t.group? x.E.w x.E.g = some G'
        ∧ (G'.split x.e).lpc = x.p.lpc + 1 ∧ (G'.split x.e).mask = x.p.mask &&& ~~~ x.act
        ∧ (G'.split n).lpc = target ∧ (G'.split n).mask = x.act ∧ (G'.split n).st = .ready ∧ OnlyWgs s t)
    ∧ (LReady s (.bra o) x → x.act ≠ 0 → x.p.mask &&& ~~~ x.act ≠ 0 → (∀ k, k < 8 → (x.G.split k).st ≠ .free) →
        (x.G.L.ovf.length < 56 → ∃ (t : State) (G' : Group) (q : Split), exec (.bra o) s = .next t ∧ t.group? x.E.w x.E.g = some G'
          ∧ (G'.split x.e).lpc = x.p.lpc + 1 ∧ (G'.split x.e).mask = x.p.mask &&& ~~~ x.act
          ∧ G'.L.ovf.map (fun p => (p.st, p.lpc, p.mask)) = x.G.L.ovf.map (fun p => (p.st, p.lpc, p.mask)) ++ [(q.st, q.lpc, q.mask)]
          ∧ q.lpc = target ∧ q.mask = x.act ∧ q.st = .ready ∧ (∀ k, k < 8 → k ≠ x.e → (G'.split k).mask = (x.G.split k).mask)
          ∧ OnlyWgs s t)
        ∧ (56 ≤ x.G.L.ovf.length → exec (.bra o) s =
            .next (takeTrap s x.E.w x.E.g (x.info .splitOverflow .word x.p.mask))))

/-- R129, R134 to R137: JOIN_ALL and LEND park their split, or merge it into one parked there in the same state: the lower entry is kept
with the lanes of both, the other is freed. A split that is then alone goes on, at LEND the block ends; where every live split is parked,
more than one, JOIN_MISMATCH follows, and SPLIT_OVERFLOW where splits are left in the overflow area. JOIN_ANY merges every ready split
whose next word it is into the lowest entry, which goes on. EXITL retires the active lanes for good, with their cursors closed, ending
the block where none is left, and releasing a parked split that is left alone. -/
def Obligations.JoinsAndEnds : Prop :=
  ∀ s o x, x.G.L.splits.length = 8 → x.e < 8 →
    let next := x.p.lpc + 1
    let lone := x.G.L.ovf = [] ∧ ∀ k, k < 8 → k ≠ x.e → (x.G.split k).mask = 0 ∧ (x.G.split k).st = .free
    let pair := fun e => x.G.L.ovf = [] ∧ ∀ k, k < 8 → k ≠ x.e → k ≠ e → (x.G.split k).mask = 0 ∧ (x.G.split k).st = .free
    let goes := fun k => k < 8 ∧ (x.G.split k).mask ≠ 0 ∧ ¬ Parked x.G k
    (LReady s (.joinAll o) x →
      (lone → ∃ t G', exec (.joinAll o) s = .next t ∧ t.group? x.E.w x.E.g = some G'
        ∧ EntryIs G' x.e .ready next x.p.mask ∧ G'.L.running = true)
      ∧ (NoneThere x .joinPark → (∃ k, k ≠ x.e ∧ goes k) → ∃ t G', exec (.joinAll o) s = .next t
        ∧ t.group? x.E.w x.E.g = some G' ∧ EntryIs G' x.e .joinPark next x.p.mask ∧ G'.L.running = true)
      ∧ ∀ e, ParkedThere x .joinPark e →
        (pair e → ∃ t G', exec (.joinAll o) s = .next t ∧ t.group? x.E.w x.E.g = some G'
          ∧ EntryIs G' (min e x.e) .ready next ((x.G.split e).mask ||| x.p.mask) ∧ Freed G' (max e x.e) ∧ G'.L.running = true)
        ∧ ((∃ k, k ≠ e ∧ k ≠ x.e ∧ goes k) → ∃ t G', exec (.joinAll o) s = .next t ∧ t.group? x.E.w x.E.g = some G'
          ∧ EntryIs G' (min e x.e) .joinPark next ((x.G.split e).mask ||| x.p.mask) ∧ Freed G' (max e x.e) ∧ G'.L.running = true))
    ∧ (LReady s (.lend o) x →
      (lone → ∃ t G', exec (.lend o) s = .next t ∧ t.group? x.E.w x.E.g = some G'
        ∧ G'.L.running = false ∧ G'.L.alive = x.G.L.alive)
      ∧ (NoneThere x .endPark → (∃ k, k ≠ x.e ∧ goes k) → ∃ t G', exec (.lend o) s = .next t
        ∧ t.group? x.E.w x.E.g = some G' ∧ EntryIs G' x.e .endPark next x.p.mask ∧ G'.L.running = true)
      ∧ ∀ e, ParkedThere x .endPark e →
        (pair e → ∃ t G', exec (.lend o) s = .next t ∧ t.group? x.E.w x.E.g = some G'
          ∧ G'.L.running = false ∧ G'.L.alive = x.G.L.alive)
        ∧ ((∃ k, k ≠ e ∧ k ≠ x.e ∧ goes k) → ∃ t G', exec (.lend o) s = .next t ∧ t.group? x.E.w x.E.g = some G'
          ∧ EntryIs G' (min e x.e) .endPark next ((x.G.split e).mask ||| x.p.mask) ∧ Freed G' (max e x.e) ∧ G'.L.running = true))
    ∧ (∀ i st, (i = .joinAll o ∧ st = .joinPark ∨ i = .lend o ∧ st = .endPark) → LReady s i x → NoneThere x st → TrapOpen x.E →
        (∀ k, k < 8 → (x.G.split k).stamp ≤ x.G.S.stamp) →
        (x.G.L.ovf = [] → (∃ k, k < 8 ∧ k ≠ x.e ∧ (x.G.split k).mask ≠ 0) →
          (∀ k, k < 8 → k ≠ x.e → (x.G.split k).mask ≠ 0 → Parked x.G k) → ∃ t G', exec i s = .next t
            ∧ t.group? x.E.w x.E.g = some G' ∧ ParkTrap x G' .joinMismatch)
        ∧ (x.G.L.ovf ≠ [] → (∀ k, k < 8 → k ≠ x.e → Parked x.G k) → ∃ t G', exec i s = .next t
            ∧ t.group? x.E.w x.E.g = some G' ∧ ParkTrap x G' .splitOverflow))
    ∧ (LReady s (.joinAny o) x → ∀ lo, lo < 8 → JoinsHere x lo → (∀ k, k < lo → ¬ JoinsHere x k) →
        ∃ t G' m, exec (.joinAny o) s = .next t ∧ t.group? x.E.w x.E.g = some G' ∧ EntryIs G' lo .ready next m
          ∧ (∀ i, inMask m i = true ↔ ∃ e, e < 8 ∧ JoinsHere x e ∧ inMask (x.G.split e).mask i = true)
          ∧ (∀ e, e < 8 → JoinsHere x e → e ≠ lo → Freed G' e)
          ∧ ∀ e, e < 8 → ¬ JoinsHere x e → EntryIs G' e (x.G.split e).st (x.G.split e).lpc (x.G.split e).mask)
    ∧ (LReady s (.exitl o) x →
        (lone → x.act = x.p.mask → ∃ t G', exec (.exitl o) s = .next t ∧ t.group? x.E.w x.E.g = some G'
          ∧ G'.L.running = false ∧ G'.L.alive = x.G.L.alive &&& ~~~ x.act
          ∧ ∀ k, inMask x.act k = true → (G'.lane k).cur = [none, none, none, none])
        ∧ (∀ e, e < 8 → e ≠ x.e → pair e → (x.G.split e).mask ≠ 0 → (x.G.split e).st = .joinPark → x.act = x.p.mask →
          ∃ t G', exec (.exitl o) s = .next t ∧ t.group? x.E.w x.E.g = some G'
          ∧ EntryIs G' e .ready (x.G.split e).lpc (x.G.split e).mask ∧ Freed G' x.e ∧ G'.L.running = true
          ∧ G'.L.alive = x.G.L.alive &&& ~~~ x.act)
        ∧ (x.p.mask &&& ~~~ x.act ≠ 0 → x.act ≠ 0 → ∃ t G', exec (.exitl o) s = .next t
          ∧ t.group? x.E.w x.E.g = some G' ∧ (G'.split x.e).mask = x.p.mask &&& ~~~ x.act ∧ (G'.split x.e).lpc = next
          ∧ G'.L.alive = x.G.L.alive &&& ~~~ x.act ∧ ∀ k, inMask x.act k = true → (G'.lane k).cur = [none, none, none, none])
        ∧ (x.act = 0 → ∃ t G', exec (.exitl o) s = .next t ∧ t.group? x.E.w x.E.g = some G' ∧ (G'.split x.e).lpc = next
          ∧ G'.L.alive = x.G.L.alive))

/-- R129, R138: YLD waits for every sibling that is ready, and only goes on where none is. YLD_RETURN brings the split back once each of
them has issued, parked, ended or overflowed; one that a debugger holds is still waited for (log entry 51), and one that has merged into
another entry is not (log entry 60). SPLIT_RELOAD takes the head of the overflow area into the lowest free entry. -/
def Obligations.YieldAndReload : Prop :=
  (∀ s o x, LReady s (.yld o) x → (∀ k, k < 8 → ¬ Sibling x k) → ∃ t G', exec (.yld o) s = .next t
      ∧ WordOnly s t x G' ∧ (G'.split x.e).lpc = x.p.lpc + 1 ∧ (G'.split x.e).st = .ready)
  ∧ (∀ s o x n, LReady s (.yld o) x → n < 8 → Sibling x n → x.e < x.G.L.splits.length → ∃ t G',
      exec (.yld o) s = .next t ∧ WordOnly s t x G' ∧ (G'.split x.e).lpc = x.p.lpc + 1
      ∧ (G'.split x.e).st = .yielded ∧ ∀ k, k < 8 → ((G'.split x.e).yield.getLsbD k = true ↔ Sibling x k))
  ∧ (∀ s w g e E, envAt s w g = some E → E.issues = true → (E.G.split e).st = .yielded →
      let waits := fun k => k < 8 ∧ (E.G.split e).yield.getLsbD k = true ∧ ((E.G.split k).st = .ready ∨ (E.G.split k).st = .held)
      ((∀ k, ¬ waits k) → exec (.yldReturn w g e) s =
        .next (s.modGroup w g fun G => G.modSplit e fun p => { p with st := .ready, yield := 0 }))
      ∧ (∀ k, waits k → exec (.yldReturn w g e) s = .next s))
  ∧ (∀ (G : Group) (e k : Nat), (G.moved e).split k =
      if k < G.L.splits.length then { G.split k with yield := (G.split k).yield &&& ~~~ (1#8 <<< e) } else G.split k)
  ∧ ∀ s w g e E p rest, envAt s w g = some E → E.issues = true → e < 8 → (E.G.split e).st = .free →
      (∀ k, k < e → (E.G.split k).st ≠ .free) → E.G.L.ovf = p :: rest →
      e < E.G.L.splits.length →
      ∃ t G', exec (.splitReload w g) s = .next t ∧ t.group? w g = some G' ∧ G'.L.ovf = rest ∧ (G'.split e).mask = p.mask
        ∧ (G'.split e).lpc = p.lpc ∧ (G'.split e).st = (if p.st = .yielded then .ready else p.st)


/-! ### Scratchpad and table words -/

/-- R156 to R159, R204: a scratchpad word one of whose active lanes lies outside the allotment traps with SCR_RANGE on the lanes that do;
else one of whose lanes is misaligned traps with SCR_ALIGN on those, and a `.cas128` all of whose misaligned lanes are 8 modulo 16 with
ATOM_ALIGN; all before any effect. LDS loads what each active lane's bytes hold, little-endian, widened by the type's signedness or in as
many registers as it has doublewords, where no write of the allotment is on its way. STS stores every active lane's bytes, those of the
highest lane where lanes overlap, and no others. ATS takes its active lanes in ascending order: each makes of the value that it finds
what its kind says, `.fadd` the nearest value of the format to the sum, changes no other byte, and delivers what it found. -/
def Obligations.ScratchWords : Prop :=
  (∀ s i x o n z cas, scrForm i = some (o, n, z, cas) → LReady s i x →
       let out := fun k => inMask x.act k = true ∧ (scrAddr x k < 0 ∨ (x.E.W.size : Int) < scrAddr x k + (n : Nat))
       let off := fun k => inMask x.act k = true ∧ scrAddr x k % (z : Nat) ≠ 0
       ((∃ k, out k) → TrapsOn i s x .scrRange out)
       ∧ ((∀ k, ¬ out k) → (∃ k, off k) → cas = false → TrapsOn i s x .scrAlign off)
       ∧ ((∀ k, ¬ out k) → (∃ k, off k ∧ scrAddr x k % 16 ≠ 8) → cas = true →
           TrapsOn i s x .scrAlign fun k => off k ∧ scrAddr x k % 16 ≠ 8)
       ∧ ((∀ k, ¬ out k) → (∃ k, off k) → (∀ k, off k → scrAddr x k % 16 = 8) → cas = true → TrapsOn i s x .atomAlign off))
  ∧ (∀ s o x, LReady s (.lds o) x → ScratchOk x (accBytes x.o) (tyBytes x.o.ty) → ∃ t G', exec (.lds o) s = .next t
       ∧ ReadGroup s t x.E.w x.E.g
       ∧ t.group? x.E.w x.E.g = some G' ∧ LaneKept x.G G' ∧ (G'.split x.e).lpc = x.p.lpc + 1
       ∧ (∀ k, inMask x.act k = true → (G'.lane k).preds = (x.G.lane k).preds ∧ (G'.lane k).flags = (x.G.lane k).flags)
       ∧ (Settled s (.scratch x.E.w) → ∀ k, inMask x.act k = true →
           (x.o.var = 0 → tyBytes x.o.ty < 8 → (G'.lane k).regs = (x.G.lane k).regs.set x.o.vd.toNat
             (valueAt x.E.W.scratch (scrAddr x k).toNat (tyBytes x.o.ty) (tySigned x.o.ty)))
           ∧ (tyBytes x.o.ty = 8 → k < x.G.lanes.length →
             (∀ r, r ≤ x.o.var.toNat → x.o.vd.toNat + r < (x.G.lane k).regs.length → (G'.lane k).r (x.o.vd.toNat + r)
                = BitVec.ofNat 64 (memNat x.E.W.scratch ((scrAddr x k).toNat + 8 * r) 8))
             ∧ ∀ n, n < x.o.vd.toNat ∨ x.o.vd.toNat + x.o.var.toNat < n → (G'.lane k).r n = (x.G.lane k).r n))
       ∧ ∀ k, inMask x.act k = false → LaneSame (x.G.lane k) (G'.lane k))
  ∧ (∀ s o x, LReady s (.sts o) x → ScratchOk x (accBytes x.o) (tyBytes x.o.ty) → memWf x.E.W.scratch = true →
       ∃ t W' G', exec (.sts o) s = .next t ∧ t.wgs[x.E.w]? = some W' ∧ t.group? x.E.w x.E.g = some G'
         ∧ (G'.split x.e).lpc = x.p.lpc + 1 ∧ t.mem = s.mem ∧ t.drv = s.drv ∧ t.jobs = s.jobs ∧ t.cores = s.cores
         ∧ (∀ k a, StoresAt x k a → (∀ j, k < j → ¬ StoresAt x j a) →
             memGet W'.scratch a = (storeBytes x k).getD (a - (scrAddr x k).toNat) 0)
         ∧ (∀ a, (∀ k, ¬ StoresAt x k a) → memGet W'.scratch a = memGet x.E.W.scratch a)
         ∧ ∀ i, LaneSame (x.G.lane i) (G'.lane i))
  ∧ (∀ s o x, LReady s (.ats o) x → ScratchOk x (atomBytes x.o) (atomBytes x.o) → memWf x.E.W.scratch = true →
       ∃ t W' G' M, exec (.ats o) s = .next t ∧ t.wgs[x.E.w]? = some W' ∧ t.group? x.E.w x.E.g = some G'
         ∧ (G'.split x.e).lpc = x.p.lpc + 1 ∧ t.mem = s.mem ∧ t.drv = s.drv ∧ t.jobs = s.jobs ∧ t.cores = s.cores
         ∧ (∀ k, inMask x.act k = false → LaneSame (x.G.lane k) (G'.lane k))
         ∧ LaneSteps x G' (atomBytes x.o) (fun k => (scrAddr x k).toNat) M
         ∧ M 0 = x.E.W.scratch ∧ W'.scratch = M (lanesOf x.act).length)

/-- R160, R264, R267: WAITGE looks at the value of each active lane, widened by the type's signedness. Where every one is at or above its
bound, the word completes and each lane's VD receives the value; its split has read the granule as it is, and with `.acq` what the last
write of it hands on at the scope is ordered before the split. Otherwise the split is held, what the satisfied lanes have seen is kept,
and every write of the allotment looks again for the others; the uq entry that the word has taken is kept with it (log entry 57).
WAITGE_RECHECK completes the word once every lane has seen its value, which its VD receives. -/
def Obligations.WaitOnValue : Prop :=
  (∀ s o x, LReady s (.waitge o) x → ScratchOk x (tyBytes x.o.ty) (tyBytes x.o.ty) →
      let see := fun k => looked s.ctl.writes x.E.W.scratch (waitOf x k)
      let c := x.E.scopeAt (x.o.aux.extractLsb' 2 3).toNat
      ((∀ k, inMask x.act k = true → (see k).seen.isSome = true) →
        ∃ t G', exec (.waitge o) s = .next t ∧ OrderedGroup s t x.E.w x.E.g x.E.W.coreNo ∧ t.group? x.E.w x.E.g = some G'
          ∧ (G'.split x.e).lpc = x.p.lpc + 1 ∧ (G'.split x.e).wait = .none ∧ SameWrites s t
          ∧ (0 < tyBytes x.o.ty → ∀ k n, inMask x.act k = true → LastWrite s x.E (.scratch (scrAddr x k).toNat) n →
              (∃ l ∈ t.late, l.space = .scratch x.E.w ∧ l.unit = (scrAddr x k).toNat / 8 ∧ l.id = n
                ∧ (⟨x.who, .read⟩ : Known) ∈ l.known)
              ∧ (x.o.aux.extractLsb' 0 2 = 1 → ∀ v, v = none ∨ v = some c →
                  Turned s t (.write n) x.who (.order v) (.order (some c))))
          ∧ (∀ k, inMask x.act k = true → (G'.lane k).regs = (x.G.lane k).regs.set x.o.vd.toNat
              (valueAt x.E.W.scratch (scrAddr x k).toNat (tyBytes x.o.ty) (tySigned x.o.ty)))
          ∧ ∀ k, inMask x.act k = false → LaneSame (x.G.lane k) (G'.lane k))
      ∧ (∀ k, inMask x.act k = true → (see k).seen = none → x.e < x.G.L.splits.length →
        ∃ t G', exec (.waitge o) s = .next t ∧ WordOnly s t x G' ∧ (G'.split x.e).lpc = x.p.lpc
          ∧ (G'.split x.e).wait = .waitge ((lanesOf x.act).map see) (if popsUq x.o then x.G.S.uq.head? else none)
          ∧ ∀ k, LaneSame (x.G.lane k) (G'.lane k)))
  ∧ (∀ (W : Wg) (n a : Nat) (bs : List Byte) (g e : Nat) (G : Group) (qs : List WaitLane) (v : Option W64), W.groups[g]? = some G
        → (G.split e).wait = .waitge qs v →
      ∃ G', (W.write n a bs).groups[g]? = some G' ∧ (W.write n a bs).scratch = memWrite W.scratch a bs
        ∧ (G'.split e).wait = .waitge (qs.map (looked n (memWrite W.scratch a bs))) v)
  ∧ ∀ s w g e E o qs v, envAt s w g = some E → E.issues = true → E.G.L.running = true → (E.G.split e).st = .ready →
      (E.G.split e).wait = .waitge qs v → (∀ q ∈ qs, q.seen.isSome = true) →
      decodeL E.K.header.lregs (E.K.lcode.getD (E.G.split e).lpc.toNat 0) = .ok (.waitge o) →
      ∃ t G', exec (.waitgeRecheck w g e) s = .next t ∧ OrderedGroup s t w g E.W.coreNo ∧ t.group? w g = some G'
        ∧ (G'.split e).wait = .none ∧ (G'.split e).lpc = (E.G.split e).lpc + 1
        ∧ (∀ k q z, qs.find? (fun q => q.lane == k) = some q → q.seen = some z → k < E.G.lanes.length →
            (G'.lane k).regs = (E.G.lane k).regs.set o.vd.toNat z)
        ∧ ∀ k, (∀ q ∈ qs, q.lane ≠ k) → LaneSame (E.G.lane k) (G'.lane k)

/-- R77, R78, R180 to R183, R187, R188: KFIND gives the row id of each active lane's key and a true predicate, or 0 and a false one. KLD
loads, on each active lane, the bytes of its row, widened or in as many registers as it has doublewords: those that stand at home,
where the core keeps no copy and no write to the table is on its way. The .xc form reads a cell at home as the nearest f32, or by its
status bits. No table's bytes change. -/
def Obligations.TableReads : Prop :=
  (∀ s o x b, LReady s (.kfind o) x → TableOk x s false (fun _ => true) 0 1 b →
       (∀ i r, inMask x.act i = true → b.t.rowOf false (tabKey x b.t.desc.k128 i) = .ok r →
         RowsOpen s b.v b.t x.E.world .rd r.addr 1) →
       ∃ t G', exec (.kfind o) s = .next t ∧ ReadTable s t x.E.w x.E.g x.E.W.coreNo b.v ∧ t.group? x.E.w x.E.g = some G'
         ∧ (G'.split x.e).lpc = x.p.lpc + 1
         ∧ (∀ i, inMask x.act i = true → i < x.G.lanes.length →
             (∀ r, b.t.rowOf false (tabKey x b.t.desc.k128 i) = .ok r → (G'.lane i).regs = (x.G.lane i).regs.set x.o.vd.toNat r.rid
               ∧ (G'.lane i).p (x.o.aux.extractLsb' 0 3) = true)
             ∧ (∀ c, b.t.rowOf false (tabKey x b.t.desc.k128 i) = .error c → (G'.lane i).regs = (x.G.lane i).regs.set x.o.vd.toNat 0
               ∧ (x.o.aux.extractLsb' 0 3 ≠ 7 → (G'.lane i).p (x.o.aux.extractLsb' 0 3) = false)))
         ∧ ∀ i, inMask x.act i = false → LaneSame (x.G.lane i) (G'.lane i))
  ∧ (∀ s o x b (R : Nat → Row), LReady s (.kld o) x →
       (x.o.var ≠ 4 → TableOk x s false (fun _ => true) (tabBytes x.o) (tabAlign x.o) b →
         (∀ i, inMask x.act i = true → LaneRow x s b (tabOff x.o) (tabBytes x.o) .rd true i (R i)) →
         ∃ t G', exec (.kld o) s = .next t ∧ ReadTable s t x.E.w x.E.g x.E.W.coreNo b.v ∧ t.group? x.E.w x.E.g = some G'
           ∧ (G'.split x.e).lpc = x.p.lpc + 1 ∧ (∀ i, inMask x.act i = false → LaneSame (x.G.lane i) (G'.lane i))
           ∧ (∀ i, (G'.lane i).preds = (x.G.lane i).preds)
           ∧ ((s.core x.E.W.coreNo).cache = [] → Settled s (.rows b.v) → 0 < tabBytes x.o → ∀ i, inMask x.act i = true →
               let a := (R i).addr + tabOff x.o
               (tabBytes x.o ≤ 8 → (G'.lane i).regs = (x.G.lane i).regs.set x.o.vd.toNat
                 (valueAt b.t.rows a (tabBytes x.o) (tySigned x.o.ty)))
               ∧ (8 < tabBytes x.o → i < x.G.lanes.length →
                 (∀ j, 8 * j < tabBytes x.o → x.o.vd.toNat + j < (x.G.lane i).regs.length →
                   (G'.lane i).r (x.o.vd.toNat + j) = BitVec.ofNat 64 (memNat b.t.rows (a + 8 * j) 8))
                 ∧ ∀ n, n < x.o.vd.toNat ∨ x.o.vd.toNat + tabBytes x.o / 8 ≤ n → (G'.lane i).r n = (x.G.lane i).r n)))
       ∧ (x.o.var = 4 → TableOk x s false (fun b => b.t.desc.isCell (tabOff x.o)) 40 1 b →
         (∀ i, inMask x.act i = true → LaneRow x s b (tabOff x.o) 40 .rd true i (R i)) →
         ∃ t G', exec (.kld o) s = .next t ∧ ReadTable s t x.E.w x.E.g x.E.W.coreNo b.v ∧ t.group? x.E.w x.E.g = some G'
           ∧ (G'.split x.e).lpc = x.p.lpc + 1
           ∧ (∀ i, inMask x.act i = true → ∃ v, ReadsCell (memNat b.t.rows ((R i).addr + tabOff x.o) 40) v
               ∧ (G'.lane i).regs = (x.G.lane i).regs.set x.o.vd.toNat v)
           ∧ ∀ i, inMask x.act i = false → LaneSame (x.G.lane i) (G'.lane i)))

/-- R180, R189: KST stores every active lane's bytes in its row at home, those of the highest lane where lanes overlap; every other byte
of the table, every other table, and every register stay. -/
def Obligations.TableStore : Prop :=
  ∀ s o x b (R : Nat → Row), LReady s (.kst o) x → TableOk x s true (fun _ => true) (tabBytes x.o) (tabAlign x.o) b →
    x.o.ty ≠ .none → (∀ i, inMask x.act i = true → LaneRow x s b (tabOff x.o) (tabBytes x.o) .wr false i (R i)) →
    memWf b.t.rows = true →
    ∃ t G' T', exec (.kst o) s = .next t ∧ t.group? x.E.w x.E.g = some G' ∧ (G'.split x.e).lpc = x.p.lpc + 1
      ∧ (∀ i, LaneSame (x.G.lane i) (G'.lane i)) ∧ t.jobs = s.jobs ∧ t.drv = s.drv ∧ t.reds = s.reds
      ∧ t.table? b.v = some T' ∧ T' = { b.t with rows := T'.rows, bad := T'.bad } ∧ (∀ v, v ≠ b.v → t.table? v = s.table? v)
      ∧ (∀ k a, RowStoresAt x R k a → (∀ j, k < j → ¬ RowStoresAt x R j a) →
          memGet T'.rows a = (storeBytes x k).getD (a - ((R k).addr + tabOff x.o)) 0)
      ∧ ∀ a, (∀ k, ¬ RowStoresAt x R k a) → memGet T'.rows a = memGet b.t.rows a

/-- R168, R169, R171, R184, R190, R191: KINS of one lane whose key is absent, with room in the index, makes a row: its entry joins the
index, the row is zero but for the data that the word brings, every other row stays, and the lane gets the row id, and true in the
predicate form; where the key is there, the predicate form gives its row id and false, and changes nothing. KDEL of one lane takes the
entry of its key or row id out of the index; its row is live no longer, every other row stays, and the predicate form gives true; where
the key is absent, nothing changes and the predicate form gives false. With no active lane both only go on. -/
def Obligations.InsertAndDelete : Prop :=
  (∀ s o x b, LReady s (.kins o) x → TableOk x s true indexed (tabBytes x.o) (tabAlign x.o) b →
      SlabOpen s b.v b.t x.E.world .wr b.t.desc.owner 0 (2 ^ 64 - 1) →
      (x.act = 0 → ∃ t G', exec (.kins o) s = .next t ∧ ReadTable s t x.E.w x.E.g x.E.W.coreNo b.v
        ∧ t.group? x.E.w x.E.g = some G' ∧ (G'.split x.e).lpc = x.p.lpc + 1 ∧ ∀ i, LaneSame (x.G.lane i) (G'.lane i))
      ∧ ∀ k, lanesOf x.act = [k] → k < x.G.lanes.length →
        let key := tabKey x b.t.desc.k128 k
        let data := if x.o.ty = .none then [] else storeBytes x k
        ((b.t.desc.unique = true → ∀ e ∈ b.t.entries, e.1 ≠ key) → Room b.t → IndexSound b.t → memWf b.t.rows = true →
          ∃ t G' T' rid r, exec (.kins o) s = .next t ∧ t.group? x.E.w x.E.g = some G' ∧ (G'.split x.e).lpc = x.p.lpc + 1
            ∧ (G'.lane k).regs = (x.G.lane k).regs.set x.o.vd.toNat rid
            ∧ (x.o.aux.getLsbD 3 = true → (G'.lane k).p (x.o.aux.extractLsb' 0 3) = true)
            ∧ t.table? b.v = some T' ∧ T'.desc = b.t.desc ∧ (∀ v, v ≠ b.v → t.table? v = s.table? v) ∧ t.drv = s.drv ∧ t.jobs = s.jobs
            ∧ (∀ e, e ∈ T'.entries ↔ e ∈ b.t.entries ∨ e = (key, rid))
            ∧ b.t.liveRow rid = none ∧ T'.liveRow rid = some r ∧ (∀ q p, b.t.liveRow q = some p → T'.liveRow q = some p)
            ∧ (∀ a, r.addr ≤ a → a < r.addr + b.t.desc.width → memGet T'.rows a =
                if r.addr + tabOff x.o ≤ a then data.getD (a - (r.addr + tabOff x.o)) 0 else 0)
            ∧ ∀ a, a < r.addr ∨ r.addr + b.t.desc.width ≤ a → memGet T'.rows a = memGet b.t.rows a)
        ∧ (b.t.desc.unique = true → x.o.aux.getLsbD 3 = true → ∀ e, b.t.entries.find? (fun e => e.1 == key) = some e →
          ∃ t G', exec (.kins o) s = .next t ∧ ReadTable s t x.E.w x.E.g x.E.W.coreNo b.v ∧ t.group? x.E.w x.E.g = some G'
            ∧ (G'.split x.e).lpc = x.p.lpc + 1 ∧ (G'.lane k).regs = (x.G.lane k).regs.set x.o.vd.toNat e.2
            ∧ (x.o.aux.extractLsb' 0 3 ≠ 7 → (G'.lane k).p (x.o.aux.extractLsb' 0 3) = false)))
  ∧ (∀ s o x b, LReady s (.kdel o) x → TableOk x s true indexed 0 1 b →
      (x.act = 0 → ∃ t G', exec (.kdel o) s = .next t ∧ ReadTable s t x.E.w x.E.g x.E.W.coreNo b.v
        ∧ t.group? x.E.w x.E.g = some G' ∧ (G'.split x.e).lpc = x.p.lpc + 1 ∧ ∀ i, LaneSame (x.G.lane i) (G'.lane i))
      ∧ ∀ k, lanesOf x.act = [k] → k < x.G.lanes.length →
        let key := tabKey x b.t.desc.k128 k
        (tabRid x.o = false → (∀ e ∈ b.t.entries, e.1 ≠ key) →
          ∃ t G', exec (.kdel o) s = .next t ∧ ReadTable s t x.E.w x.E.g x.E.W.coreNo b.v ∧ t.group? x.E.w x.E.g = some G'
            ∧ (G'.split x.e).lpc = x.p.lpc + 1 ∧ (G'.lane k).regs = (x.G.lane k).regs
            ∧ (x.o.aux.getLsbD 3 = true → x.o.aux.extractLsb' 0 3 ≠ 7 → (G'.lane k).p (x.o.aux.extractLsb' 0 3) = false))
        ∧ ∀ e r, (if tabRid x.o then b.t.liveRow (key.setWidth 64) = some r ∧ b.t.entries.find? (fun e => e.2 == r.rid) = some e
            else b.t.entries.find? (fun e => e.1 == key) = some e ∧ b.t.liveRow e.2 = some r) →
          RowsOpen s b.v b.t x.E.world .wr r.addr 1 →
          ∃ t G' T', exec (.kdel o) s = .next t ∧ t.group? x.E.w x.E.g = some G' ∧ (G'.split x.e).lpc = x.p.lpc + 1
            ∧ (G'.lane k).regs = (x.G.lane k).regs
            ∧ (x.o.aux.getLsbD 3 = true → (G'.lane k).p (x.o.aux.extractLsb' 0 3) = true)
            ∧ t.table? b.v = some T' ∧ T'.desc = b.t.desc ∧ T'.rows = b.t.rows ∧ (∀ v, v ≠ b.v → t.table? v = s.table? v)
            ∧ t.drv = s.drv ∧ t.jobs = s.jobs
            ∧ (b.t.entries.Nodup → ∀ d, d ∈ T'.entries ↔ d ∈ b.t.entries ∧ d ≠ e)
            ∧ T'.liveRow e.2 = none ∧ ∀ q p, q ≠ e.2 → b.t.liveRow q = some p → T'.liveRow q = some p)

/-- R192 to R195: KSEEK opens the named cursor of each active lane with its bounds; KNEXT returns the first entry in index order after
the last one returned and within the bounds: its row id, in the .wk form its key too, true, and the cursor keeps it as its last one; or
0 and false, and the cursor stays, where there is none; KCLOSE closes the cursor. None of them changes a table. -/
def Obligations.Cursors : Prop :=
  (∀ s o x b, LReady s (.kseek o) x → TableOk x s false (seekOk x) 0 1 b → (b.t.desc.k128 = true → isPair x x.o.b = true) →
      SlabOpen s b.v b.t x.E.world .rd b.t.desc.owner 0 (2 ^ 64 - 1) →
      (∀ i, inMask x.act i = true → (x.G.lane i).cursor (curNo x.o) = none) →
      ∃ t G', exec (.kseek o) s = .next t ∧ ReadTable s t x.E.w x.E.g x.E.W.coreNo b.v ∧ t.group? x.E.w x.E.g = some G'
        ∧ (G'.split x.e).lpc = x.p.lpc + 1
        ∧ (∀ i, (G'.lane i).regs = (x.G.lane i).regs ∧ (G'.lane i).preds = (x.G.lane i).preds)
        ∧ ∀ i, inMask x.act i = true → i < x.G.lanes.length → (x.G.lane i).cur.length = 4 →
          (G'.lane i).cursor (curNo x.o) = some
            { slot := tabSlot x.o, version := b.v, lo := tabKey x b.t.desc.k128 i, last := none
              hi := if b.t.desc.k128 then (x.G.lane i).r (regNo x.o.b + 1) ++ (x.G.lane i).r (regNo x.o.b)
                    else (x.b .n64 i).setWidth 128 })
  ∧ (∀ s o x (C : Nat → Cursor) (T : Nat → Table), LReady s (.knext o) x →
      (∀ i, inMask x.act i = true → (x.G.lane i).cursor (curNo x.o) = some (C i) ∧ s.table? (C i).version = some (T i)) →
      (x.o.var = 1 → x.o.vd.toNat + 3 ≤ x.E.K.header.lregs ∨ ∀ i, inMask x.act i = true → (T i).desc.k128 = false) →
      (∀ i e r, inMask x.act i = true → IsNext (T i) (C i) e → (T i).liveRow e.2 = some r →
        RowsOpen s (C i).version (T i) x.E.world .rd r.addr 1) →
      ∃ t G', exec (.knext o) s = .next t ∧ WordOnly s t x G' ∧ (G'.split x.e).lpc = x.p.lpc + 1
        ∧ (∀ i e, inMask x.act i = true → i < x.G.lanes.length → (x.G.lane i).cur.length = 4 → IsNext (T i) (C i) e →
            (G'.lane i).cursor (curNo x.o) = some { C i with last := some e } ∧ (G'.lane i).p (x.o.aux.extractLsb' 2 3) = true
            ∧ let one := (x.G.lane i).regs.set x.o.vd.toNat e.2
              let two := one.set (x.o.vd.toNat + 1) (e.1.setWidth 64)
              (G'.lane i).regs = if x.o.var = 1 then
                  (if (T i).desc.k128 then two.set (x.o.vd.toNat + 2) (e.1.extractLsb' 64 64) else two) else one)
        ∧ (∀ i, inMask x.act i = true → i < x.G.lanes.length → (∀ e ∈ (T i).entries, ¬ InReach (T i) (C i) e) →
            (G'.lane i).cursor (curNo x.o) = some (C i) ∧ (G'.lane i).regs = (x.G.lane i).regs.set x.o.vd.toNat 0
            ∧ (x.o.aux.extractLsb' 2 3 ≠ 7 → (G'.lane i).p (x.o.aux.extractLsb' 2 3) = false))
        ∧ ∀ i, inMask x.act i = false → LaneSame (x.G.lane i) (G'.lane i))
  ∧ ∀ s o x, LReady s (.kclose o) x → ∃ t G', exec (.kclose o) s = .next t ∧ WordOnly s t x G'
        ∧ (G'.split x.e).lpc = x.p.lpc + 1
        ∧ (∀ i, inMask x.act i = true → (x.G.lane i).cur.length = 4 → (G'.lane i).cursor (curNo x.o) = none)
        ∧ ∀ i, (G'.lane i).regs = (x.G.lane i).regs ∧ (G'.lane i).preds = (x.G.lane i).preds

/-- R77, R78, R197 to R201: KAT takes its active lanes in ascending order: each makes of the value that it finds at home what its kind says,
or adds an f32 to an exact cell, and what it found comes back but for cells; no byte but its lanes' units changes, and of the errors
that it meets there those that can be corrected are, and are logged (R372). Off its alignment it traps with ATOM_ALIGN. SCAT, whose
`.xadd` needs exact cells, sends one reduction for each distinct address, with its lanes' operands combined in lane order, and changes
no table; a reduction whose element checks out is combined with its element at home, changes no other byte, and leaves the list; one
that fails leaves an entry in its group's record and changes no table. -/
def Obligations.RowAtomics : Prop :=
  (∀ s o x b (R : Nat → Row), LReady s (.kat o) x →
       TableOk x s true (fun b => !(x.o.var == 11) || b.t.desc.isCell (tabOff x.o)) (katBytes x.o)
         (if x.o.var = 11 then 1 else katBytes x.o) b →
       (∀ i, inMask x.act i = true → LaneRow x s b (tabOff x.o) (katBytes x.o) .at_ true i (R i)) → memWf b.t.rows = true →
       ∃ t G' T', exec (.kat o) s = .next t ∧ t.group? x.E.w x.E.g = some G' ∧ (G'.split x.e).lpc = x.p.lpc + 1
         ∧ t.jobs = s.jobs ∧ t.reds = s.reds ∧ (∀ v, v ≠ b.v → t.table? v = s.table? v)
         ∧ (∃ log, t.drv = { s.drv with log := s.drv.log ++ log } ∧ (b.t.weak = [] → log = []))
         ∧ t.table? b.v = some T' ∧ T' = { b.t with rows := T'.rows, bad := T'.bad, weak := T'.weak }
         ∧ (∀ i, inMask x.act i = false → LaneSame (x.G.lane i) (G'.lane i))
         ∧ (∀ a, (∀ k, ¬ UnitAt x R k a) → memGet T'.rows a = memGet b.t.rows a)
         ∧ ∃ M : Nat → Mem, M 0 = b.t.rows ∧ M (lanesOf x.act).length = T'.rows
             ∧ (x.o.var ≠ 11 → (∀ k, inMask x.act k = true → k < x.G.lanes.length) →
                 LaneSteps x G' (katBytes x.o) (fun k => (R k).addr + tabOff x.o) M)
             ∧ (x.o.var = 11 → ∀ j k, (lanesOf x.act)[j]? = some k →
                 let a := (R k).addr + tabOff x.o
                 let add := cellUnits (subElem 32 (x.b .f32 k) 0)
                 CellSum (memNat (M (j + 1)) a 40) (memNat (M j) a 40) add.1 add.2
                 ∧ (∀ y, y < a ∨ a + 40 ≤ y → memGet (M (j + 1)) y = memGet (M j) y) ∧ (G'.lane k).regs = (x.G.lane k).regs))
  ∧ (∀ s o x b, LReady s (.kat o) x → slotOf s x.E.La (tabSlot x.o) = .bound b → b.ro = false → x.o.var ≠ 11 →
       (b.t.desc.k128 = true → tabRid x.o = false → isPair x x.o.a = true) → tabOff x.o + katBytes x.o ≤ b.t.desc.width →
       tabOff x.o % katBytes x.o ≠ 0 → ∃ ti, exec (.kat o) s = .next (takeTrap s x.E.w x.E.g ti)
         ∧ ti.cause = .atomAlign ∧ ti.kind = .word)
  ∧ (∀ s o x b, LReady s (.scat o) x → slotOf s x.E.La (tabSlot x.o) = .bound b → b.ro = false →
       (x.o.var = 4 → InExact x b) →
       (b.t.desc.k128 = true → tabRid x.o = false → isPair x x.o.a = true) →
       ∃ t G' rs, exec (.scat o) s = .next t ∧ t.group? x.E.w x.E.g = some G' ∧ (G'.split x.e).lpc = x.p.lpc + 1
         ∧ t.mem = s.mem ∧ t.drv = s.drv ∧ t.jobs = s.jobs ∧ t.reds = s.reds ++ rs
         ∧ (rs.map (·.leader)).Pairwise (· < ·)
         ∧ (∀ l, l ∈ rs.map (·.leader) ↔ inMask x.act l = true ∧ ∀ k, k < l → inMask x.act k = true → ¬ SameAddr x b k l)
         ∧ (∀ r ∈ rs, SentBy x b r.leader r) ∧ ∀ i, LaneSame (x.G.lane i) (G'.lane i))
  ∧ (∀ s n r E T, s.reds[n]? = some r → envAt s r.wg r.group = some E → s.table? r.version = some T →
        (∀ q ∈ s.reds.take n, q.wg = r.wg → q.group = r.group → sameElement s q r = false) →
       (∀ row, let size := if r.kind = 4 then 40 else tyBytes r.ty
         let a := row.addr + r.off
         r.off + size ≤ T.desc.width → (if r.kind = 4 then T.desc.isCell r.off = true else r.off % size = 0) →
         T.rowOf r.byRid r.key = .ok row → RowsOpen s r.version T E.world .at_ a size → NoBad T a size → memWf T.rows = true →
         ∃ t T', exec (.reductionApply n) s = .next t ∧ t.reds = s.reds.eraseIdx n ∧ t.table? r.version = some T'
           ∧ T' = { T with rows := T'.rows, weak := T'.weak } ∧ (∀ v, v ≠ r.version → t.table? v = s.table? v)
           ∧ memNat T'.rows a size = combine r.kind.toNat r.ty (memNat T.rows a size) (bytesToNat r.value) % 2 ^ (8 * size)
           ∧ ∀ y, y < a ∨ a + size ≤ y → memGet T'.rows y = memGet T.rows y)
       ∧ (∀ c, redCheck s r T E.world = .fault c → ∃ t G', exec (.reductionApply n) s = .next t ∧ t.reds = s.reds.eraseIdx n
           ∧ t.mem = s.mem ∧ t.group? r.wg r.group = some G'
           ∧ (E.G.T.elems.length < 64 → G'.T.elems = E.G.T.elems ++ [redEntry r c])))


/-! ### Atomic regions and the array -/

/-- R207, R209, R214, R215, R220, R221: ABEG opens a region on every lane of its split, with its fallback; AABT of every lane closes
the regions with status 5 and sends the split to the fallback; ASTAT reads the status. ALD delivers a new place's value as it stands at
home and records the input, or delivers the input that it has recorded for the same place again, tagged with the input's number; AST
buffers one more store, of the value or of the input that it is tagged with. Neither changes a byte of memory. -/
def Obligations.RegionWords : Prop :=
  (∀ s o x,
       (LReady s (.abeg o) x → ∃ t G', exec (.abeg o) s = .next t ∧ WordOnly s t x G'
           ∧ (G'.split x.e).lpc = x.p.lpc + 1 ∧ ∀ i, LaneSame (x.G.lane i) (G'.lane i)
             ∧ (inMask x.p.mask i = true → i < x.G.lanes.length →
                 (G'.lane i).region = some (Region.fresh (x.p.lpc + x.o.imm.signExtend 64))))
       ∧ (LReady s (.aabt o) x → x.act = x.p.mask → ∃ t G', exec (.aabt o) s = .next t ∧ t.group? x.E.w x.E.g = some G'
           ∧ (G'.split x.e).lpc = x.G.fallbackOf x.e ∧ t.mem = s.mem
           ∧ ∀ i, (G'.lane i).regs = (x.G.lane i).regs ∧ (inMask x.act i = true → i < x.G.lanes.length →
               (G'.lane i).region = none ∧ (G'.lane i).rstat = 13))
       ∧ (LReady s (.aabt o) x → x.act = 0 → ∃ t G', exec (.aabt o) s = .next t ∧ WordOnly s t x G'
           ∧ (G'.split x.e).lpc = x.p.lpc + 1)
       ∧ (LReady s (.astat o) x → ∃ t G', exec (.astat o) s = .next t ∧ WordOnly s t x G'
           ∧ (G'.split x.e).lpc = x.p.lpc + 1
           ∧ (∀ i, inMask x.act i = true → (G'.lane i).regs = (x.G.lane i).regs.set x.o.vd.toNat ((x.G.lane i).rstat.setWidth 64))
           ∧ ∀ i, inMask x.act i = false → LaneSame (x.G.lane i) (G'.lane i)))
  ∧ (∀ s o x locs, let n := tyBytes x.o.ty
       (LReady s (.ald o) x → AreaOk x s false locs →
         (∀ i, inMask x.act i = true → ∃ r, (x.G.lane i).region = some r ∧ (∀ q ∈ r.stores, Apart (locs i) n q.loc q.bytes)
           ∧ ((∃ q ∈ r.inputs, SameAccess (locs i) n q.loc q.bytes)
              ∨ (r.inputs.length < 8 ∧ ∀ q ∈ r.inputs, Apart (locs i) n q.loc q.bytes))) →
         ∃ t G' W', exec (.ald o) s = .next t ∧ t.group? x.E.w x.E.g = some G' ∧ (G'.split x.e).lpc = x.p.lpc + 1
           ∧ t.wgs[x.E.w]? = some W' ∧ W'.scratch = x.E.W.scratch ∧ t.jobs = s.jobs
           ∧ (∀ v T, s.table? v = some T → ∃ l, t.table? v = some { T with weak := l })
           ∧ (∀ i, inMask x.act i = false → LaneSame (x.G.lane i) (G'.lane i))
           ∧ ∀ i r, inMask x.act i = true → i < x.G.lanes.length → (x.G.lane i).region = some r →
             ∃ r', (G'.lane i).region = some r' ∧ r'.stores = r.stores ∧ r'.fallback = r.fallback
               ∧ (∀ k q, r.inputs[k]? = some q → SameAccess (locs i) n q.loc q.bytes →
                   (∀ j p, j < k → r.inputs[j]? = some p → ¬ SameAccess (locs i) n p.loc p.bytes) →
                   r'.inputs = r.inputs ∧ tagIn r' x.o.vd.toNat = some { input := k, offset := 0 }
                   ∧ (G'.lane i).regs = (x.G.lane i).regs.set x.o.vd.toNat (widen (tySigned x.o.ty) n q.value.toNat))
               ∧ ((∀ q ∈ r.inputs, ¬ SameAccess (locs i) n q.loc q.bytes) →
                   ∃ v, r'.inputs = r.inputs ++ [{ loc := locs i, bytes := n, signed := tySigned x.o.ty, value := v }]
                     ∧ tagIn r' x.o.vd.toNat = some { input := r.inputs.length, offset := 0 }
                     ∧ (G'.lane i).regs = (x.G.lane i).regs.set x.o.vd.toNat v
                     ∧ (PlaceSettled s x.E (locs i) → v = widen (tySigned x.o.ty) n (placeBytes s x.E n (locs i)))))
       ∧ (LReady s (.ast o) x → AreaOk x s true locs →
         (∀ i, inMask x.act i = true → ∃ r, (x.G.lane i).region = some r ∧ r.stores.length < 16) →
         ∃ t G' W', exec (.ast o) s = .next t ∧ t.group? x.E.w x.E.g = some G' ∧ (G'.split x.e).lpc = x.p.lpc + 1
           ∧ t.wgs[x.E.w]? = some W' ∧ W'.scratch = x.E.W.scratch ∧ t.mem = s.mem ∧ t.jobs = s.jobs
           ∧ (∀ i, LaneSame (x.G.lane i) (G'.lane i))
           ∧ ∀ i r, inMask x.act i = true → i < x.G.lanes.length → (x.G.lane i).region = some r →
               ∃ r' q, (G'.lane i).region = some r' ∧ r'.stores = r.stores ++ [q] ∧ r'.inputs = r.inputs
                 ∧ q.loc = locs i ∧ q.bytes = n
                 ∧ (∀ t, r.tagOf x.o.b = some t → q.tag = some t.input ∧ q.value = t.offset)
                 ∧ (r.tagOf x.o.b = none → q.tag = none ∧ q.value = x.b x.o.ty i)))

/-- R210, R215, R216, R218, R221, R223, R224: ACOM, of every place of its lanes Equinox knowing whether it is at hand or gone, and with no
earlier ACOM of its core open, commits the regions of its split's lanes in ascending order: each with the status that its inputs as they
now stand at home give, and the stores and the registers that go with it; a lane's commit finds what the lanes before it have stored.
The split goes on at the next word, at the fallback, or divided. ACOM stops with SPLIT_OVERFLOW where no split can be placed; behind an
earlier ACOM, or where a place waits for firmware, it holds the split and waits in the core's queue, and COMMIT_RESUME completes the word
at its head in the same way. What stands for a table of another module is committed to as its home is (log entry 58). -/
def Obligations.Commits : Prop :=
  (∀ s o x, LReady s (.acom o) x → x.G.canPlace = true →
     let C := s.core x.E.W.coreNo
     (C.acoms = [] → s.memOk → x.e < x.G.L.splits.length → x.G.L.splits.length = 8 →
       (∀ k, inMask x.p.mask k = true → k < x.G.lanes.length ∧ ∃ r, (x.G.lane k).region = some r ∧ RegionKnown s x.E r
         ∧ (r.rtags.map (·.1)).Nodup) →
       ∃ t G', exec (.acom o) s = .next t ∧ t.group? x.E.w x.E.g = some G' ∧ Committed s t x G')
     ∧ (x.e < x.G.L.splits.length → (C.acoms ≠ [] ∨ ∃ k r q, lanesOf x.p.mask = [k] ∧ (x.G.lane k).region = some r
           ∧ q ∈ r.stores ∧ StoreWaits s x.E q) →
       ∃ t G', exec (.acom o) s = .next t ∧ t.group? x.E.w x.E.g = some G' ∧ (G'.split x.e).wait = .commit
         ∧ (G'.split x.e).lpc = x.p.lpc ∧ (t.core x.E.W.coreNo).acoms = C.acoms ++ [(x.E.w, x.E.g, x.e)] ∧ t.mem = s.mem
         ∧ ∀ i, LaneSame (x.G.lane i) (G'.lane i) ∧ ((x.G.lane i).region.isSome = true → (G'.lane i).region.isSome = true)))
  ∧ (∀ s o x, LReady s (.acom o) x → x.G.canPlace = false →
       exec (.acom o) s = .next (takeTrap s x.E.w x.E.g (x.info .splitOverflow .word x.p.mask)))
  ∧ (∀ s w g e x, wordAt s w g e = some x → x.G.fin = .running → x.G.L.running = true → x.p.wait = .commit →
       (s.core x.E.W.coreNo).acoms.head? = some (w, g, e) → s.memOk → e < x.G.L.splits.length → x.G.L.splits.length = 8 →
       (∀ k, inMask x.p.mask k = true → k < x.G.lanes.length ∧ ∀ r, (x.G.lane k).region = some r → RegionKnown s x.E r
         ∧ (r.rtags.map (·.1)).Nodup) →
       ∃ t G', exec (.commitResume w g e) s = .next t ∧ t.group? w g = some G' ∧ Committed s t x G'
         ∧ (t.core x.E.W.coreNo).acoms = (s.core x.E.W.coreNo).acoms.drop 1)

/-- R249, R252 to R255: an MMA in order, with room in the matrix queue, queues one operation for each active quarter and tags
its tiles; with no active lane it only goes on; a full queue stalls it. A queued operation that may enter leaves the queue for
the array and changes its own tile alone: with i8 operands, where no write of them is on its way, each cell of an active row gains the
sum of 128 products, wrapped to 32 bits. TILE_READY takes the operation out of the array. -/
def Obligations.MatrixOperations : Prop :=
  (∀ s o x, LReady s (.mma o) x →
       let C := s.core x.E.W.coreNo
       (x.quarters = [] → ∃ t G', exec (.mma o) s = .next t ∧ WordOnly s t x G' ∧ (G'.split x.e).lpc = x.p.lpc + 1)
       ∧ (x.quarters ≠ [] → Legal (mmaA x.o) (mmaB x.o) → TilesIn x → (mmaOw x.o = true → TilesIdle x s) →
         (∀ q ∈ x.quarters, (x.tile (tileBase x.o + q)).tag = .clear ∨ (x.tile (tileBase x.o + q)).tag = pairTag (mmaA x.o)) →
         (∀ q ∈ x.quarters, mmaLine x q + bLines (mmaB x.o) ≤ 8192 ∧ ∀ j, j < bLines (mmaB x.o) → LineOf C x.E.world (mmaLine x q + j)) →
         SpanOk x x.act (matAddr x) (aBytes (mmaA x.o)) (aAlign (mmaA x.o)) →
         (C.mq.length + x.quarters.length ≤ 64 → ∃ (t : State) (G' : Group) (ps : List Quarter), exec (.mma o) s = .next t
               ∧ t.group? x.E.w x.E.g = some G'
           ∧ (G'.split x.e).lpc = x.p.lpc + 1 ∧ t.wgs.length = s.wgs.length ∧ t.mem = s.mem
           ∧ (t.core x.E.W.coreNo).mq = C.mq ++ ps ∧ ps.length = x.quarters.length
           ∧ (∀ (n q : Nat) (p : Quarter), x.quarters[n]? = some q → ps[n]? = some p → Queued x q p)
           ∧ (∀ q ∈ x.quarters, tileBase x.o + q < x.G.tiles.length →
               (G'.tiles.getD (tileBase x.o + q) Tile.zero).tag = pairTag (mmaA x.o))
           ∧ (∀ n, (G'.tiles.getD n Tile.zero).cells = (x.tile n).cells)
           ∧ ∀ i, LaneSame (x.G.lane i) (G'.lane i))
         ∧ (64 < C.mq.length + x.quarters.length → exec (.mma o) s =
             .next (x.mod s fun G => G.modSplit x.e fun p => { p with wait := .array }))))
  ∧ ((∀ s core k q G, Enters (s.core core) k q → s.group? q.wg q.group = some G →
         ∃ t G', exec (.quarterOp core k) s = .next t ∧ (t.core core).mq = (s.core core).mq.eraseIdx k
           ∧ (t.core core).arr = (s.core core).arr ++ [q] ∧ t.group? q.wg q.group = some G' ∧ t.mem = s.mem
           ∧ (∃ p, (t.core core).pass = some p ∧ ((∃ p0, (s.core core).pass = some p0 ∧ MayFuse p0 q
                 ∧ p = { p0 with count := p0.count + 1 })
               ∨ ((∀ p0, (s.core core).pass = some p0 → ¬ MayFuse p0 q) ∧ p.line = q.line ∧ p.clk = q.clk ∧ p.count = 1)))
           ∧ (∀ n, n ≠ q.tile → G'.tiles[n]? = G.tiles[n]?) ∧ G'.S = G.S ∧ G'.L = G.L ∧ G'.T = G.T
           ∧ (∀ i, (G'.lane i).regs = (G.lane i).regs ∧ (G'.lane i).flags = (G.lane i).flags)
           ∧ ∀ W old l r n, s.wgs[q.wg]? = some W → G.tiles[q.tile]? = some old → old.cells.length = 1024 → q.fa = 5 → q.fb = 5 →
               Settled s (.lines core) → Settled s (.scratch q.wg) → l < 8 → n < 128 →
               ((q.rows.getD l none = none → (G'.tiles.getD q.tile Tile.zero).cells[128 * l + n]? = old.cells[128 * l + n]?)
                ∧ (q.rows.getD l none = some r →
                   (G'.tiles.getD q.tile Tile.zero).cells[128 * l + n]? = some (BitVec.ofInt 32
                     ((if q.ow then 0 else (old.cells.getD (128 * l + n) 0).toInt)
                       + ((List.range 128).map fun k => (memGet W.scratch (r.addr + k)).toInt
                           * (BitVec.ofNat 8 (tileByte (s.core core) q.line (128 * k + n))).toInt).sum)))))
     ∧ ∀ s core k q, ((s.core core).arr)[k]? = some q →
         ∃ t, exec (.tileReady core k) s = .next t ∧ (t.core core).arr = (s.core core).arr.eraseIdx k ∧ t.mem = s.mem)

/-- R257 to R260: with its tiles in range and idle, MZERO clears them, MRD reads two cells of a tile's row into VD, and MDRN,
with no trap enabled and its addresses in order, stores rows and changes no register; rounding to nearest with no flush, each element
that it stores is a value nearest to the product of cell, row scale and column scale, and every other byte of the scratchpad stays; the
value is stated where no lane stores over the scale. MWT
with no operation of its group left goes on, and every lane's pending flags become sticky; with one left it holds its split. -/
def Obligations.TileWords : Prop :=
  (∀ s o x, TilesIn x → TilesIdle x s →
       (LReady s (.mzero o) x → ∃ t G', exec (.mzero o) s = .next t ∧ WordOnly s t x G'
           ∧ (G'.split x.e).lpc = x.p.lpc + 1 ∧ (∀ i, LaneSame (x.G.lane i) (G'.lane i))
           ∧ (∀ q ∈ x.quarters, tileBase x.o + q < x.G.tiles.length → G'.tiles[tileBase x.o + q]? = some Tile.zero)
           ∧ ∀ n, (∀ q ∈ x.quarters, n ≠ tileBase x.o + q) → G'.tiles[n]? = x.G.tiles[n]?)
       ∧ (LReady s (.mrd o) x → (∀ q ∈ x.quarters, (x.tile (tileBase x.o + q)).tag = .clear
             ∨ (x.tile (tileBase x.o + q)).tag = (if x.o.ty = .i32 then .i32 else .f32)) →
           ∃ t G', exec (.mrd o) s = .next t
           ∧ WordOnly s t x G' ∧ (G'.split x.e).lpc = x.p.lpc + 1
           ∧ (∀ i, inMask x.act i = true → (G'.lane i).regs = (x.G.lane i).regs.set x.o.vd.toNat
               (let n := 128 * (i % 8) + 2 * ((x.a .n64 i).toNat % 64)
                (x.tile (tileBase x.o + i / 8)).cells.getD (n + 1) 0 ++ (x.tile (tileBase x.o + i / 8)).cells.getD n 0))
           ∧ ∀ i, inMask x.act i = false → LaneSame (x.G.lane i) (G'.lane i))
       ∧ (LReady s (.mdrn o) x → enables x.G.L.md = 0 → SpanOk x x.act (matAddr x) (128 * tyBytes x.o.ty) (tyBytes x.o.ty) →
         (∀ v, x.o.c = .reg v → ∀ q ∈ x.quarters,
           let a := ((x.G.lane (x.quarterLead q)).r v.toNat).toNat
           a + 512 ≤ x.E.W.size ∧ a % 4 = 0) → memWf x.E.W.scratch = true →
         ∃ t W' G', exec (.mdrn o) s = .next t ∧ t.wgs[x.E.w]? = some W' ∧ t.group? x.E.w x.E.g = some G'
           ∧ (G'.split x.e).lpc = x.p.lpc + 1 ∧ t.mem = s.mem ∧ G'.tiles = x.G.tiles
           ∧ (∀ i, (G'.lane i).regs = (x.G.lane i).regs ∧ (G'.lane i).preds = (x.G.lane i).preds)
           ∧ (∀ a, (∀ i, inMask x.act i = true → a < (matAddr x i).toNat ∨ (matAddr x i).toNat + 128 * tyBytes x.o.ty ≤ a) →
               memGet W'.scratch a = memGet x.E.W.scratch a)
           ∧ ∀ i n c r k top, x.md.rnd = .rne → x.md.fluIn = false → x.md.fluRes = false → inMask x.act i = true → n < 128 →
               let g := fmtOf x.o.ty
               let a := (matAddr x i).toNat + n * tyBytes x.o.ty
               (∀ j, i < j → inMask x.act j = true →
                 a + tyBytes x.o.ty ≤ (matAddr x j).toNat ∨ (matAddr x j).toNat + 128 * tyBytes x.o.ty ≤ a) →
               CellIs (x.tile (tileBase x.o + i / 8)) (128 * (i % 8) + n) c → ScaleIs x i n k → ScaleStays s x i n →
               readF (fmtOf .f32) (subElem 32 (x.b .f32 i) 0) = .fin r → readF g g.maxMag = .fin top →
               c * ratOf r * k ≤ ratOf top → -ratOf top ≤ c * ratOf r * k →
               Nearest g (memNat W'.scratch a (tyBytes x.o.ty)) (c * ratOf r * k)))
  ∧ (∀ s o x, LReady s (.mwt o) x →
       ((∀ q ∈ (s.core x.E.W.coreNo).mq ++ (s.core x.E.W.coreNo).arr, ¬ (q.wg = x.E.w ∧ q.group = x.E.g)) →
         ∃ t G', exec (.mwt o) s = .next t ∧ WordOnly s t x G' ∧ (G'.split x.e).lpc = x.p.lpc + 1
           ∧ ∀ i, (G'.lane i).flags = (x.G.lane i).flags ||| (x.G.lane i).pend ∧ (G'.lane i).pend = 0
             ∧ (G'.lane i).regs = (x.G.lane i).regs)
       ∧ (∀ q ∈ (s.core x.E.W.coreNo).mq, q.wg = x.E.w → q.group = x.E.g → q.stamp ≤ x.G.S.stamp →
         ∃ t G', exec (.mwt o) s = .next t ∧ WordOnly s t x G' ∧ (G'.split x.e).wait = .mwt
           ∧ (G'.split x.e).lpc = x.p.lpc))

/-- R202, R269, R270, R296, R357: FENCEL goes on once no reduction that its split has sent is in flight, and the record is empty or the
handler runs. It orders for its split as FENCE does for the S-stream: what an earlier read has got to know at its scope is ordered before
what its lanes do next, what is ordered before them, or its reductions have done, is released by their later writes at its scope, and at
`.clu` or wider an acquire drops the core's row-cache lines. TRAPL with an active lane raises USER_TRAP of kind A and otherwise only goes
on; MARKL writes at most a trace packet. -/
def Obligations.LaneSystemWords : Prop :=
  ∀ s o x,
    (LReady s (.fencel o) x → (x.G.T.handler = true ∨ x.G.T.elems = []) →
      (∀ r ∈ s.reds, r.wg = x.E.w → r.group = x.E.g → r.blockSeq = x.G.L.blockSeq → r.issuer &&& x.p.mask = 0) →
      let ord := wordOrder o
      let c := x.E.scopeAt (wordScope o)
      let core := x.E.W.coreNo
      ∃ t G', exec (.fencel o) s = .next t ∧ t.group? x.E.w x.E.g = some G' ∧ OrderedGroup s t x.E.w x.E.g core
        ∧ (G'.split x.e).lpc = x.p.lpc + 1 ∧ SameWrites s t ∧ (∀ i, LaneSame (x.G.lane i) (G'.lane i))
        ∧ ((ord = .acq ∨ ord = .ar) → 2 ≤ wordScope o → (t.core core).cache = [])
        ∧ ((ord = .rel ∨ wordScope o < 2) → t.cores = s.cores)
        ∧ ((ord = .acq ∨ ord = .ar) → Turned s t x.who x.who (.got c) (.order (some c)))
        ∧ ((ord = .rel ∨ ord = .ar) → ∀ v, v = none ∨ v = some c → Turned s t x.who x.who (.order v) (.later c)
            ∧ Turned s t (.reds x.E.w x.E.g x.G.L.blockSeq x.p.mask) x.who (.order v) (.later c)))
    ∧ (LReady s (.trapl o) x → x.act = 0 → ∃ t G', exec (.trapl o) s = .next t ∧ WordOnly s t x G'
        ∧ (G'.split x.e).lpc = x.p.lpc + 1)
    ∧ (LReady s (.trapl o) x → x.act ≠ 0 → TrapOpen x.E → (∀ u, x.G.S.stall ≠ .sleep u) → x.G.S.stall ≠ .kswap →
      ∃ t G', exec (.trapl o) s = .next t ∧ t.group? x.E.w x.E.g = some G'
        ∧ Entered x.G G' .userTrap .after x.G.S.pc ((x.o.imm.extractLsb' 0 16).setWidth 64) 0
        ∧ (G'.T.frame.getD 1 0).extractLsb' 0 32 = x.act)
    ∧ (LReady s (.markl o) x → ∃ t G', exec (.markl o) s = .next t ∧ t.group? x.E.w x.E.g = some G'
        ∧ (G'.split x.e).lpc = x.p.lpc + 1 ∧ OnlyWgs s t ∧ (x.act = 0 → t.dies = s.dies)
        ∧ ∀ i, LaneSame (x.G.lane i) (G'.lane i))


/-! ### Engines at work, dispatch and the Dusk bank -/

/-- R225, R227, R232 to R240: a COPY job whose slices have all arrived starts; a sector, an element and a line of a started job
are moved once, and every other byte of scratchpads and tables stays; a sector past the table is clipped; an element that is found is
delivered with status 0, one whose key is absent is zero-filled with status 1; an owed add is made indivisibly; and a job with every unit
handled and nothing owed completes. What a job moves is what stands there where no write is on its way. How a job proceeds between its
slices is a reading (log entries 27 and 28). -/
def Obligations.JobsRun : Prop :=
  (∀ s n j q E, s.jobs[n]? = some j → j.kind.isCopy = true → j.state = .forming → Gathered s j → NoneAhead s n j →
      j.slices.head? = some q → envAt s j.wg q.group = some E → (∀ slot ∈ j.tabSlots, ∀ id, slotOf s E.La slot ≠ .absent id) →
      ∃ t j', exec (.copyJobStart n) s = .next t ∧ t.jobs[n]? = some j' ∧ j'.state = .started ∧ j'.kind = j.kind
        ∧ t.mem = s.mem ∧ t.wgs = s.wgs)
  ∧ (∀ s n k j q E recv row sec w V, JobReady s n k j q E → j.kind.isCopy = true →
      let c := copyD q.d
      let u : JobUnit := { slice := k, recv := recv, row := row, sec := sec }
      recv < c.receivers → row < c.rowsPer → sec < c.rbytes / 32 → u ∉ j.done → Takes s E c recv w → s.wgs[w]? = some V →
      memWf V.scratch = true →
      (c.mode = 2 → ∃ t j' V', exec (.copySector n k recv row sec) s = .next t ∧ t.jobs[n]? = some j' ∧ j'.done = u :: j.done
        ∧ t.wgs[w]? = some V' ∧ t.mem = s.mem
        ∧ (Settled s (.scratch w) →
            memRead V'.scratch (c.scratchAt recv row sec) 32 = V.bytes (c.tofs + row * c.stride + 32 * sec) 32)
        ∧ ∀ x, x < c.scratchAt recv row sec ∨ c.scratchAt recv row sec + 32 ≤ x → memGet V'.scratch x = memGet V.scratch x)
      ∧ (c.mode ≠ 2 → ∀ v T, j.version = some v → s.table? v = some T →
        let a := c.tableAt T.desc.width recv row sec
        (T.desc.rows * T.desc.width < a + 32 → ∃ t j', exec (.copySector n k recv row sec) s = .next t ∧ t.jobs[n]? = some j'
          ∧ j'.done = u :: j.done ∧ j'.owed = j.owed ∧ t.mem = s.mem ∧ t.wgs = s.wgs)
        ∧ (a + 32 ≤ T.desc.rows * T.desc.width → a % 32 = 0 → memWf T.rows = true →
          RowsOpen s v T E.world (if c.mode = 1 then .wr else .rd) a 32 → (c.mode = 0 → NoBad T a 32) →
          ∃ t j' V' T', exec (.copySector n k recv row sec) s = .next t ∧ t.jobs[n]? = some j' ∧ j'.done = u :: j.done
            ∧ t.wgs[w]? = some V' ∧ t.table? v = some T'
            ∧ (c.mode = 0 → (∃ l, T' = { T with weak := l })
                ∧ ((s.core j.core).cache = [] → Settled s (.rows v) → memRead V'.scratch (c.scratchAt recv row sec) 32 = T.bytes a 32)
                ∧ ∀ x, x < c.scratchAt recv row sec ∨ c.scratchAt recv row sec + 32 ≤ x →
                    memGet V'.scratch x = memGet V.scratch x)
            ∧ (c.mode ≠ 0 → V' = V
                ∧ (Settled s (.scratch w) → memRead T'.rows a 32 = V.bytes (c.scratchAt recv row sec) 32)
                ∧ ∀ x, x < a ∨ a + 32 ≤ x → memGet T'.rows x = memGet T.rows x))))
  ∧ (∀ s n i j q E tag v T, JobReady s n 0 j q E → j.kind = .gather tag → i < (gatherD q.d).count →
      { slice := 0, recv := 0, row := i, sec := 0 } ∉ j.done → j.version = some v → s.table? v = some T →
      memWf E.W.scratch = true →
      let c := gatherD q.d
      let fmt := ((T.desc.codedAt c.off).map (·.1)).getD 0
      let runs := fun (st : Byte) (ok : List Byte → Prop) => ∃ (t : State) (j' : Job) (W' : Wg) (data : List Byte),
            exec (.gatherElement n i) s = .next t
        ∧ t.jobs[n]? = some j' ∧ j'.done = { slice := 0, recv := 0, row := i, sec := 0 } :: j.done ∧ t.wgs[j.wg]? = some W'
        ∧ Handled E.W.scratch W'.scratch c i st data ∧ ok data ∧ (T.weak = [] → t.mem = s.mem)
        ∧ ∀ k U, s.table? k = some U → ∃ l, t.table? k = some { U with weak := l }
      (∀ r, T.rowOf (c.rids && !T.desc.isArray) (j.keys.getD i 0) = .ok r → c.mode < 3 →
        (c.mode ≠ 0 → T.sealed = none ∧ ∃ q, T.desc.codedAt c.off = some q ∧ c.first + c.n ≤ q.2) →
        (let span := if c.mode = 0 then c.n else 4 + (if fmt = 0 then c.first + c.n else (c.first + c.n + 1) / 2)
         RowsOpen s v T E.world .rd (r.addr + c.off) span ∧ NoBad T (r.addr + c.off) span) →
        runs 0 fun data => data.length = c.out ∧ (Settled s (.rows v) → Delivers T c (r.addr + c.off) data))
      ∧ (∀ r, T.rowOf (c.rids && !T.desc.isArray) (j.keys.getD i 0) = .ok r → c.mode ≠ 0 →
          (∀ q, T.desc.codedAt c.off = some q → q.2 < c.first + c.n) → runs (causeCode .kindMismatch) (· = []))
      ∧ (T.rowOf (c.rids && !T.desc.isArray) (j.keys.getD i 0) = .error .keyAbsent → runs 1 (· = List.replicate c.out 0))
      ∧ ∀ e, T.rowOf (c.rids && !T.desc.isArray) (j.keys.getD i 0) = .error e → e ≠ .keyAbsent → runs (causeCode e) (· = []))
  ∧ (∀ s n k j q E v T, JobReady s n 0 j q E → j.kind = .bload → k < (bloadD q.d).lines →
      { slice := 0, recv := 0, row := k, sec := 0 } ∉ j.done → LineFree s j.core ((bloadD q.d).line0 + k) E.world →
      j.version = some v → s.table? v = some T → T.sealed = none →
      (∀ z, z < 32 → RowsOpen s v T E.world .rd ((bloadD q.d).tofs + 1024 * k + 32 * z) 32
        ∧ NoBad T ((bloadD q.d).tofs + 1024 * k + 32 * z) 32) →
      ∃ t l, exec (.bloadLine n k) s = .next t ∧ (t.core j.core).lines.find? (fun l => l.line == (bloadD q.d).line0 + k) = some l
        ∧ l.world = E.world ∧ (Settled s (.rows v) → l.bytes = T.bytes ((bloadD q.d).tofs + 1024 * k) 1024)
        ∧ t.wgs = s.wgs ∧ (T.weak = [] → t.mem = s.mem)
        ∧ (∀ x, x ≠ (bloadD q.d).line0 + k → (t.core j.core).lines.find? (fun l => l.line == x)
              = (s.core j.core).lines.find? (fun l => l.line == x))
        ∧ ∀ i U, s.table? i = some U → ∃ y, t.table? i = some { U with weak := y })
  ∧ (∀ s n k j q E recv o a, JobReady s n k j q E → j.owed.find? (fun o => o.slice == k && o.recv == recv) = some o →
      0 < a → a ≤ o.n →
      (∀ off w V, q.ctr = .scratch off → (if j.kind.isCopy then Takes s E (copyD q.d) recv w else w = j.wg) → s.wgs[w]? = some V →
        memWf V.scratch = true →
        ∃ t V', exec (.counterAdd n k recv a) s = .next t ∧ t.wgs[w]? = some V'
          ∧ memNat V'.scratch off 8 = (memNat V.scratch off 8 + a) % 2 ^ 64
          ∧ ∀ x, x < off ∨ off + 8 ≤ x → memGet V'.scratch x = memGet V.scratch x)
      ∧ ∀ slot v x T, q.ctr = .table slot v x → s.table? v = some T → memWf T.rows = true → RowsOpen s v T E.world .at_ x 8 →
        NoBad T x 8 → ∃ t T', exec (.counterAdd n k recv a) s = .next t ∧ t.table? v = some T'
          ∧ memNat T'.rows x 8 = (memNat T.rows x 8 + a) % 2 ^ 64
          ∧ ∀ y, y < x ∨ x + 8 ≤ y → memGet T'.rows y = memGet T.rows y)
  ∧ ∀ s n j, s.jobs[n]? = some j → j.state = .started → j.done.length = j.units → j.owed = [] →
      ∃ t j', exec (.jobComplete n) s = .next t ∧ t.jobs[n]? = some j' ∧ j'.state = .complete ∧ t.mem = s.mem ∧ t.wgs = s.wgs

/-- R306, R333 to R335: dispatch obeys the record at the head of a slot table and takes it off: a start that is in order begins
a workgroup with fresh groups once the workgroup may start; a resume and a fill bring an image in, whose yielded splits are ready again; a
swap is requested, and holds back every later record. A record that is not in order changes nothing, stops the slot table and is reported;
one of a launch or workgroup that has ended is taken off without effect; one whose workgroup is still on its way out waits. What is taken
for an order that is not kept, and when a record waits, are readings (log entries 29 and 30). -/
def Obligations.BindRecords : Prop :=
  (∀ s c r, Head s c r →
      (∀ La K, s.launch? r.launch = some La → La.status = none → s.kernel? La.kernel = some K →
        (StartOk s c La K r → StartDue s La r.w → ∃ t W La', exec (.bindStart c) s = .next t ∧ t.wgs = s.wgs ++ [W]
          ∧ W.launch = La.handle ∧ W.w = r.w ∧ W.idx = r.idx ∧ W.tags = Tags.all La.world ∧ W.place = .active ∧ W.die = c / 16 ∧ W.core = c % 16
          ∧ W.scratch = [] ∧ W.size = K.header.allot ∧ W.gslots = r.gslots ∧ W.sbase = r.sbase
          ∧ W.groups = List.replicate K.header.groups (Group.reset K.header.lregs K.header.accs)
          ∧ t.launch? La.handle = some La' ∧ La'.begun = La.begun ++ [r.w] ∧ La'.started ≠ none
          ∧ (t.core c).slots = (s.core c).slots.drop 1 ∧ t.mem = s.mem)
        ∧ (StartOk s c La K r → ¬ StartDue s La r.w → exec (.bindStart c) s = .next s)
        ∧ (r.op = 1 → ¬ StartOk s c La K r → ∃ t, exec (.bindStart c) s = .next t ∧ RefusedRec s t c))
      ∧ (r.op < 1 ∨ 4 < r.op ∨ (r.op = 1 ∧ (r.resv = true ∨ s.launch? r.launch = none)) →
        ∃ t, exec (.bindStart c) s = .next t ∧ RefusedRec s t c)
      ∧ ∀ La, r.op = 1 → r.resv = false → s.launch? r.launch = some La → La.status ≠ none →
          ∃ t, exec (.bindStart c) s = .next t ∧ t.wgs = s.wgs ∧ t.mem = s.mem ∧ (t.core c).slots = (s.core c).slots.drop 1)
  ∧ (∀ s c r W, Head s c r → r.op = 2 → s.wgs[r.image]? = some W →
      (W.place = .resumable ∨ W.place = .serviced → ResumeFits s c r W .active → WholeImage s r.image W →
        (∀ G ∈ W.groups, G.fin = .running → G.stopped = none → Restorable s G) →
        ∃ (t : State) (W' : Wg), exec (.bindResume c) s = .next t ∧ t.wgs[r.image]? = some W' ∧ W'.place = .active
              ∧ W'.die = W.die ∧ W'.core = c % 16
          ∧ W'.sbase = r.sbase ∧ W'.gslots = r.gslots ∧ W'.scratch = W.scratch ∧ W'.groups.length = W.groups.length
          ∧ (W.ranOn ≠ some c → (t.core c).cache = [])
          ∧ (∀ (g : Nat) (G G' : Group), W.groups[g]? = some G → W'.groups[g]? = some G' → G.fin = .running → G.stopped = none →
              ∀ p ∈ G'.L.splits, p.st ≠ .yielded)
          ∧ (t.core c).slots = (s.core c).slots.drop 1)
      ∧ (W.place = .resumable ∨ W.place = .serviced → ¬ ResumeFits s c r W .active →
          ∃ t, exec (.bindResume c) s = .next t ∧ RefusedRec s t c)
      ∧ (W.place = .completed → ∃ t, exec (.bindResume c) s = .next t ∧ t.wgs = s.wgs ∧ (t.core c).slots = (s.core c).slots.drop 1)
      ∧ (W.place = .shadow ∨ W.place = .image ∨ W.place = .leaving → r.resv = false → r.launch = W.launch → W.child = true ∨ r.w = W.w →
          W.die = c / 16 → (slotBits r.gslots).length = W.groups.length → exec (.bindResume c) s = .next s))
  ∧ (∀ s c r W, Head s c r → r.op = 3 → (s.core c).shadow ≠ .draining → s.wgs[r.image]? = some W →
      W.place = .resumable ∨ W.place = .serviced →
      (ResumeFits s c r W .incoming → WholeImage s r.image W →
        ∃ t W', exec (.bindFill c) s = .next t ∧ t.wgs[r.image]? = some W' ∧ W'.place = .incoming ∧ W'.groups = W.groups
          ∧ W'.scratch = W.scratch ∧ (t.core c).shadow = .filling ∧ (t.core c).slots = (s.core c).slots.drop 1)
      ∧ (¬ ResumeFits s c r W .incoming → ∃ t, exec (.bindFill c) s = .next t ∧ RefusedRec s t c))
  ∧ (∀ s c r, Head s c r → r.op = 4 →
      (r.resv = false → ∃ t, exec (.bindSwap c) s = .next t ∧ (t.core c).swapReq = true
        ∧ (t.core c).slots = (s.core c).slots.drop 1 ∧ t.wgs = s.wgs)
      ∧ (r.resv = true → ∃ t, exec (.bindSwap c) s = .next t ∧ RefusedRec s t c))
  ∧ ∀ s c, (s.core c).swapReq = true → exec (.bindStart c) s = .next s ∧ exec (.bindResume c) s = .next s
      ∧ exec (.bindFill c) s = .next s ∧ exec (.bindSwap c) s = .next s

/-- R303, R306 to R310: a requested swap puts every active workgroup of the core into the shadow bank, which then drains, and brings the
incoming ones in; a drain ends once no word of the outgoing workgroups is in flight: they can be resumed, but for one that has met a
service fault that is still to be serviced, which goes to its servicing; a fill ends with the shadow bank ready. -/
def Obligations.DuskBank : Prop :=
  (∀ s c, (s.core c).swapReq = true → (s.core c).shadow = .empty ∨ (s.core c).shadow = .ready →
      (∀ W ∈ s.wgs, W.coreNo = c → W.place = .incoming → ∀ G ∈ W.groups, G.fin = .running → G.stopped = none → Restorable s G
        ∧ G.inFlight = false) →
      ∃ t, exec (.duskSwap c) s = .next t ∧ (t.core c).shadow = .draining ∧ (t.core c).swapReq = false
        ∧ (∀ (w : Nat) (W : Wg), s.wgs[w]? = some W → W.coreNo = c → W.place = .active ∨ W.place = .leaving →
            ∃ W' : Wg, t.wgs[w]? = some W' ∧ W'.place = .shadow ∧ W'.scratch = W.scratch ∧ W'.groups.length = W.groups.length)
        ∧ ∀ (w : Nat) (W : Wg), s.wgs[w]? = some W → W.coreNo = c → W.place = .incoming →
            ∃ W' : Wg, t.wgs[w]? = some W' ∧ W'.place = .active ∧ W'.scratch = W.scratch ∧ W'.groups.length = W.groups.length)
  ∧ (∀ s c, (s.core c).shadow = .draining →
      (∀ (w : Nat) (W : Wg), s.wgs[w]? = some W → W.coreNo = c → W.place = .shadow → WholeImage s w W) →
      ∃ t, exec (.spillDrainDone c) s = .next t ∧ (t.core c).shadow = .empty
        ∧ ∀ (w : Nat) (W : Wg), s.wgs[w]? = some W → W.coreNo = c → W.place = .shadow →
            ∃ W' : Wg, t.wgs[w]? = some W' ∧ ((∀ f ∈ W.faults, f.served = true) → W'.place = .resumable)
              ∧ ((∃ f ∈ W.faults, f.served = false) → W'.place = .image) ∧ W'.scratch = W.scratch
              ∧ W'.groups = W.groups)
  ∧ ∀ s c, (s.core c).shadow = .filling → ∃ t, exec (.spillFillDone c) s = .next t ∧ (t.core c).shadow = .ready ∧ t.wgs = s.wgs

/-- R300, R303, R304, R329, R332, R337, R338, R341: the head of a task queue starts as a workgroup of one group with its argument in s1
and its entry at S-PC, in slots that are free; a workgroup whose groups, jobs, reductions and quarter operations are over completes, and
its scratchpad, registers and tiles are cleared; a serviced workgroup joins its die's resume queue with its slabs present, and one whose
servicing fails ends its context; and a launch that has run past its limit ends its context. -/
def Obligations.WorkgroupLife : Prop :=
  (∀ s c x rest La K, (s.core c).tasks = x :: rest → s.launch? x.launch = some La → s.kernel? La.kernel = some K →
      TaskRoom s c La K → ∃ t W G, exec (.childTaskStart c) s = .next t ∧ t.wgs = s.wgs ++ [W] ∧ (t.core c).tasks = rest
        ∧ W.child = true ∧ W.launch = x.launch ∧ W.tags = Tags.all La.world ∧ W.idx = x.idx ∧ W.size = 0 ∧ W.place = .active ∧ W.die = c / 16
        ∧ W.core = c % 16 ∧ W.groups = [G] ∧ G.S.pc = x.entry.setWidth 64 ∧ G.rS 1 = x.arg.setWidth 64 ∧ G.fin = .running
        ∧ G.T.trapbase = 0 ∧ G.lanes = List.replicate 32 (Lane.reset K.header.lregs)
        ∧ ∀ b ∈ bankHeld s c .active, b.wslot ≠ W.wslot.toNat ∧ ∀ x ∈ b.slots, W.gslots.getLsbD x = false)
  ∧ (∀ s w W, s.wgs[w]? = some W → AllOver s w W → ∃ t W', exec (.workgroupComplete w) s = .next t
        ∧ t.wgs[w]? = some W' ∧ W'.place = .completed ∧ W'.scratch = [] ∧ W'.tags = Tags.all 0
        ∧ ∀ G ∈ W'.groups, G.lanes = [] ∧ G.tiles = [] ∧ G.S.s = List.replicate 64 0)
  ∧ (∀ s w W, s.wgs[w]? = some W → W.place = .image →
      (∃ t W', exec (.serviceComplete w .serviced) s = .next t ∧ t.wgs[w]? = some W' ∧ W'.place = .serviced ∧ W'.groups = W.groups
        ∧ w ∈ (t.die W.die).resume ∧ ∀ v slab T, Need.slab v slab ∈ W.faults.flatMap (·.needs) → t.table? v = some T →
            slab ∉ T.absent)
      ∧ ∀ La C, s.launch? W.launch = some La → s.context? La.ctx = some C → C.ended = none →
          (∃ t C' st, exec (.serviceComplete w .ownerEnded) s = .next t ∧ t.context? La.ctx = some C' ∧ C'.ended = some st
            ∧ st.cause = causeCode .ownerEnded)
          ∧ ∃ t C' st, exec (.serviceComplete w .stateUncorr) s = .next t ∧ t.context? La.ctx = some C' ∧ C'.ended = some st
            ∧ st.cause = causeCode .stateUncorr)
  ∧ ∀ s h La C from_, s.launch? h = some La → La.status = none → La.tlimit ≠ 0 → La.started = some from_ →
      from_.toNat + 1000000 * La.tlimit ≤ s.time.clock.toNat → s.context? La.ctx = some C → C.ended = none →
      ∃ t C' st, exec (.timeLimit h) s = .next t ∧ t.context? La.ctx = some C' ∧ C'.ended = some st
        ∧ st.cause = causeCode .timeLimit ∧ st.err = true


/-! ### Clients and debugging -/

/-- R325 to R332, R351: a client's requests on contexts, kernels and launches that are in order: each has its effect and is
answered with status 0, at once or when what it waits for has come. A reply that is due and that no earlier one of its context
holds up goes out to its client, last of those sent; one that is not due waits. A LOAD that names no context loads for world 0. Test
launches, of a kernel without a test section too, levels without a template, and the statuses and orders that R327 leaves open, are the
model's choice (log entries 16, 37, 38, 40 and 62). -/
def Obligations.ContextRequests : Prop :=
  (∀ s m tenant,
       (Asks s m tenant → m.body.length = 2 →
         let w := BitVec.ofNat 16 (le m.body 0 2)
         (WorldOpen s tenant w → ∃ s2 C, exec (.contextCreate m) s =
             .next (reply s2 .ready (answerTo m 0 (natToBytes 4 C.handle.toNat ++ natToBytes 2 C.world.toNat)))
           ∧ s2.drv.contexts = s.drv.contexts ++ [C] ∧ C.tenant = tenant ∧ C.ended = none ∧ C.dbgctl = 0 ∧ C.right = none
           ∧ (w ≠ 0 → C.world = w) ∧ (w = 0 → C.world ≠ 0 ∧ C.world.toNat ∉ heldWorlds s) ∧ holdsWorld s2 tenant C.world = true
           ∧ s2.wgs = s.wgs ∧ s2.mem = s.mem)
         ∧ (¬ WorldOpen s tenant w →
             exec (.contextCreate m) s = .next (reply s .ready (answerTo m (if w = 0 then 4 else 3) []))))
       ∧ (∀ C, Asks s m tenant → s.context? m.ctx = some C → C.tenant = tenant → m.body = [] →
           ∃ s2 C' st, exec (.contextEnd m) s = .next (reply s2 (.ctxEnd m.ctx) (answerTo m 0 []))
             ∧ s2.context? m.ctx = some C' ∧ C'.ended = some st ∧ (C.ended ≠ none → s2 = s)
             ∧ (C.ended = none → st.cause = causeCode .killed
                 ∧ ∀ w ∈ wgsOf s m.ctx, ∃ W' : Wg, s2.wgs[w]? = some W' ∧ W'.place = .completed))
       ∧ (∀ (world : BitVec 16) (ss : List Section) (Ks : List Kernel),
           (if m.ctx = 0 then Asks s m tenant ∧ world = 0 else ∃ C, AsksIn s m tenant C ∧ world = C.world) →
           readContainer m.body = some ss →
           (kernelIndices ss).mapM (readKernel ((kernelIndices ss).foldl (Finals.add ss) s.drv.finals) ss world tenant) = some Ks →
         ∃ (s2 : State) (body : List Byte) (news : List Kernel), exec (.load m) s = .next (reply s2 .ready (answerTo m 0 body))
           ∧ s2.drv.kernels = s.drv.kernels ++ news ∧ (news.map fun K => { K with handle := 0 }) = Ks ∧ s2.mem = s.mem
           ∧ (∀ K ∈ Ks, K.world = world ∧ K.tenant = tenant)
           ∧ s2.drv.finals = (kernelIndices ss).foldl (Finals.add ss) s.drv.finals)
       ∧ (∀ K, Asks s m tenant → m.body.length = 4 → OwnKernel s tenant (BitVec.ofNat 32 (le m.body 0 4)) K →
           exec (.unload m) s = .next (reply s (.unload (BitVec.ofNat 32 (le m.body 0 4))) (answerTo m 0 []))
           ∧ exec (.levels m) s = .next (reply s .ready (answerTo m 0 K.levels)))
       ∧ (∀ C r K, AsksIn s m tenant C → readLaunch m.body = some r → OwnKernel s tenant r.kernel K → LaunchOk s tenant C K r →
           ∃ s2 La, exec (.launch m) s = .next (reply s2 .ready (answerTo m 0 (natToBytes 4 La.handle.toNat)))
             ∧ s2.drv.launches = s.drv.launches ++ [La] ∧ La.kernel = r.kernel ∧ La.world = r.world ∧ La.ctx = C.handle
             ∧ La.extents = r.levels.extents ∧ La.binds = mergedBinds K r.binds ∧ La.deps = r.deps ∧ La.queue = r.queue
             ∧ La.prio = ((lookupNat r.queue s.drv.queues).map (·.1)).getD 0 ∧ La.begun = [] ∧ La.status = none
             ∧ ∀ v t, s.versionOf r.ptable = some v → s.table? v = some t → La.params = t.bytes r.poff r.plen)
       ∧ (∀ La, Asks s m tenant → m.body.length = 4 → s.launch? (BitVec.ofNat 32 (le m.body 0 4)) = some La →
           holdsWorld s tenant La.world = true →
           exec (.wait m) s = .next (reply s (.launchDone (BitVec.ofNat 32 (le m.body 0 4))) (answerTo m 0 [])))
       ∧ (∀ T, Asks s m tenant → m.body.length = 32 → s.tenant? tenant = some T →
           ∃ report sig, exec (.attest m) s = .next (reply s .ready (answerTo m 0 (report ++ sig)))
             ∧ report = attestReport s T m.body ∧ sig.length = 29792
             ∧ sig = (Config.slhSign (rootKey 0 0 .identity 0) report).toList)
       ∧ ∀ world kernel T K, s.time.boot = .running → s.tenant? tenant = some T → s.kernel? kernel = some K → K.tenant = tenant →
           K.unloaded = false →
           (∀ s1, testLaunch s tenant world K = some s1 → exec (.testLaunch tenant world kernel) s = .next s1
             ∧ ∃ La, s1.drv.launches = s.drv.launches ++ [La] ∧ La.kernel = kernel ∧ La.test = true)
           ∧ ∀ X lv, WorldOpen s tenant world → (if K.test = [] then X = ⟨[], [], []⟩ else readTest K.test = some X) → X.tables = [] →
               templateLevels K.levels = some lv → widening lv.doms = true → LevelsOk K.header lv → K.temps = [] →
               K.header.psize ≤ X.params.length →
               ∃ t La, exec (.testLaunch tenant world kernel) s = .next t ∧ t.drv.launches = s.drv.launches ++ [La] ∧ La.kernel = kernel
                 ∧ La.test = true ∧ La.params = X.params ∧ La.binds = [] ∧ La.extents = lv.extents)
  ∧ (∀ s w r, (∀ p ∈ s.drv.pend, p.2.ctx ≠ r.ctx ∨ r.ctx = 0) → replyDue s w = true →
      (∀ x ∈ s.drv.sessions, x.id = r.session → x.caller = none) →
       ∃ rs, (reply s w r).drv.replies = s.drv.replies ++ rs ++ [replyBody s w r])
  ∧ ∀ s w r, replyDue s w = false → ∃ ps, (reply s w r).drv.pend = ps ++ [(w, r)]

/-- R107, R164, R322, R327, R343, R344: a client's requests on tables and windows that are in order: each has its effect and is
answered with status 0. Rows that are written stand at home, and no other byte of the table changes. A revocation takes effect at one
point, before its reply; a grant to another tenant waits for its authority, whose admission answers it. A notice of a revocation at
another module fails every access under its window that has no reply yet. A request on a table of another module goes there, and its
reply waits for that module's (log entry 58). The statuses, layouts and orders that R327 leaves open are the model's choice (log entries
37, 39 and 50). -/
def Obligations.TableRequests : Prop :=
  ∀ s m tenant,
    (∀ i id, Asks s m tenant → Forwards m i id → idModule id ≠ s.drv.module → (idModule id).toNat < 6144 →
      let l := Config.linkTo (idModule id).toNat % Config.links
      ∃ s1 k, exec i s = .next (reply s1 (.remote l k) (answerTo m 0 []))
        ∧ (s1.link l).queue = (s.link l).queue ++ [(tenant, 0, .client k m)] ∧ s1.mem = s.mem ∧ s1.wgs = s.wgs) ∧
    (∀ C d, AsksIn s m tenant C → readDesc m.body C.world = some d → TableRoom s d →
      ∃ s1 id T, exec (.tableCreate m) s = .next (reply s1 .ready (answerTo m 0 (natToBytes 4 id.toNat)))
        ∧ s1.mem.tables = s.mem.tables ++ [T] ∧ s1.versionOf id = some s.mem.tables.length ∧ T.desc.owner = C.world
        ∧ T.desc.id = id ∧ T.rows = [] ∧ T.entries = [] ∧ T.desc.width = d.width ∧ T.desc.nslabs = d.slabsNeeded
        ∧ T.desc.slab0 + T.desc.nslabs ≤ 2 ^ 32)
    ∧ (∀ id v T, Asks s m tenant → m.body.length = 4 → id = BitVec.ofNat 32 (le m.body 0 4) → OwnTable s tenant id v T →
        exec (.tableRetire m) s = .next (reply s (.retire id) (answerTo m 0 [])))
    ∧ (∀ rs v T, Asks s m tenant → 4 ≤ m.body.length →
        readRows (countRows (m.body.drop 4).length (m.body.drop 4)) (m.body.drop 4) = some rs →
        OwnTable s tenant (BitVec.ofNat 32 (le m.body 0 4)) v T →
        (∀ s1, putRecords s v (mayTouch s tenant (BitVec.ofNat 32 (le m.body 0 4)) T .wr) rs = .ok s1 →
          exec (.rowsWrite m) s = .next (reply s1 .ready (answerTo m 0 [])) ∧ s1.drv = s.drv ∧ s1.wgs = s.wgs)
        ∧ ∀ R : RowRec → Row, T.desc.unique = true → memWf T.rows = true →
            (∀ r ∈ rs, r.data.length ≤ T.desc.width ∧ (T.desc.k128 = true ∨ r.key.toNat < 2 ^ 64) ∧ T.rowOf false r.key = .ok (R r)) →
            ∃ s1 T', exec (.rowsWrite m) s = .next (reply s1 .ready (answerTo m 0 [])) ∧ s1.table? v = some T'
              ∧ (∀ (i : Nat) (r : RowRec), rs[i]? = some r →
                  (∀ (j : Nat) (q : RowRec), i < j → rs[j]? = some q →
                    (R r).addr + r.data.length ≤ (R q).addr ∨ (R q).addr + q.data.length ≤ (R r).addr) →
                  memRead T'.rows (R r).addr r.data.length = r.data)
              ∧ ∀ a, (∀ r ∈ rs, a < (R r).addr ∨ (R r).addr + r.data.length ≤ a) → memGet T'.rows a = memGet T.rows a)
    ∧ (∀ ks v T (R : Key → Row), Asks s m tenant → 16 ≤ m.body.length → OwnTable s tenant (BitVec.ofNat 32 (le m.body 0 4)) v T →
        readKeys T.desc.k128 (le m.body 12 4 == 1) (m.body.drop 16) = some ks → le m.body 4 4 + le m.body 8 4 ≤ T.desc.width →
        (∀ k ∈ ks, T.rowOf (le m.body 12 4 == 1) k = .ok (R k)) →
        (∀ k ∈ ks, NoBad T ((R k).addr + le m.body 4 4) (le m.body 8 4)) →
        ∃ s1, exec (.rowsRead m) s = .next (reply s1 .ready (answerTo m 0
            (ks.flatMap fun k => T.bytes ((R k).addr + le m.body 4 4) (le m.body 8 4))))
          ∧ (T.weak = [] → s1 = s) ∧ s1.wgs = s.wgs ∧ ∀ k U, s.table? k = some U → ∃ l, s1.table? k = some { U with weak := l })
    ∧ (∀ x y vx vy tx ty, Asks s m tenant → m.body.length = 8 → x = BitVec.ofNat 32 (le m.body 0 4) →
        y = BitVec.ofNat 32 (le m.body 4 4) → OwnTable s tenant x vx tx → OwnTable s tenant y vy ty →
        tx.desc.owner = ty.desc.owner → tx.desc.kind = ty.desc.kind → tx.desc.k128 = ty.desc.k128 → tx.desc.width = ty.desc.width →
        ∃ s1, exec (.tableSwap m) s = .next (reply s1 .ready (answerTo m 0 [])) ∧ s1.versionOf x = some vy ∧ s1.versionOf y = some vx
          ∧ s1.mem.tables = s.mem.tables)
    ∧ (∀ w v T, Asks s m tenant → readWindow m.body = some w → OwnTable s tenant w.table v T → T.desc.owner = w.owner →
        (T.desc.isArray = true ∨ w.lo = 0 ∧ w.hi = BitVec.allOnes 64) → (∀ x ∈ s.drv.sessions, x.id = m.session → x.caller = none) →
        let admitted := worldHolder s w.grantee = some tenant
          ∨ ∃ g ∈ s.drv.grants, g.2 = (w.owner, w.grantee, w.table) ∧ ∀ h, worldHolder s w.grantee = some h → g.1 = h
        (admitted →
          ((usedWindows s).length < 4096 → ∃ i s1, exec (.windowSet m) s = .next (reply s1 .ready (answerTo m 0 (natToBytes 4 i)))
            ∧ i < 4096 ∧ i ∉ usedWindows s ∧ lookupNat i s1.mem.windows = some w ∧ s1.mem.tables = s.mem.tables)
          ∧ (4096 ≤ (usedWindows s).length → exec (.windowSet m) s = .next (reply s .ready (answerTo m 4 []))))
        ∧ (¬ admitted → exec (.windowSet m) s = .next (reply s (.grant w) (answerTo m 0 []))))
    ∧ (∀ i w, Asks s m tenant → m.body.length = 4 → i = le m.body 0 4 → i < 4096 → lookupNat i s.mem.windows = some w →
        holdsWorld s tenant w.owner = true → w.st ≠ .revoked →
              ∃ s1, exec (.windowRevoke m) s = .next (reply s1 (.revoke i) (answerTo m 0 []))
          ∧ lookupNat i s1.mem.windows = some { w with st := .revoked } ∧ s1.mem.tables = s.mem.tables)
    ∧ (∀ n w, lookupNat n s.mem.windows = some w → ∃ t, exec (.revocationNotice n) s = .next t
        ∧ lookupNat n t.mem.windows = some { w with st := .revoked }
        ∧ (∀ l q, q ∈ (s.link l).asks → q.reply = none → q.a.table = w.table → q.world = w.grantee → w.has q.a.op.right = true →
            (let r := ((s.table? q.ver).map fun t => t.winRange q.addr q.a.len).getD (q.addr, q.addr + q.a.len)
             w.lo.toNat ≤ r.1 ∧ r.2 ≤ w.hi.toNat) → { q with reply := some (causeCode .windowRevoked, []) } ∈ (t.link l).asks)
        ∧ let l := Config.linkTo (n / 4096 - 1) % Config.links
          ∃ owner, (t.link l).queue = (s.link l).queue ++ [(owner, 0, .ack n)])
    ∧ (∀ n x, x ∈ s.drv.notices → x.id = n → x.acked = false → ∃ t, exec (.noticeAcknowledgement n) s = .next t
        ∧ ∀ y ∈ t.drv.notices, y.id = n → y.acked = true)
    ∧ ∀ owner grantee table, (s.tenant? tenant).isSome = true → (tenant, owner, grantee, table) ∉ s.drv.grants →
        ∃ t, exec (.grantAdmission tenant owner grantee table) s = .next t ∧ (tenant, owner, grantee, table) ∈ t.drv.grants
          ∧ ∀ w r, s.drv.pend = [(.grant w, r)] → worldHolder s grantee = some tenant → w.owner = owner → w.grantee = grantee →
              w.table = table → (usedWindows s).length < 4096 → (∀ x ∈ s.drv.sessions, x.id = r.session → x.caller = none) →
              ∃ i, i ∉ usedWindows s ∧ lookupNat i t.mem.windows = some w
                ∧ t.drv.replies = s.drv.replies ++ [{ r with body := natToBytes 4 i }]

/-- R292, R327, R337, R354, R355, R358 to R362: a client's DEBUG requests that are in order, and the stops and holds that they ask for. A
revocation frees every stopped group and held split of the context, and no stop that had been asked for is taken after it. The layout of
their operands is the model's (log entry 50); that bit 0 of DBGCTL stays set while the right is held, when trc is accepted, and that an
unbinding clears trc in every context of the world are readings (log entries 35 and 47). Of a snapshot the right sees the counts that
belong to the context and to its tenant; which units there are and what each counts is the model's (log entry 50). -/
def Obligations.DebugRequests : Prop :=
  ∀ s m tenant C,
    (AsksIn s m tenant C → m.body.length = 1 →
      (∃ s1 C', exec (.debugGrantRight m) s = .next (reply s1 .ready (answerTo m 0 [])) ∧ s1.context? C.handle = some C'
        ∧ C'.right = some m.session ∧ C'.dbgctl.getLsbD 0 = true)
      ∧ ∃ s1 C', exec (.debugRevokeRight m) s = .next (reply s1 .ready (answerTo m 0 []))
          ∧ s1.context? C.handle = some C' ∧ C'.right = none ∧ C'.dbgctl = 0 ∧ C'.breaks = [] ∧ C'.watches = []
          ∧ (∀ d, ∀ p ∈ (s1.die d).tr.pend, p.ctx ≠ C.handle)
          ∧ ∀ w ∈ wgsOf s C.handle, (∀ i ∈ s1.ctl.asked, askedWg i ≠ some w)
              ∧ ∀ g G, s1.group? w g = some G → G.stopped = none ∧ ∀ p ∈ G.L.splits, p.st ≠ .held)
    ∧ (AsksDebug s m tenant C →
      (m.body.length = 9 → bitsOf (leW m.body 1) 63 6 = 0 →
        ((leW m.body 1).getLsbD 5 = false ∨ (∃ p ∈ s.dies, p.2.tr.world = C.world) ∨ ∀ p ∈ s.dies, p.2.tr.world = 0) →
        ∃ s1 C', exec (.debugWriteDbgctl m) s = .next (reply s1 .ready (answerTo m 0 [])) ∧ s1.context? C.handle = some C'
          ∧ C'.dbgctl = (leW m.body 1).setWidth 6 ||| 1)
      ∧ (le m.body 1 1 < 8 → m.body.length = 10 → bitsOf (leW m.body 2) 60 26 = 0 →
        ∃ s1 C', exec (.debugWriteBreakpoint m) s = .next (reply s1 .ready (answerTo m 0 [])) ∧ s1.context? C.handle = some C'
          ∧ lookupNat (le m.body 1 1) C'.breaks = some [leW m.body 2] ∧ C'.watches = C.watches)
      ∧ (8 ≤ le m.body 1 1 → le m.body 1 1 < 12 → m.body.length = 18 → bitsOf (leW m.body 2) 53 32 = 0 →
        ∃ s1 C', exec (.debugWriteBreakpoint m) s = .next (reply s1 .ready (answerTo m 0 [])) ∧ s1.context? C.handle = some C'
          ∧ lookupNat (le m.body 1 1 - 8) C'.watches = some [leW m.body 2, leW m.body 10] ∧ C'.breaks = C.breaks)
      ∧ (∀ w g G, m.body.length = 12 → Named s C m.body 2 w g G →
        (le m.body 1 1 = 0 → ∃ s1, exec (.debugStopOrHold m) s = .next (reply s1 .ready (answerTo m 0 []))
          ∧ s1.ctl.asked = s.ctl.asked ++ [.debugStop w g] ∧ s1.wgs = s.wgs)
        ∧ (le m.body 1 1 = 1 → le m.body 11 1 < 8 → ∃ s1, exec (.debugStopOrHold m) s = .next (reply s1 .ready (answerTo m 0 []))
          ∧ s1.ctl.asked = s.ctl.asked ++ [.splitHold w g (le m.body 11 1)] ∧ s1.wgs = s.wgs)
        ∧ (le m.body 1 1 = 2 → le m.body 11 1 < 8 → (G.split (le m.body 11 1)).st = .held →
          ∃ s1 G', exec (.debugStopOrHold m) s = .next (reply s1 .ready (answerTo m 0 [])) ∧ s1.group? w g = some G'
            ∧ (G'.split (le m.body 11 1)).st = .ready ∧ (G'.split (le m.body 11 1)).lpc = (G.split (le m.body 11 1)).lpc))
      ∧ (∀ w g G v, Named s C m.body 2 w g G → ReadsState G (le m.body 11 1) (le m.body 12 1) (le m.body 13 2) v →
        (m.body.length = 15 → le m.body 1 1 ≠ 1 →
          exec (.debugStateAccess m) s = .next (reply s .ready (answerTo m 0 (natToBytes 8 v.toNat))))
        ∧ (m.body.length = 23 → le m.body 1 1 = 1 → le m.body 11 1 ∈ [0, 1, 2, 3, 5] →
          (le m.body 11 1 = 2 → bitsOf (leW m.body 15) 63 7 = 0) →
          (le m.body 11 1 = 5 → ∀ q ∈ frameRsv (le m.body 13 2), bitsOf (leW m.body 15) q.1 q.2 = 0) →
          ∃ s1 G', exec (.debugStateAccess m) s = .next (reply s1 .ready (answerTo m 0 [])) ∧ s1.group? w g = some G'
            ∧ EditedState G G' (le m.body 11 1) (le m.body 12 1) (le m.body 13 2) (leW m.body 15) ∧ s1.mem = s.mem))
      ∧ (m.body.length = 4 → le m.body 1 1 = 0 → le m.body 2 1 < 32 → 8 ≤ le m.body 3 1 → le m.body 3 1 ≤ 30 →
        ((s.die (le m.body 2 1)).tr.world = 0 ∨ (s.die (le m.body 2 1)).tr.world = C.world) →
        ∃ s1, exec (.debugTraceChannel m) s = .next (reply s1 .ready (answerTo m 0 [])) ∧ (s1.die (le m.body 2 1)).tr.world = C.world
          ∧ (s1.die (le m.body 2 1)).tr.wr = 0 ∧ (s1.die (le m.body 2 1)).tr.rd = 0 ∧ (s1.die (le m.body 2 1)).tr.first = true)
      ∧ (le m.body 2 1 < 32 → (s.die (le m.body 2 1)).tr.world = C.world →
        let d := le m.body 2 1
        let T := (s.die d).tr
        (m.body.length = 20 → le m.body 1 1 = 1 → le m.body 3 1 < 16 → bitsOf (leW m.body 4) 33 26 = 0 →
            bitsOf (leW m.body 12) 63 58 = 0 →
          ∃ s1, exec (.debugTraceChannel m) s = .next (reply s1 .ready (answerTo m 0 []))
            ∧ (s1.die d).tr = { T with rules := T.rules.set (le m.body 3 1) (leW m.body 4, leW m.body 12) })
        ∧ (m.body.length = 3 → le m.body 1 1 = 2 → ∃ s1, exec (.debugTraceChannel m) s = .next (reply s1 .ready (answerTo m 0 []))
            ∧ (s1.die d).tr.world = 0 ∧ ∀ D ∈ s1.drv.contexts, D.world = C.world → D.dbgctl.getLsbD 5 = false)
        ∧ (m.body.length = 3 → le m.body 1 1 = 3 → exec (.debugTraceChannel m) s =
            .next (reply s .ready (answerTo m 0 (natToBytes 4 T.wr.toNat ++ natToBytes 4 T.rd.toNat ++ T.unread))))
        ∧ (m.body.length = 7 → le m.body 1 1 = 4 → le m.body 3 4 < 2 ^ T.lg.toNat →
          ∃ s1, exec (.debugTraceChannel m) s = .next (reply s1 .ready (answerTo m 0 []))
            ∧ (s1.die d).tr.rd.toNat = le m.body 3 4))
      ∧ (m.body.length = 1 → ∃ s1, exec (.debugNoonTrigger m) s = .next (reply s1 .ready (answerTo m 0
            (natToBytes 8 (s1.drv.noon.getD 0).toNat ++ (List.range snapRegs).flatMap fun k => natToBytes 8 (snapReg s1 C k).toNat)))
          ∧ s1.wgs = s.wgs ∧ s1.mem = s.mem
          ∧ (∀ n, s.drv.noon = some n → s.time.clock.toNat < n.toNat + 1000 → s1 = s)
          ∧ ((∀ n, s.drv.noon = some n → n.toNat + 1000 ≤ s.time.clock.toNat) → s1.drv.noon = some s.time.clock
              ∧ ∀ u l, lookupNat u s.meters = some l →
                  let mine := (l.filter fun p => decide (p.1 = .ctx C.handle ∨ p.1 = .tenant C.tenant)).map (·.2)
                  snapReg s1 C (3 * u) = (mine.map fun k => BitVec.ofNat 64 k.issued).sum
                  ∧ snapReg s1 C (3 * u + 1) = (mine.map fun k => BitVec.ofNat 64 k.stalled).sum
                  ∧ snapReg s1 C (3 * u + 2) = (mine.map fun k => BitVec.ofNat 64 k.resident).sum)))

/-- R354, R356: a group of die d that runs a block has its events traced: its world has the die's channel, and trc is set. -/
def Traces (s : State) (E : Env) (d : Nat) : Prop :=
  E.W.die = d ∧ E.W.place = .active ∧ E.G.L.running = true ∧ E.C.dbgctl.getLsbD 5 = true ∧ (s.die d).tr.world = E.world ∧ E.world ≠ 0

/-- R299, R354 to R356, R359: a group stop that has been asked for stops the group and reports its cause; a split hold holds the
split at its issue boundary; SYNC writes to the ring the packet that count 256 has made due, and LOSS, once they fit together, the count
of the packets dropped and then a SYNC: each whole, at wr, and wr moves past it. A SYNC lists the traced groups of the die that run a
block, in gref order, with their live entries, each at its L-PC with its mask. -/
def Obligations.StopsAndSyncs : Prop :=
  (∀ s w g E, envAt s w g = some E → .debugStop w g ∈ s.ctl.asked → E.C.dbgctl.getLsbD 0 = true → E.issues = true →
      ∃ t G', exec (.debugStop w g) s = .next t ∧ t.group? w g = some G' ∧ G'.stopped = some .debugStop ∧ G'.S.s = E.G.S.s
        ∧ OnlyWgs s t)
  ∧ (∀ s w g e E, envAt s w g = some E → .splitHold w g e ∈ s.ctl.asked → E.C.dbgctl.getLsbD 0 = true → E.issues = true →
      atBoundary E.G e = true → e < E.G.L.splits.length → E.G.regionOf (E.G.split e).mask = none →
      ∃ t G', exec (.splitHold w g e) s = .next t ∧ t.group? w g = some G' ∧ (G'.split e).st = .held
        ∧ (G'.split e).why = some .debugStop ∧ (G'.split e).lpc = (E.G.split e).lpc ∧ (G'.split e).mask = (E.G.split e).mask ∧ OnlyWgs s t)
  ∧ (∀ s d, let T := (s.die d).tr
      let sync := natToBytes 8 s.time.clk ++ natToBytes 8 s.time.clock.toNat ++ natToBytes 1 (syncGroups s d).length
        ++ (syncGroups s d).flatMap fun p => natToBytes 2 p.1 ++ natToBytes 1 (p.2.foldl (fun a e => a + 2 ^ e.1) 0)
            ++ p.2.flatMap fun e => natToBytes 4 e.2.1.toNat ++ natToBytes 4 e.2.2.toNat
      (syncGroups s d).Pairwise (fun p q => p.1 ≤ q.1)
      ∧ (T.pend = [] → ∀ p, p ∈ syncGroups s d ↔ ∃ w g E, envAt s w g = some E ∧ Traces s E d ∧ p.1 < 1024
          ∧ p = (E.W.core * 64 + E.W.slotOf g, E.G.liveEntries.map fun e => (e, (E.G.split e).lpc, (E.G.split e).mask)))
      ∧ (T.world ≠ 0 → T.dropped = 0 → 255 ≤ T.since → memWf T.buf = true →
        let bs := headerOf 5 (s.time.clk - T.last) ++ sync
        (bs.length ≤ T.free → ∃ t, exec (.sync d) s = .next t ∧ RingWrote T (t.die d).tr bs ∧ (t.die d).tr.since = 0
          ∧ (t.die d).tr.last = s.time.clk ∧ (t.die d).tr.dropped = 0 ∧ t.wgs = s.wgs ∧ t.mem = s.mem)
        ∧ (T.free < bs.length → ∃ t, exec (.sync d) s = .next t ∧ (t.die d).tr = { T with dropped := 1 } ∧ t.wgs = s.wgs ∧ t.mem = s.mem))
      ∧ (T.world ≠ 0 → T.dropped ≠ 0 → memWf T.buf = true →
        let bs := headerOf 6 (s.time.clk - T.last) ++ natToBytes 4 (min T.dropped 0xFFFFFFFF) ++ headerOf 5 0 ++ sync
        (bs.length ≤ T.free → ∃ t, exec (.loss d) s = .next t ∧ RingWrote T (t.die d).tr bs ∧ (t.die d).tr.dropped = 0
          ∧ (t.die d).tr.since = 0 ∧ (t.die d).tr.last = s.time.clk ∧ t.wgs = s.wgs ∧ t.mem = s.mem)
        ∧ (T.free < bs.length → exec (.loss d) s = .next s)))


/-! ### Links, tenants, power -/

/-- R347, R348: the unacknowledged flits of every owner of a link, as `k` keeps them, in the order of their first transmissions. -/
def InFirstOrder (k : Link) (fs : List SentFlit) : Prop :=
  fs.Pairwise (fun f q => f.place < q.place) ∧ ∀ f, f ∈ fs ↔ ∃ x ∈ k.owners, f ∈ x.retry

/-- R348: a link under a new period: what every owner of it has to send again, from counter 0, under the new key, with the plaintexts
that it has had, and in the order in which they were first sent. -/
def Rekeyed (s t : State) (link : Nat) (peer : BitVec 32) : Prop :=
  let k := s.link link
  let k' := t.link link
  k'.period = (if k.period.toNat < peer.toNat then peer else k.period) + 1
  ∧ (∀ x ∈ k'.owners, x.expect = 0 ∧ x.send = BitVec.ofNat 64 x.retry.length
      ∧ (∃ y ∈ k.owners, y.owner = x.owner ∧ x.retry.map (fun f => (f.plain, f.place)) = y.retry.map fun f => (f.plain, f.place))
      ∧ ∀ (i : Nat) (f : SentFlit), x.retry[i]? = some f → f.counter = BitVec.ofNat 64 i
          ∧ f.bytes = Config.flitSeal ((fabricKey s link k'.period x.owner).getD [])
              (flitNonce link (Config.linkSide link) (BitVec.ofNat 64 i)) f.plain)
  ∧ (((k.owners.flatMap (·.retry)).map (·.place)).Nodup → ∃ fs, InFirstOrder k' fs ∧ Resent k k' fs)

/-- R371: an agent has asked for an access. -/
def AskedFor (s : State) (who : Asker) (f : Far) (q : Ask) : Prop :=
  (∃ l ∈ s.links, q ∈ l.2.asks) ∧ q.who = who ∧ q.lane = f.lane ∧ q.ver = f.ver ∧ q.addr = f.addr ∧ q.a.table = f.a.table
    ∧ q.a.row = f.a.row ∧ q.a.at_ = f.a.at_ ∧ q.a.len = f.a.len

/-- R344, R371: nothing has happened but that accesses have gone out on their links. -/
def OnlyAsked (s t : State) : Prop := t.mem = s.mem ∧ t.wgs = s.wgs ∧ t.cores = s.cores ∧ t.jobs = s.jobs ∧ t.reds = s.reds

/-- R176, R343, R344, R347, R348, R371: only the flit with the next counter of its owner is accepted, once; a flit that does not
authenticate is dropped, NAKed and logged, and the third in a row starts a retrain; an acknowledgement takes from the retry buffer what it
reaches and nothing later; a NAK sends what is left again, byte for byte, but for virtual lanes that are stopped; a first transmission uses
the owner's next counter and stays in its retry buffer; a retrain and a rekey restart the counters under a greater period, and send what is
not acknowledged again in its order; a failed link puts windows under repair; a migration marks a slab absent or a window under repair,
unless a service holds it present. A scalar word on a table of another module sends its access, once its checks here pass, and does
nothing else; it waits for the reply; it issues on what the reply brings, or traps with the cause that the reply names. Which flit breaks
the protocol, what its content does, how far an acknowledgement reaches and how a word waits are the model's readings (log entries 42 and
58). -/
def Obligations.LinkEvents : Prop :=
  (∀ s link, link < Config.links → (s.link link).failed = false →
    (∀ f, (s.link link).retrain = false →
      let k := s.link link
      let open_ := (fabricKey s link k.period f.owner).bind fun key =>
        Config.flitOpen key (flitNonce link (!Config.linkSide link) f.counter) f.bytes
      (∀ p, open_ = some p → f.counter = (k.owner f.owner).expect → ∃ t, exec (.zhenanFlitReceive link f) s = .next t
          ∧ ((t.link link).owner f.owner).expect = f.counter + 1 ∧ (t.link link).took = k.took ++ [(f.owner, p)]
          ∧ (t.link link).fails = 0)
      ∧ (∀ p, open_ = some p → f.counter ≠ (k.owner f.owner).expect → exec (.zhenanFlitReceive link f) s = .next s)
      ∧ (open_ = none → ∃ t, exec (.zhenanFlitReceive link f) s = .next t
          ∧ t.link link = { k with fails := k.fails + 1, naks := k.naks + 1, retrain := decide (3 ≤ k.fails + 1) }
          ∧ (∃ e, t.drv.log = s.drv.log ++ [e] ∧ e.cause = .linkAuth) ∧ t.mem = s.mem ∧ t.wgs = s.wgs))
    ∧ (∀ o ctr, (∃ y ∈ (s.link link).owners, y.owner = o) →
      (∃ t, exec (.flitAck link o ctr) s = .next t
        ∧ ((t.link link).owner o).retry = ((s.link link).owner o).retry.filter (fun f => decide (ctr.toNat < f.counter.toNat))
        ∧ (t.link link).again = (s.link link).again.filter (fun f => decide (f.owner ≠ o ∨ ctr.toNat < f.counter.toNat))
        ∧ ((t.link link).owner o).send = ((s.link link).owner o).send
        ∧ (∀ q, q ≠ o → (t.link link).owner q = (s.link link).owner q) ∧ (t.link link).wire = (s.link link).wire)
      ∧ ∃ t, exec (.flitNak link o) s = .next t ∧ Resent (s.link link) (t.link link)
          (((s.link link).again.filter fun f => f.owner != o) ++ ((s.link link).owner o).retry)
        ∧ (t.link link).owners = (s.link link).owners)
    ∧ (∀ q key, (s.link link).queue.head? = some q → (s.link link).retrain = false →
        (s.link link).stopped.getLsbD (q.2.1 % 8) = false → fabricKey s link (s.link link).period q.1 = some key →
        let x := (s.link link).owner q.1
        x.send.toNat < 2 ^ 40 →
        let k' := (transmit s link).link link
        ∃ f : SentFlit, k'.wire = (s.link link).wire ++ [(q.1, x.send, f.bytes)] ∧ (k'.owner q.1).send = x.send + 1
          ∧ (k'.owner q.1).retry = x.retry ++ [f] ∧ f.owner = q.1 ∧ f.counter = x.send ∧ f.plain = flitBytes q.2.1 q.2.2
          ∧ f.bytes = Config.flitSeal key (flitNonce link (Config.linkSide link) x.send) f.plain
          ∧ k'.queue = (s.link link).queue.tail)
    ∧ (∀ peer, ∃ t, exec (.linkRetrain link peer) s = .next t ∧ (t.link link).fails = 0 ∧ (t.link link).retrain = false
        ∧ Rekeyed s t link peer ∧ ∃ e, t.drv.log = s.drv.log ++ [e] ∧ e.cause = .linkRetrain)
    ∧ (∀ x ∈ (s.link link).owners, (2 ^ 40 ≤ x.send.toNat ∨ 2 ^ 40 ≤ x.expect.toNat) →
        ∃ (t : State) (peer : BitVec 32), exec (.linkRekey link x.owner) s = .next t ∧ Rekeyed s t link peer ∧ t.drv.log = s.drv.log)
    ∧ (∀ vl : BitVec 3, (∃ t, exec (.virtualLaneStop link vl true) s = .next t ∧ (t.link link).stopped.getLsbD vl.toNat = true)
        ∧ ∃ t, exec (.virtualLaneStop link vl false) s = .next t ∧ (t.link link).stopped.getLsbD vl.toNat = false
          ∧ Resent (s.link link) (t.link link) (s.link link).again)
    ∧ (∀ ws, ∃ t, exec (.linkFailure link ws) s = .next t ∧ (t.link link).failed = true
        ∧ ∀ i w, (i, w) ∈ t.mem.windows → i ∈ ws → w.st ≠ .active)
    ∧ (∀ id slab v T, s.versionOf id = some v → s.table? v = some T → slab < T.desc.nslabs → slab ∉ T.absent →
        (∀ W ∈ s.wgs, Need.slab v slab ∉ W.holds ∧ ∀ f ∈ W.faults, Need.slab v slab ∉ f.needs) →
        ∃ t T', exec (.slabMigration (.slab id slab)) s = .next t ∧ t.table? v = some T'
          ∧ T'.absent = T.absent ++ [slab] ∧ T'.rows = T.rows ∧ ∃ place, lookupNat slab T'.moves = some place)
    ∧ ∀ i, (∀ W ∈ s.wgs, Need.window i ∉ W.holds ∧ ∀ f ∈ W.faults, Need.window i ∉ f.needs) →
        ∃ t, exec (.slabMigration (.window i)) s = .next t
        ∧ (∀ w, (i, w) ∈ t.mem.windows → w.st ≠ .active) ∧ t.mem.tables = s.mem.tables)
  ∧ ∀ s w g E x i f, envOf (s.turnTo w g 0) = some E → beforeWord s E none = none → E.G.S.stall.holds = false →
      breakAt E.C false E.G.S.pc = none → E.K.scode[E.G.S.pc.toNat]? = some x → decodeS x = .ok i →
      E.tagMiss (scalarUses E i) = none →
      let s0 := s.turnTo w g 0
      let who := Asker.stream w g E.G.S.pc
      let ends := fun (s2 : State) (s' : State) => afterS E (firstTrap s2 E s')
      (∀ d a t o b r, i = .skld d a t o ∨ i = .skst d a t o → slotOf s0 E.La t = .bound b → b.t.rowOf true ((E.G.rS a).setWidth 128) = .ok r →
        let op : FabOp := if i = .skld d a t o then .load else .store (wordToBytes 8 (E.G.rS d))
        let id := s0.idOf b.v b.t
        farS s0 E i = if idModule id = s0.drv.module then [] else
          [{ lane := 0, slot := b.slot, ver := b.v, addr := r.addr + 8 * o.toNat
             a := { table := id, row := some (true, (E.G.rS a).setWidth 128), at_ := 8 * o.toNat, len := 8, op := op } }])
      ∧ (farS s0 E i = [f] →
        ((∀ q, ¬ AskedFor s who f q) → ∀ T G', exec i s0 = .next T → (ends s0 T).group? w g = some G' → G'.fin = .running →
          G'.T.traps = E.G.T.traps → G'.S.pc ≠ E.G.S.pc →
          ∃ t k, takeTurn s (.sWord w g) = .next t ∧ OnlyAsked s t
            ∧ (t.link (linkOf f.a.table)).queue = (s.link (linkOf f.a.table)).queue ++ [(E.C.tenant, 0, .request k E.world f.a)]
            ∧ { id := k, owner := E.C.tenant, world := E.world, who := who, lane := f.lane, ver := f.ver, addr := f.addr, a := f.a
                reply := none } ∈ (t.link (linkOf f.a.table)).asks)
        ∧ ((∃ q, AskedFor s who f q) → (∃ l ∈ s.links, ∃ q ∈ l.2.asks, q.who = who ∧ q.reply = none) →
            takeTurn s (.sWord w g) = .next s0)
        ∧ ∀ q r data, AskedFor s who f q → q.reply = some (r, data) → s.asksOf who = [q] →
            let taken : State := { s0 with links := s0.links.map fun l => (l.1, { l.2 with asks := l.2.asks.filter fun q => q.who != who }) }
            let s2 := if data = [] then taken else
              taken.modTable f.ver fun t => { t with rows := memWrite t.rows f.addr (data.take f.a.len) }
            (r = 0 → takeTurn s (.sWord w g) = onNext (exec i s2) (ends s2))
            ∧ ∀ c, r = causeCode c → takeTurn s (.sWord w g) =
                .next (applyS taken E (.fail c (f.slot.setWidth 64) (match i with | .skld _ a _ _ | .skst _ a _ _ => E.G.rS a | _ => 0))))

/-- R325, R326, R342, R345, R346, R350: admission, sessions, periods and secrets; the retirement of a tenant ends every context of it; a
context whose work is quiet leaves the module sealed under its transfer key, with its workgroups' images, and nothing of it stays; one
whose work is not quiet stays, descheduled; the other end, which derives the same key and where no other tenant holds its world, takes
it in and seals its images under its own key. When a context is quiet, what of its launches travels, and when the other end takes an image,
are readings (log entry 33). -/
def Obligations.TenantEvents : Prop :=
  ∀ s tenant,
    (∀ record, s.time.boot = .running → s.tenant? tenant = none → ∃ t T, exec (.tenantAdmission tenant record) s = .next t
        ∧ t.tenant? tenant = some T ∧ T.record = record ∧ T.period = 0 ∧ T.transfer = none)
    ∧ (∀ n, s.time.boot = .running → (s.tenant? tenant).isSome = true → (∀ x ∈ s.drv.sessions, x.id ≠ n) →
        ∃ t x, exec (.sessionOpen n tenant) s = .next t ∧ t.session? n = some x ∧ x.tenant = tenant)
    ∧ (∀ T, s.tenant? tenant = some T →
        (∃ t T', exec (.periodAdvance tenant) s = .next t ∧ t.tenant? tenant = some T' ∧ T'.period = T.period + 1)
        ∧ (∃ t, exec (.tenantRetirement tenant) s = .next t ∧ t.tenant? tenant = none
            ∧ ∀ c C, s.context? c = some C → C.tenant = tenant → ∃ C' st, t.context? c = some C' ∧ C'.ended = some st
                ∧ (C.ended = none → st.cause = causeCode .killed) ∧ (C.ended ≠ none → C' = C))
        ∧ ∀ x wrapped, Config.unwrap (rootKey tenant T.period .wrap 0) wrapped = some x →
          (∃ t T', exec (.secretDelivery tenant .fabric wrapped) s = .next t ∧ t.tenant? tenant = some T' ∧ T'.fabric = some x
            ∧ T'.transfer = T.transfer)
          ∧ ∃ t T', exec (.secretDelivery tenant .transfer wrapped) s = .next t ∧ t.tenant? tenant = some T' ∧ T'.transfer = some x)
    ∧ (∀ c C handover T secret, s.context? c = some C → C.tenant = tenant → C.ended = none → s.tenant? tenant = some T →
        T.transfer = some secret →
        let ws := (wgsOf s c).filter fun w => (s.wgs[w]?).any fun W => W.place != .completed
        let quiet := (∀ w ∈ ws, ∀ W, s.wgs[w]? = some W → W.place ≠ .image ∧ W.place ≠ .leaving ∧ WholeImage s w W)
          ∧ (∀ j ∈ s.jobs, j.wg ∈ ws → j.state ≠ .started) ∧ ∀ r ∈ s.reds, r.wg ∉ ws
        let key : KeyName := { tenant := T.id, period := T.period, purpose := .transfer, context := c.toNat + 2 ^ 32 * handover.toNat }
        (quiet → ∃ (t : State) (T' : Tenant) (x : Transit), exec (.contextMigrate c handover) s = .next t ∧ t.context? c = none
          ∧ t.tenant? tenant = some T' ∧ T'.transfer = none ∧ t.drv.transit = s.drv.transit ++ [x] ∧ x.context = C
          ∧ x.handover = handover ∧ x.sent = true
          ∧ x.sealing = Config.gcmSeal (deriveKey secret key.tenant key.period key.purpose key.context) []
              (natToBytes 4 c.toNat ++ natToBytes 4 handover.toNat)
          ∧ (∀ l ∈ x.launches, l.ctx = c ∧ l.status = none
              ∧ ∀ d ∈ l.deps, ∀ P, s.launch? d.producer = some P → P.status = none)
          ∧ x.wgs.length = ws.length
          ∧ ∀ (i w : Nat), ws[i]? = some w → ∃ W V Z : Wg, s.wgs[w]? = some W ∧ x.wgs[i]? = some V ∧ t.wgs[w]? = some Z
              ∧ V.scratch = W.scratch ∧ V.place = .resumable ∧ V.sealedBy = some key ∧ Z.place = .completed ∧ Z.scratch = [])
        ∧ ((∃ w ∈ ws, ∃ W, s.wgs[w]? = some W ∧ (W.place = .image ∨ W.place = .leaving))
            ∨ (∃ j ∈ s.jobs, j.wg ∈ ws ∧ j.state = .started) ∨ (∃ r ∈ s.reds, r.wg ∈ ws) →
          ∃ t, exec (.contextMigrate c handover) s = .next t ∧ t.context? c = some C ∧ t.drv = s.drv))
    ∧ ∀ c handover x T secret, s.drv.transit = [x] → x.ctx = c → x.handover = handover → x.confirmed = false → x.sent = false →
        x.context.handle = c → (∀ h, worldHolder s x.context.world = some h → h = tenant) →
        x.context.tenant = tenant → s.tenant? tenant = some T → T.transfer = some secret →
        x.sealing = Config.gcmSeal (deriveKey secret T.id T.period .transfer (c.toNat + 2 ^ 32 * handover.toNat)) []
          (natToBytes 4 c.toNat ++ natToBytes 4 handover.toNat) → s.context? c = none →
        (∀ l ∈ x.launches, s.launch? l.handle = none) → (∀ k ∈ x.kernels, ∀ K, s.kernel? k.handle = some K → K = k) →
        ∃ t T', exec (.migrationConfirm c handover true) s = .next t ∧ t.context? c = some x.context ∧ t.tenant? tenant = some T'
          ∧ T'.transfer = none ∧ t.drv.launches = s.drv.launches ++ x.launches ∧ t.wgs.length = s.wgs.length + x.wgs.length
          ∧ ∀ (i : Nat) (W : Wg), x.wgs[i]? = some W → ∃ V : Wg, t.wgs[s.wgs.length + i]? = some V ∧ V.scratch = W.scratch
              ∧ V.place = W.place ∧ V.groups = W.groups
              ∧ V.sealedBy = some { tenant := T.id, period := T.period, purpose := .image, context := c.toNat }

/-- R13, R298, R351, R367 to R369: a boot from an image that verifies against the Skovgan key starts CLOCK at zero, and reaches its last
step or stops; one that does not is refused until another image arrives; a shutdown, by undervoltage or by any die at its shutdown
temperature although the clock has been lowered, loses everything but the event log; the arithmetic clock may be lowered; context state
that cannot be corrected ends its context. What a shutdown keeps is a reading (log entry 34). -/
def Obligations.PowerEvents : Prop :=
  let good := fun image => Config.slhVerify Config.skovganKey image
  (∀ s, s.time.boot = .powerOn ∨ s.time.boot = .off → ∃ t, exec .boot s = .next t
      ∧ (good Config.firmware = true → t.time.clock = 0 ∧ (t.time.boot = .running ∨ t.time.boot = .off)
          ∧ t.drv.firmware = Config.firmware)
      ∧ (good Config.firmware = false → t.time.boot = .refused) ∧ t.wgs = s.wgs ∧ t.mem = s.mem)
  ∧ (∀ s image, s.time.boot = .refused → ∃ t, exec (.firmwareImageReceive image) s = .next t
      ∧ (good image = true → t.time.clock = 0 ∧ (t.time.boot = .running ∨ t.time.boot = .off) ∧ t.drv.firmware = image)
      ∧ (good image = false → t.time.boot = .refused) ∧ t.wgs = s.wgs ∧ t.mem = s.mem)
  ∧ (∀ s, ∃ t, exec .undervoltagePowerDown s = .next t ∧ t.time.boot = .off ∧ t.mem = State.reset.mem ∧ t.wgs = []
      ∧ t.jobs = [] ∧ t.reds = [] ∧ t.cores = State.reset.cores ∧ t.drv.log = s.drv.log ∧ t.drv.contexts = [] ∧ t.drv.tenants = []
      ∧ t.drv.launches = [] ∧ t.drv.kernels = [])
  ∧ (∀ s d, d < 68 → (s.time.slow = true → exec (.thermalShutdown d) s = exec .undervoltagePowerDown s)
      ∧ (s.time.slow = false → exec (.thermalShutdown d) s = .next s))
  ∧ (∀ s b, ∃ t, exec (.clockThrottle b) s = .next t ∧ t.time.slow = b ∧ t.time.clock = s.time.clock ∧ t.mem = s.mem ∧ t.wgs = s.wgs)
  ∧ ∀ s c C, s.context? c = some C → C.ended = none → ∃ t C' st, exec (.stateUncorr c) s = .next t ∧ t.context? c = some C'
      ∧ C'.ended = some st ∧ st.cause = causeCode .stateUncorr ∧ st.err = true
      ∧ ∀ w ∈ wgsOf s c, ∃ W' : Wg, t.wgs[w]? = some W' ∧ W'.place = .completed ∧ W'.scratch = []
end

