-- ==== Sys2Proof/Laws/State.lean ====
section
/-! SUPPORT. What each update of the state leaves as it was, field by field, and reading a scalar register after a write. -/

namespace Sys2Proof.Machine

/-! ### setCore -/

@[simp] theorem State.setCore_time (s : State) (c : Nat) (v : Core) : (s.setCore c v).time = s.time := rfl
@[simp] theorem State.setCore_mem (s : State) (c : Nat) (v : Core) : (s.setCore c v).mem = s.mem := rfl
@[simp] theorem State.setCore_drv (s : State) (c : Nat) (v : Core) : (s.setCore c v).drv = s.drv := rfl
@[simp] theorem State.setCore_wgs (s : State) (c : Nat) (v : Core) : (s.setCore c v).wgs = s.wgs := rfl
@[simp] theorem State.setCore_dies (s : State) (c : Nat) (v : Core) : (s.setCore c v).dies = s.dies := rfl
@[simp] theorem State.setCore_jobs (s : State) (c : Nat) (v : Core) : (s.setCore c v).jobs = s.jobs := rfl
@[simp] theorem State.setCore_reds (s : State) (c : Nat) (v : Core) : (s.setCore c v).reds = s.reds := rfl
@[simp] theorem State.setCore_late (s : State) (c : Nat) (v : Core) : (s.setCore c v).late = s.late := rfl
@[simp] theorem State.setCore_links (s : State) (c : Nat) (v : Core) : (s.setCore c v).links = s.links := rfl
@[simp] theorem State.setCore_ctl (s : State) (c : Nat) (v : Core) : (s.setCore c v).ctl = s.ctl := rfl

/-! ### setDie -/

@[simp] theorem State.setDie_time (s : State) (d : Nat) (v : Die) : (s.setDie d v).time = s.time := rfl
@[simp] theorem State.setDie_mem (s : State) (d : Nat) (v : Die) : (s.setDie d v).mem = s.mem := rfl
@[simp] theorem State.setDie_drv (s : State) (d : Nat) (v : Die) : (s.setDie d v).drv = s.drv := rfl
@[simp] theorem State.setDie_wgs (s : State) (d : Nat) (v : Die) : (s.setDie d v).wgs = s.wgs := rfl
@[simp] theorem State.setDie_cores (s : State) (d : Nat) (v : Die) : (s.setDie d v).cores = s.cores := rfl
@[simp] theorem State.setDie_jobs (s : State) (d : Nat) (v : Die) : (s.setDie d v).jobs = s.jobs := rfl
@[simp] theorem State.setDie_reds (s : State) (d : Nat) (v : Die) : (s.setDie d v).reds = s.reds := rfl
@[simp] theorem State.setDie_late (s : State) (d : Nat) (v : Die) : (s.setDie d v).late = s.late := rfl
@[simp] theorem State.setDie_links (s : State) (d : Nat) (v : Die) : (s.setDie d v).links = s.links := rfl
@[simp] theorem State.setDie_ctl (s : State) (d : Nat) (v : Die) : (s.setDie d v).ctl = s.ctl := rfl

/-! ### setLink -/

@[simp] theorem State.setLink_time (s : State) (l : Nat) (v : Link) : (s.setLink l v).time = s.time := rfl
@[simp] theorem State.setLink_mem (s : State) (l : Nat) (v : Link) : (s.setLink l v).mem = s.mem := rfl
@[simp] theorem State.setLink_drv (s : State) (l : Nat) (v : Link) : (s.setLink l v).drv = s.drv := rfl
@[simp] theorem State.setLink_wgs (s : State) (l : Nat) (v : Link) : (s.setLink l v).wgs = s.wgs := rfl
@[simp] theorem State.setLink_cores (s : State) (l : Nat) (v : Link) : (s.setLink l v).cores = s.cores := rfl
@[simp] theorem State.setLink_dies (s : State) (l : Nat) (v : Link) : (s.setLink l v).dies = s.dies := rfl
@[simp] theorem State.setLink_jobs (s : State) (l : Nat) (v : Link) : (s.setLink l v).jobs = s.jobs := rfl
@[simp] theorem State.setLink_reds (s : State) (l : Nat) (v : Link) : (s.setLink l v).reds = s.reds := rfl
@[simp] theorem State.setLink_late (s : State) (l : Nat) (v : Link) : (s.setLink l v).late = s.late := rfl
@[simp] theorem State.setLink_ctl (s : State) (l : Nat) (v : Link) : (s.setLink l v).ctl = s.ctl := rfl

/-! ### setWg -/

@[simp] theorem State.setWg_time (s : State) (w : Nat) (v : Wg) : (s.setWg w v).time = s.time := rfl
@[simp] theorem State.setWg_mem (s : State) (w : Nat) (v : Wg) : (s.setWg w v).mem = s.mem := rfl
@[simp] theorem State.setWg_drv (s : State) (w : Nat) (v : Wg) : (s.setWg w v).drv = s.drv := rfl
@[simp] theorem State.setWg_cores (s : State) (w : Nat) (v : Wg) : (s.setWg w v).cores = s.cores := rfl
@[simp] theorem State.setWg_dies (s : State) (w : Nat) (v : Wg) : (s.setWg w v).dies = s.dies := rfl
@[simp] theorem State.setWg_jobs (s : State) (w : Nat) (v : Wg) : (s.setWg w v).jobs = s.jobs := rfl
@[simp] theorem State.setWg_reds (s : State) (w : Nat) (v : Wg) : (s.setWg w v).reds = s.reds := rfl
@[simp] theorem State.setWg_late (s : State) (w : Nat) (v : Wg) : (s.setWg w v).late = s.late := rfl
@[simp] theorem State.setWg_links (s : State) (w : Nat) (v : Wg) : (s.setWg w v).links = s.links := rfl
@[simp] theorem State.setWg_ctl (s : State) (w : Nat) (v : Wg) : (s.setWg w v).ctl = s.ctl := rfl

/-! ### modWg -/

@[simp] theorem State.modWg_time (s : State) (w : Nat) (f : Wg → Wg) : (s.modWg w f).time = s.time := rfl
@[simp] theorem State.modWg_mem (s : State) (w : Nat) (f : Wg → Wg) : (s.modWg w f).mem = s.mem := rfl
@[simp] theorem State.modWg_drv (s : State) (w : Nat) (f : Wg → Wg) : (s.modWg w f).drv = s.drv := rfl
@[simp] theorem State.modWg_cores (s : State) (w : Nat) (f : Wg → Wg) : (s.modWg w f).cores = s.cores := rfl
@[simp] theorem State.modWg_dies (s : State) (w : Nat) (f : Wg → Wg) : (s.modWg w f).dies = s.dies := rfl
@[simp] theorem State.modWg_jobs (s : State) (w : Nat) (f : Wg → Wg) : (s.modWg w f).jobs = s.jobs := rfl
@[simp] theorem State.modWg_reds (s : State) (w : Nat) (f : Wg → Wg) : (s.modWg w f).reds = s.reds := rfl
@[simp] theorem State.modWg_late (s : State) (w : Nat) (f : Wg → Wg) : (s.modWg w f).late = s.late := rfl
@[simp] theorem State.modWg_links (s : State) (w : Nat) (f : Wg → Wg) : (s.modWg w f).links = s.links := rfl
@[simp] theorem State.modWg_ctl (s : State) (w : Nat) (f : Wg → Wg) : (s.modWg w f).ctl = s.ctl := rfl

/-! ### modGroup -/

@[simp] theorem State.modGroup_time (s : State) (w g : Nat) (f : Group → Group) : (s.modGroup w g f).time = s.time := rfl
@[simp] theorem State.modGroup_mem (s : State) (w g : Nat) (f : Group → Group) : (s.modGroup w g f).mem = s.mem := rfl
@[simp] theorem State.modGroup_drv (s : State) (w g : Nat) (f : Group → Group) : (s.modGroup w g f).drv = s.drv := rfl
@[simp] theorem State.modGroup_cores (s : State) (w g : Nat) (f : Group → Group) : (s.modGroup w g f).cores = s.cores := rfl
@[simp] theorem State.modGroup_dies (s : State) (w g : Nat) (f : Group → Group) : (s.modGroup w g f).dies = s.dies := rfl
@[simp] theorem State.modGroup_jobs (s : State) (w g : Nat) (f : Group → Group) : (s.modGroup w g f).jobs = s.jobs := rfl
@[simp] theorem State.modGroup_reds (s : State) (w g : Nat) (f : Group → Group) : (s.modGroup w g f).reds = s.reds := rfl
@[simp] theorem State.modGroup_late (s : State) (w g : Nat) (f : Group → Group) : (s.modGroup w g f).late = s.late := rfl
@[simp] theorem State.modGroup_links (s : State) (w g : Nat) (f : Group → Group) : (s.modGroup w g f).links = s.links := rfl
@[simp] theorem State.modGroup_ctl (s : State) (w g : Nat) (f : Group → Group) : (s.modGroup w g f).ctl = s.ctl := rfl

/-! ### setGroup -/

@[simp] theorem State.setGroup_time (s : State) (w g : Nat) (v : Group) : (s.setGroup w g v).time = s.time := rfl
@[simp] theorem State.setGroup_mem (s : State) (w g : Nat) (v : Group) : (s.setGroup w g v).mem = s.mem := rfl
@[simp] theorem State.setGroup_drv (s : State) (w g : Nat) (v : Group) : (s.setGroup w g v).drv = s.drv := rfl
@[simp] theorem State.setGroup_cores (s : State) (w g : Nat) (v : Group) : (s.setGroup w g v).cores = s.cores := rfl
@[simp] theorem State.setGroup_dies (s : State) (w g : Nat) (v : Group) : (s.setGroup w g v).dies = s.dies := rfl
@[simp] theorem State.setGroup_jobs (s : State) (w g : Nat) (v : Group) : (s.setGroup w g v).jobs = s.jobs := rfl
@[simp] theorem State.setGroup_reds (s : State) (w g : Nat) (v : Group) : (s.setGroup w g v).reds = s.reds := rfl
@[simp] theorem State.setGroup_late (s : State) (w g : Nat) (v : Group) : (s.setGroup w g v).late = s.late := rfl
@[simp] theorem State.setGroup_links (s : State) (w g : Nat) (v : Group) : (s.setGroup w g v).links = s.links := rfl
@[simp] theorem State.setGroup_ctl (s : State) (w g : Nat) (v : Group) : (s.setGroup w g v).ctl = s.ctl := rfl

/-! ### modTable -/

@[simp] theorem State.modTable_time (s : State) (v : Nat) (f : Table → Table) : (s.modTable v f).time = s.time := rfl
@[simp] theorem State.modTable_drv (s : State) (v : Nat) (f : Table → Table) : (s.modTable v f).drv = s.drv := rfl
@[simp] theorem State.modTable_wgs (s : State) (v : Nat) (f : Table → Table) : (s.modTable v f).wgs = s.wgs := rfl
@[simp] theorem State.modTable_cores (s : State) (v : Nat) (f : Table → Table) : (s.modTable v f).cores = s.cores := rfl
@[simp] theorem State.modTable_dies (s : State) (v : Nat) (f : Table → Table) : (s.modTable v f).dies = s.dies := rfl
@[simp] theorem State.modTable_jobs (s : State) (v : Nat) (f : Table → Table) : (s.modTable v f).jobs = s.jobs := rfl
@[simp] theorem State.modTable_reds (s : State) (v : Nat) (f : Table → Table) : (s.modTable v f).reds = s.reds := rfl
@[simp] theorem State.modTable_late (s : State) (v : Nat) (f : Table → Table) : (s.modTable v f).late = s.late := rfl
@[simp] theorem State.modTable_links (s : State) (v : Nat) (f : Table → Table) : (s.modTable v f).links = s.links := rfl
@[simp] theorem State.modTable_ctl (s : State) (v : Nat) (f : Table → Table) : (s.modTable v f).ctl = s.ctl := rfl

/-! ### modJob -/

@[simp] theorem State.modJob_time (s : State) (j : Nat) (f : Job → Job) : (s.modJob j f).time = s.time := rfl
@[simp] theorem State.modJob_mem (s : State) (j : Nat) (f : Job → Job) : (s.modJob j f).mem = s.mem := rfl
@[simp] theorem State.modJob_drv (s : State) (j : Nat) (f : Job → Job) : (s.modJob j f).drv = s.drv := rfl
@[simp] theorem State.modJob_wgs (s : State) (j : Nat) (f : Job → Job) : (s.modJob j f).wgs = s.wgs := rfl
@[simp] theorem State.modJob_cores (s : State) (j : Nat) (f : Job → Job) : (s.modJob j f).cores = s.cores := rfl
@[simp] theorem State.modJob_dies (s : State) (j : Nat) (f : Job → Job) : (s.modJob j f).dies = s.dies := rfl
@[simp] theorem State.modJob_reds (s : State) (j : Nat) (f : Job → Job) : (s.modJob j f).reds = s.reds := rfl
@[simp] theorem State.modJob_late (s : State) (j : Nat) (f : Job → Job) : (s.modJob j f).late = s.late := rfl
@[simp] theorem State.modJob_links (s : State) (j : Nat) (f : Job → Job) : (s.modJob j f).links = s.links := rfl
@[simp] theorem State.modJob_ctl (s : State) (j : Nat) (f : Job → Job) : (s.modJob j f).ctl = s.ctl := rfl

/-! ### modLaunch -/

@[simp] theorem State.modLaunch_time (s : State) (h : BitVec 32) (f : Launch → Launch) : (s.modLaunch h f).time = s.time := rfl
@[simp] theorem State.modLaunch_mem (s : State) (h : BitVec 32) (f : Launch → Launch) : (s.modLaunch h f).mem = s.mem := rfl
@[simp] theorem State.modLaunch_wgs (s : State) (h : BitVec 32) (f : Launch → Launch) : (s.modLaunch h f).wgs = s.wgs := rfl
@[simp] theorem State.modLaunch_cores (s : State) (h : BitVec 32) (f : Launch → Launch) : (s.modLaunch h f).cores = s.cores := rfl
@[simp] theorem State.modLaunch_dies (s : State) (h : BitVec 32) (f : Launch → Launch) : (s.modLaunch h f).dies = s.dies := rfl
@[simp] theorem State.modLaunch_jobs (s : State) (h : BitVec 32) (f : Launch → Launch) : (s.modLaunch h f).jobs = s.jobs := rfl
@[simp] theorem State.modLaunch_reds (s : State) (h : BitVec 32) (f : Launch → Launch) : (s.modLaunch h f).reds = s.reds := rfl
@[simp] theorem State.modLaunch_late (s : State) (h : BitVec 32) (f : Launch → Launch) : (s.modLaunch h f).late = s.late := rfl
@[simp] theorem State.modLaunch_links (s : State) (h : BitVec 32) (f : Launch → Launch) : (s.modLaunch h f).links = s.links := rfl
@[simp] theorem State.modLaunch_ctl (s : State) (h : BitVec 32) (f : Launch → Launch) : (s.modLaunch h f).ctl = s.ctl := rfl

/-! ### modContext -/

@[simp] theorem State.modContext_time (s : State) (h : BitVec 32) (f : Context → Context) : (s.modContext h f).time = s.time := rfl
@[simp] theorem State.modContext_mem (s : State) (h : BitVec 32) (f : Context → Context) : (s.modContext h f).mem = s.mem := rfl
@[simp] theorem State.modContext_wgs (s : State) (h : BitVec 32) (f : Context → Context) : (s.modContext h f).wgs = s.wgs := rfl
@[simp] theorem State.modContext_cores (s : State) (h : BitVec 32) (f : Context → Context) : (s.modContext h f).cores = s.cores := rfl
@[simp] theorem State.modContext_dies (s : State) (h : BitVec 32) (f : Context → Context) : (s.modContext h f).dies = s.dies := rfl
@[simp] theorem State.modContext_jobs (s : State) (h : BitVec 32) (f : Context → Context) : (s.modContext h f).jobs = s.jobs := rfl
@[simp] theorem State.modContext_reds (s : State) (h : BitVec 32) (f : Context → Context) : (s.modContext h f).reds = s.reds := rfl
@[simp] theorem State.modContext_late (s : State) (h : BitVec 32) (f : Context → Context) : (s.modContext h f).late = s.late := rfl
@[simp] theorem State.modContext_links (s : State) (h : BitVec 32) (f : Context → Context) : (s.modContext h f).links = s.links := rfl
@[simp] theorem State.modContext_ctl (s : State) (h : BitVec 32) (f : Context → Context) : (s.modContext h f).ctl = s.ctl := rfl

/-! ### logEvent -/

@[simp] theorem State.logEvent_time (s : State) (e : LogEntry) : (s.logEvent e).time = s.time := rfl
@[simp] theorem State.logEvent_mem (s : State) (e : LogEntry) : (s.logEvent e).mem = s.mem := rfl
@[simp] theorem State.logEvent_wgs (s : State) (e : LogEntry) : (s.logEvent e).wgs = s.wgs := rfl
@[simp] theorem State.logEvent_cores (s : State) (e : LogEntry) : (s.logEvent e).cores = s.cores := rfl
@[simp] theorem State.logEvent_dies (s : State) (e : LogEntry) : (s.logEvent e).dies = s.dies := rfl
@[simp] theorem State.logEvent_jobs (s : State) (e : LogEntry) : (s.logEvent e).jobs = s.jobs := rfl
@[simp] theorem State.logEvent_reds (s : State) (e : LogEntry) : (s.logEvent e).reds = s.reds := rfl
@[simp] theorem State.logEvent_late (s : State) (e : LogEntry) : (s.logEvent e).late = s.late := rfl
@[simp] theorem State.logEvent_links (s : State) (e : LogEntry) : (s.logEvent e).links = s.links := rfl
@[simp] theorem State.logEvent_ctl (s : State) (e : LogEntry) : (s.logEvent e).ctl = s.ctl := rfl

/-! ### turnTo -/

@[simp] theorem State.turnTo_time (s : State) (w g e : Nat) : (s.turnTo w g e).time = s.time := rfl
@[simp] theorem State.turnTo_mem (s : State) (w g e : Nat) : (s.turnTo w g e).mem = s.mem := rfl
@[simp] theorem State.turnTo_drv (s : State) (w g e : Nat) : (s.turnTo w g e).drv = s.drv := rfl
@[simp] theorem State.turnTo_wgs (s : State) (w g e : Nat) : (s.turnTo w g e).wgs = s.wgs := rfl
@[simp] theorem State.turnTo_cores (s : State) (w g e : Nat) : (s.turnTo w g e).cores = s.cores := rfl
@[simp] theorem State.turnTo_dies (s : State) (w g e : Nat) : (s.turnTo w g e).dies = s.dies := rfl
@[simp] theorem State.turnTo_jobs (s : State) (w g e : Nat) : (s.turnTo w g e).jobs = s.jobs := rfl
@[simp] theorem State.turnTo_reds (s : State) (w g e : Nat) : (s.turnTo w g e).reds = s.reds := rfl
@[simp] theorem State.turnTo_late (s : State) (w g e : Nat) : (s.turnTo w g e).late = s.late := rfl
@[simp] theorem State.turnTo_links (s : State) (w g e : Nat) : (s.turnTo w g e).links = s.links := rfl

/-! ### sure -/

@[simp] theorem State.sure_time (s : State) (sp : LateSpace) (a n : Nat) : (s.sure sp a n).time = s.time := rfl
@[simp] theorem State.sure_mem (s : State) (sp : LateSpace) (a n : Nat) : (s.sure sp a n).mem = s.mem := rfl
@[simp] theorem State.sure_drv (s : State) (sp : LateSpace) (a n : Nat) : (s.sure sp a n).drv = s.drv := rfl
@[simp] theorem State.sure_wgs (s : State) (sp : LateSpace) (a n : Nat) : (s.sure sp a n).wgs = s.wgs := rfl
@[simp] theorem State.sure_cores (s : State) (sp : LateSpace) (a n : Nat) : (s.sure sp a n).cores = s.cores := rfl
@[simp] theorem State.sure_dies (s : State) (sp : LateSpace) (a n : Nat) : (s.sure sp a n).dies = s.dies := rfl
@[simp] theorem State.sure_jobs (s : State) (sp : LateSpace) (a n : Nat) : (s.sure sp a n).jobs = s.jobs := rfl
@[simp] theorem State.sure_reds (s : State) (sp : LateSpace) (a n : Nat) : (s.sure sp a n).reds = s.reds := rfl
@[simp] theorem State.sure_links (s : State) (sp : LateSpace) (a n : Nat) : (s.sure sp a n).links = s.links := rfl
@[simp] theorem State.sure_ctl (s : State) (sp : LateSpace) (a n : Nat) : (s.sure sp a n).ctl = s.ctl := rfl

/-! ### passIf -/

@[simp] theorem State.passIf_time (s : State) (p : Holder → Bool) (b : Holder) (f : How → Option How) : (s.passIf p b f).time = s.time := rfl
@[simp] theorem State.passIf_mem (s : State) (p : Holder → Bool) (b : Holder) (f : How → Option How) : (s.passIf p b f).mem = s.mem := rfl
@[simp] theorem State.passIf_drv (s : State) (p : Holder → Bool) (b : Holder) (f : How → Option How) : (s.passIf p b f).drv = s.drv := rfl
@[simp] theorem State.passIf_wgs (s : State) (p : Holder → Bool) (b : Holder) (f : How → Option How) : (s.passIf p b f).wgs = s.wgs := rfl
@[simp] theorem State.passIf_cores (s : State) (p : Holder → Bool) (b : Holder) (f : How → Option How) : (s.passIf p b f).cores = s.cores := rfl
@[simp] theorem State.passIf_dies (s : State) (p : Holder → Bool) (b : Holder) (f : How → Option How) : (s.passIf p b f).dies = s.dies := rfl
@[simp] theorem State.passIf_jobs (s : State) (p : Holder → Bool) (b : Holder) (f : How → Option How) : (s.passIf p b f).jobs = s.jobs := rfl
@[simp] theorem State.passIf_reds (s : State) (p : Holder → Bool) (b : Holder) (f : How → Option How) : (s.passIf p b f).reds = s.reds := rfl
@[simp] theorem State.passIf_links (s : State) (p : Holder → Bool) (b : Holder) (f : How → Option How) : (s.passIf p b f).links = s.links := rfl
@[simp] theorem State.passIf_ctl (s : State) (p : Holder → Bool) (b : Holder) (f : How → Option How) : (s.passIf p b f).ctl = s.ctl := rfl

/-! ### pass -/

@[simp] theorem State.pass_time (s : State) (a b : Holder) (f : How → Option How) : (s.pass a b f).time = s.time := rfl
@[simp] theorem State.pass_mem (s : State) (a b : Holder) (f : How → Option How) : (s.pass a b f).mem = s.mem := rfl
@[simp] theorem State.pass_drv (s : State) (a b : Holder) (f : How → Option How) : (s.pass a b f).drv = s.drv := rfl
@[simp] theorem State.pass_wgs (s : State) (a b : Holder) (f : How → Option How) : (s.pass a b f).wgs = s.wgs := rfl
@[simp] theorem State.pass_cores (s : State) (a b : Holder) (f : How → Option How) : (s.pass a b f).cores = s.cores := rfl
@[simp] theorem State.pass_dies (s : State) (a b : Holder) (f : How → Option How) : (s.pass a b f).dies = s.dies := rfl
@[simp] theorem State.pass_jobs (s : State) (a b : Holder) (f : How → Option How) : (s.pass a b f).jobs = s.jobs := rfl
@[simp] theorem State.pass_reds (s : State) (a b : Holder) (f : How → Option How) : (s.pass a b f).reds = s.reds := rfl
@[simp] theorem State.pass_links (s : State) (a b : Holder) (f : How → Option How) : (s.pass a b f).links = s.links := rfl
@[simp] theorem State.pass_ctl (s : State) (a b : Holder) (f : How → Option How) : (s.pass a b f).ctl = s.ctl := rfl

/-! ### rename -/

@[simp] theorem State.rename_time (s : State) (f : Holder → Option Holder) : (s.rename f).time = s.time := rfl
@[simp] theorem State.rename_mem (s : State) (f : Holder → Option Holder) : (s.rename f).mem = s.mem := rfl
@[simp] theorem State.rename_drv (s : State) (f : Holder → Option Holder) : (s.rename f).drv = s.drv := rfl
@[simp] theorem State.rename_wgs (s : State) (f : Holder → Option Holder) : (s.rename f).wgs = s.wgs := rfl
@[simp] theorem State.rename_cores (s : State) (f : Holder → Option Holder) : (s.rename f).cores = s.cores := rfl
@[simp] theorem State.rename_dies (s : State) (f : Holder → Option Holder) : (s.rename f).dies = s.dies := rfl
@[simp] theorem State.rename_jobs (s : State) (f : Holder → Option Holder) : (s.rename f).jobs = s.jobs := rfl
@[simp] theorem State.rename_reds (s : State) (f : Holder → Option Holder) : (s.rename f).reds = s.reds := rfl
@[simp] theorem State.rename_links (s : State) (f : Holder → Option Holder) : (s.rename f).links = s.links := rfl
@[simp] theorem State.rename_ctl (s : State) (f : Holder → Option Holder) : (s.rename f).ctl = s.ctl := rfl

/-! ### forgets -/

@[simp] theorem State.forgets_time (s : State) (a : Holder) : (s.forgets a).time = s.time := rfl
@[simp] theorem State.forgets_mem (s : State) (a : Holder) : (s.forgets a).mem = s.mem := rfl
@[simp] theorem State.forgets_drv (s : State) (a : Holder) : (s.forgets a).drv = s.drv := rfl
@[simp] theorem State.forgets_wgs (s : State) (a : Holder) : (s.forgets a).wgs = s.wgs := rfl
@[simp] theorem State.forgets_cores (s : State) (a : Holder) : (s.forgets a).cores = s.cores := rfl
@[simp] theorem State.forgets_dies (s : State) (a : Holder) : (s.forgets a).dies = s.dies := rfl
@[simp] theorem State.forgets_jobs (s : State) (a : Holder) : (s.forgets a).jobs = s.jobs := rfl
@[simp] theorem State.forgets_reds (s : State) (a : Holder) : (s.forgets a).reds = s.reds := rfl
@[simp] theorem State.forgets_links (s : State) (a : Holder) : (s.forgets a).links = s.links := rfl
@[simp] theorem State.forgets_ctl (s : State) (a : Holder) : (s.forgets a).ctl = s.ctl := rfl

/-! ### askBlock -/

@[simp] theorem State.askBlock_time (s : State) (w g place : Nat) : (s.askBlock w g place).time = s.time := rfl
@[simp] theorem State.askBlock_mem (s : State) (w g place : Nat) : (s.askBlock w g place).mem = s.mem := rfl
@[simp] theorem State.askBlock_drv (s : State) (w g place : Nat) : (s.askBlock w g place).drv = s.drv := rfl
@[simp] theorem State.askBlock_wgs (s : State) (w g place : Nat) : (s.askBlock w g place).wgs = s.wgs := rfl
@[simp] theorem State.askBlock_cores (s : State) (w g place : Nat) : (s.askBlock w g place).cores = s.cores := rfl
@[simp] theorem State.askBlock_dies (s : State) (w g place : Nat) : (s.askBlock w g place).dies = s.dies := rfl
@[simp] theorem State.askBlock_jobs (s : State) (w g place : Nat) : (s.askBlock w g place).jobs = s.jobs := rfl
@[simp] theorem State.askBlock_reds (s : State) (w g place : Nat) : (s.askBlock w g place).reds = s.reds := rfl
@[simp] theorem State.askBlock_links (s : State) (w g place : Nat) : (s.askBlock w g place).links = s.links := rfl
@[simp] theorem State.askBlock_ctl (s : State) (w g place : Nat) : (s.askBlock w g place).ctl = s.ctl := rfl

/-! ### joinLanes -/

@[simp] theorem State.joinLanes_time (s : State) (w g : Nat) : (s.joinLanes w g).time = s.time := rfl
@[simp] theorem State.joinLanes_mem (s : State) (w g : Nat) : (s.joinLanes w g).mem = s.mem := rfl
@[simp] theorem State.joinLanes_drv (s : State) (w g : Nat) : (s.joinLanes w g).drv = s.drv := rfl
@[simp] theorem State.joinLanes_wgs (s : State) (w g : Nat) : (s.joinLanes w g).wgs = s.wgs := rfl
@[simp] theorem State.joinLanes_cores (s : State) (w g : Nat) : (s.joinLanes w g).cores = s.cores := rfl
@[simp] theorem State.joinLanes_dies (s : State) (w g : Nat) : (s.joinLanes w g).dies = s.dies := rfl
@[simp] theorem State.joinLanes_jobs (s : State) (w g : Nat) : (s.joinLanes w g).jobs = s.jobs := rfl
@[simp] theorem State.joinLanes_reds (s : State) (w g : Nat) : (s.joinLanes w g).reds = s.reds := rfl
@[simp] theorem State.joinLanes_links (s : State) (w g : Nat) : (s.joinLanes w g).links = s.links := rfl
@[simp] theorem State.joinLanes_ctl (s : State) (w g : Nat) : (s.joinLanes w g).ctl = s.ctl := rfl

/-! ### leaveEntry -/

@[simp] theorem State.leaveEntry_time (s : State) (w g : Nat) (up : Bool) (place : Nat) : (s.leaveEntry w g up place).time = s.time := rfl
@[simp] theorem State.leaveEntry_mem (s : State) (w g : Nat) (up : Bool) (place : Nat) : (s.leaveEntry w g up place).mem = s.mem := rfl
@[simp] theorem State.leaveEntry_drv (s : State) (w g : Nat) (up : Bool) (place : Nat) : (s.leaveEntry w g up place).drv = s.drv := rfl
@[simp] theorem State.leaveEntry_wgs (s : State) (w g : Nat) (up : Bool) (place : Nat) : (s.leaveEntry w g up place).wgs = s.wgs := rfl
@[simp] theorem State.leaveEntry_cores (s : State) (w g : Nat) (up : Bool) (place : Nat) : (s.leaveEntry w g up place).cores = s.cores := rfl
@[simp] theorem State.leaveEntry_dies (s : State) (w g : Nat) (up : Bool) (place : Nat) : (s.leaveEntry w g up place).dies = s.dies := rfl
@[simp] theorem State.leaveEntry_jobs (s : State) (w g : Nat) (up : Bool) (place : Nat) : (s.leaveEntry w g up place).jobs = s.jobs := rfl
@[simp] theorem State.leaveEntry_reds (s : State) (w g : Nat) (up : Bool) (place : Nat) : (s.leaveEntry w g up place).reds = s.reds := rfl
@[simp] theorem State.leaveEntry_links (s : State) (w g : Nat) (up : Bool) (place : Nat) : (s.leaveEntry w g up place).links = s.links := rfl
@[simp] theorem State.leaveEntry_ctl (s : State) (w g : Nat) (up : Bool) (place : Nat) : (s.leaveEntry w g up place).ctl = s.ctl := rfl

/-! ### shelveQueues -/

@[simp] theorem State.shelveQueues_time (s : State) (w g : Nat) : (s.shelveQueues w g).time = s.time := rfl
@[simp] theorem State.shelveQueues_mem (s : State) (w g : Nat) : (s.shelveQueues w g).mem = s.mem := rfl
@[simp] theorem State.shelveQueues_drv (s : State) (w g : Nat) : (s.shelveQueues w g).drv = s.drv := rfl
@[simp] theorem State.shelveQueues_wgs (s : State) (w g : Nat) : (s.shelveQueues w g).wgs = s.wgs := rfl
@[simp] theorem State.shelveQueues_cores (s : State) (w g : Nat) : (s.shelveQueues w g).cores = s.cores := rfl
@[simp] theorem State.shelveQueues_dies (s : State) (w g : Nat) : (s.shelveQueues w g).dies = s.dies := rfl
@[simp] theorem State.shelveQueues_jobs (s : State) (w g : Nat) : (s.shelveQueues w g).jobs = s.jobs := rfl
@[simp] theorem State.shelveQueues_reds (s : State) (w g : Nat) : (s.shelveQueues w g).reds = s.reds := rfl
@[simp] theorem State.shelveQueues_links (s : State) (w g : Nat) : (s.shelveQueues w g).links = s.links := rfl
@[simp] theorem State.shelveQueues_ctl (s : State) (w g : Nat) : (s.shelveQueues w g).ctl = s.ctl := rfl

/-! ### unshelveQueues -/

@[simp] theorem State.unshelveQueues_time (s : State) (w g : Nat) : (s.unshelveQueues w g).time = s.time := rfl
@[simp] theorem State.unshelveQueues_mem (s : State) (w g : Nat) : (s.unshelveQueues w g).mem = s.mem := rfl
@[simp] theorem State.unshelveQueues_drv (s : State) (w g : Nat) : (s.unshelveQueues w g).drv = s.drv := rfl
@[simp] theorem State.unshelveQueues_wgs (s : State) (w g : Nat) : (s.unshelveQueues w g).wgs = s.wgs := rfl
@[simp] theorem State.unshelveQueues_cores (s : State) (w g : Nat) : (s.unshelveQueues w g).cores = s.cores := rfl
@[simp] theorem State.unshelveQueues_dies (s : State) (w g : Nat) : (s.unshelveQueues w g).dies = s.dies := rfl
@[simp] theorem State.unshelveQueues_jobs (s : State) (w g : Nat) : (s.unshelveQueues w g).jobs = s.jobs := rfl
@[simp] theorem State.unshelveQueues_reds (s : State) (w g : Nat) : (s.unshelveQueues w g).reds = s.reds := rfl
@[simp] theorem State.unshelveQueues_links (s : State) (w g : Nat) : (s.unshelveQueues w g).links = s.links := rfl
@[simp] theorem State.unshelveQueues_ctl (s : State) (w g : Nat) : (s.unshelveQueues w g).ctl = s.ctl := rfl

/-! ### dropAsks -/

@[simp] theorem State.dropAsks_time (s : State) (who : Asker) : (s.dropAsks who).time = s.time := rfl
@[simp] theorem State.dropAsks_mem (s : State) (who : Asker) : (s.dropAsks who).mem = s.mem := rfl
@[simp] theorem State.dropAsks_drv (s : State) (who : Asker) : (s.dropAsks who).drv = s.drv := rfl
@[simp] theorem State.dropAsks_wgs (s : State) (who : Asker) : (s.dropAsks who).wgs = s.wgs := rfl
@[simp] theorem State.dropAsks_cores (s : State) (who : Asker) : (s.dropAsks who).cores = s.cores := rfl
@[simp] theorem State.dropAsks_dies (s : State) (who : Asker) : (s.dropAsks who).dies = s.dies := rfl
@[simp] theorem State.dropAsks_jobs (s : State) (who : Asker) : (s.dropAsks who).jobs = s.jobs := rfl
@[simp] theorem State.dropAsks_reds (s : State) (who : Asker) : (s.dropAsks who).reds = s.reds := rfl
@[simp] theorem State.dropAsks_late (s : State) (who : Asker) : (s.dropAsks who).late = s.late := rfl
@[simp] theorem State.dropAsks_ctl (s : State) (who : Asker) : (s.dropAsks who).ctl = s.ctl := rfl

/-! ### mergeLate -/

@[simp] theorem State.mergeLate_time (s : State) (w g : Nat) (m : LMask) : (s.mergeLate w g m).time = s.time := rfl
@[simp] theorem State.mergeLate_mem (s : State) (w g : Nat) (m : LMask) : (s.mergeLate w g m).mem = s.mem := rfl
@[simp] theorem State.mergeLate_drv (s : State) (w g : Nat) (m : LMask) : (s.mergeLate w g m).drv = s.drv := rfl
@[simp] theorem State.mergeLate_wgs (s : State) (w g : Nat) (m : LMask) : (s.mergeLate w g m).wgs = s.wgs := rfl
@[simp] theorem State.mergeLate_cores (s : State) (w g : Nat) (m : LMask) : (s.mergeLate w g m).cores = s.cores := rfl
@[simp] theorem State.mergeLate_dies (s : State) (w g : Nat) (m : LMask) : (s.mergeLate w g m).dies = s.dies := rfl
@[simp] theorem State.mergeLate_jobs (s : State) (w g : Nat) (m : LMask) : (s.mergeLate w g m).jobs = s.jobs := rfl
@[simp] theorem State.mergeLate_reds (s : State) (w g : Nat) (m : LMask) : (s.mergeLate w g m).reds = s.reds := rfl
@[simp] theorem State.mergeLate_links (s : State) (w g : Nat) (m : LMask) : (s.mergeLate w g m).links = s.links := rfl
@[simp] theorem State.mergeLate_ctl (s : State) (w g : Nat) (m : LMask) : (s.mergeLate w g m).ctl = s.ctl := rfl

/-! ### blockLate -/

@[simp] theorem State.blockLate_time (s : State) (w g : Nat) : (s.blockLate w g).time = s.time := rfl
@[simp] theorem State.blockLate_mem (s : State) (w g : Nat) : (s.blockLate w g).mem = s.mem := rfl
@[simp] theorem State.blockLate_drv (s : State) (w g : Nat) : (s.blockLate w g).drv = s.drv := rfl
@[simp] theorem State.blockLate_wgs (s : State) (w g : Nat) : (s.blockLate w g).wgs = s.wgs := rfl
@[simp] theorem State.blockLate_cores (s : State) (w g : Nat) : (s.blockLate w g).cores = s.cores := rfl
@[simp] theorem State.blockLate_dies (s : State) (w g : Nat) : (s.blockLate w g).dies = s.dies := rfl
@[simp] theorem State.blockLate_jobs (s : State) (w g : Nat) : (s.blockLate w g).jobs = s.jobs := rfl
@[simp] theorem State.blockLate_reds (s : State) (w g : Nat) : (s.blockLate w g).reds = s.reds := rfl
@[simp] theorem State.blockLate_links (s : State) (w g : Nat) : (s.blockLate w g).links = s.links := rfl
@[simp] theorem State.blockLate_ctl (s : State) (w g : Nat) : (s.blockLate w g).ctl = s.ctl := rfl

/-! ### endLate -/

@[simp] theorem State.endLate_time (s : State) (w : Nat) : (s.endLate w).time = s.time := rfl
@[simp] theorem State.endLate_mem (s : State) (w : Nat) : (s.endLate w).mem = s.mem := rfl
@[simp] theorem State.endLate_drv (s : State) (w : Nat) : (s.endLate w).drv = s.drv := rfl
@[simp] theorem State.endLate_wgs (s : State) (w : Nat) : (s.endLate w).wgs = s.wgs := rfl
@[simp] theorem State.endLate_cores (s : State) (w : Nat) : (s.endLate w).cores = s.cores := rfl
@[simp] theorem State.endLate_dies (s : State) (w : Nat) : (s.endLate w).dies = s.dies := rfl
@[simp] theorem State.endLate_jobs (s : State) (w : Nat) : (s.endLate w).jobs = s.jobs := rfl
@[simp] theorem State.endLate_reds (s : State) (w : Nat) : (s.endLate w).reds = s.reds := rfl
@[simp] theorem State.endLate_links (s : State) (w : Nat) : (s.endLate w).links = s.links := rfl
@[simp] theorem State.endLate_ctl (s : State) (w : Nat) : (s.endLate w).ctl = s.ctl := rfl

@[simp] theorem State.draw_time (s : State) : s.draw.2.time = s.time := rfl
@[simp] theorem State.draw_mem (s : State) : s.draw.2.mem = s.mem := rfl
@[simp] theorem State.draw_drv (s : State) : s.draw.2.drv = s.drv := rfl
@[simp] theorem State.draw_wgs (s : State) : s.draw.2.wgs = s.wgs := rfl
@[simp] theorem State.draw_cores (s : State) : s.draw.2.cores = s.cores := rfl
@[simp] theorem State.draw_dies (s : State) : s.draw.2.dies = s.dies := rfl
@[simp] theorem State.draw_jobs (s : State) : s.draw.2.jobs = s.jobs := rfl
@[simp] theorem State.draw_reds (s : State) : s.draw.2.reds = s.reds := rfl
@[simp] theorem State.draw_late (s : State) : s.draw.2.late = s.late := rfl
@[simp] theorem State.draw_links (s : State) : s.draw.2.links = s.links := rfl
@[simp] theorem State.draw_fresh (s : State) : s.draw.2.ctl.fresh = s.ctl.fresh + 1 := rfl
@[simp] theorem State.draw_agenda (s : State) : s.draw.2.ctl.agenda = s.ctl.agenda := rfl
@[simp] theorem State.draw_inbox (s : State) : s.draw.2.ctl.inbox = s.ctl.inbox := rfl

/-! ### Groups and lanes -/

@[simp] theorem Group.mapLanes_S (G : Group) (f : Nat → Lane → Lane) : (G.mapLanes f).S = G.S := rfl
@[simp] theorem Group.mapLanes_L (G : Group) (f : Nat → Lane → Lane) : (G.mapLanes f).L = G.L := rfl
@[simp] theorem Group.mapLanes_T (G : Group) (f : Nat → Lane → Lane) : (G.mapLanes f).T = G.T := rfl
@[simp] theorem Group.mapLanes_tiles (G : Group) (f : Nat → Lane → Lane) : (G.mapLanes f).tiles = G.tiles := rfl
@[simp] theorem Group.modSplit_S (G : Group) (e : Nat) (f : Split → Split) : (G.modSplit e f).S = G.S := rfl
@[simp] theorem Group.modSplit_T (G : Group) (e : Nat) (f : Split → Split) : (G.modSplit e f).T = G.T := rfl
@[simp] theorem Group.modSplit_lanes (G : Group) (e : Nat) (f : Split → Split) : (G.modSplit e f).lanes = G.lanes := rfl
@[simp] theorem Group.modSplit_tiles (G : Group) (e : Nat) (f : Split → Split) : (G.modSplit e f).tiles = G.tiles := rfl
@[simp] theorem Group.retire_L (G : Group) : G.retire.L = G.L := rfl
@[simp] theorem Group.retire_T (G : Group) : G.retire.T = G.T := rfl
@[simp] theorem Group.retire_lanes (G : Group) : G.retire.lanes = G.lanes := rfl
@[simp] theorem Group.retire_tiles (G : Group) : G.retire.tiles = G.tiles := rfl
@[simp] theorem Group.retire_s (G : Group) : G.retire.S.s = G.S.s := rfl

/-- R85: s0 is never written. -/
@[simp] theorem Group.wS_zero (G : Group) (v : W64) : G.wS 0 v = G := rfl

/-- R85: s0 reads as zero. -/
@[simp] theorem Group.rS_zero (G : Group) : G.rS 0 = 0 := rfl

/-- R85: a register that was written reads as it was written. -/
theorem Group.rS_wS_self (G : Group) (d : BitVec 6) (v : W64) (hd : d ≠ 0) (hs : G.S.s.length = 64) :
    (G.wS d v).rS d = v := by
  have : d.toNat < G.S.s.length := by rw [hs]; exact d.isLt
  unfold Group.wS Group.rS
  rw [if_neg hd, if_neg hd]
  simp [List.getD, this]

/-- R85: writing one register leaves every other. -/
theorem Group.rS_wS_ne (G : Group) (d n : BitVec 6) (v : W64) (h : n ≠ d) : (G.wS d v).rS n = G.rS n := by
  by_cases hd : d = 0
  · subst hd; rfl
  · have : ¬ d.toNat = n.toNat := fun e => h (BitVec.eq_of_toNat_eq e.symm)
    unfold Group.wS Group.rS
    rw [if_neg hd]
    simp [List.getD, List.getElem?_set_ne this]

end Sys2Proof.Machine
end

