-- ==== Sys2Proof/Laws/Late.lean ====
section
/-! SUPPORT. Late writes: what noting a write, reading, looking at bytes and a fence leave as they were (R263 to R267). -/

namespace Sys2Proof.Machine

/-- What an operation over the late writes may change of the state: the late writes, how many writes there have been, and the number of
free values taken. -/
structure State.Looked (s t : State) : Prop where
  time : t.time = s.time
  mem : t.mem = s.mem
  drv : t.drv = s.drv
  wgs : t.wgs = s.wgs
  cores : t.cores = s.cores
  dies : t.dies = s.dies
  jobs : t.jobs = s.jobs
  reds : t.reds = s.reds
  links : t.links = s.links
  agenda : t.ctl.agenda = s.ctl.agenda
  inbox : t.ctl.inbox = s.ctl.inbox
  who : t.ctl.who = s.ctl.who
  asked : t.ctl.asked = s.ctl.asked

/-- An operation that changes nothing. -/
theorem State.Looked.refl (s : State) : s.Looked s := by constructor <;> rfl

/-- One operation after another. -/
theorem State.Looked.trans {s t u : State} (h : s.Looked t) (k : t.Looked u) : s.Looked u := by
  constructor <;> first
    | exact k.time.trans h.time
    | exact k.mem.trans h.mem
    | exact k.drv.trans h.drv
    | exact k.wgs.trans h.wgs
    | exact k.cores.trans h.cores
    | exact k.dies.trans h.dies
    | exact k.jobs.trans h.jobs
    | exact k.reds.trans h.reds
    | exact k.links.trans h.links
    | exact k.agenda.trans h.agenda
    | exact k.inbox.trans h.inbox
    | exact k.who.trans h.who
    | exact k.asked.trans h.asked

/-- Knowledge that travels changes late writes alone. -/
theorem State.pass_looked (s : State) (a b : Holder) (f : How → Option How) : s.Looked (s.pass a b f) := by
  constructor <;> rfl

/-- Many operations. -/
theorem State.foldl_looked {α : Type} {f : State → α → State} (hf : ∀ (s : State) a, s.Looked (f s a)) (s : State) (l : List α) :
    s.Looked (l.foldl f s) := by
  induction l generalizing s with
  | nil => exact .refl s
  | cons a l ih => exact (hf s a).trans (ih _)

/-! ### Noting a write -/

/-- A noted write changes late writes alone. -/
theorem State.note_looked (s : State) (p : Party) (sp : LateSpace) (a n : Nat) (was : Nat → Byte) (rmw : Bool)
    (rel : Option ScopeAt) : s.Looked (s.note p sp a n was rmw rel) := by
  unfold State.note
  split
  · exact .refl s
  · refine State.Looked.trans ?_ (State.foldl_looked (fun t _ => t.pass_looked ..) _ _)
    have h1 : s.Looked (({ s with
        late := s.late ++ (sp.units a n).map fun u =>
          ({ space := sp, unit := u, id := s.ctl.writes, old := (List.range sp.unitBytes).map fun k => was (u * sp.unitBytes + k)
             known := [{ who := p.who, how := .order none }] } : Late)
        ctl := { s.ctl with writes := s.ctl.writes + 1 } } : State).pass p.who (.write s.ctl.writes) How.carried) := by
      constructor <;> rfl
    have h2 : s.Looked _ := h1.trans (match rel with
      | some c => State.pass_looked _ p.who (.write s.ctl.writes) (How.through c)
      | none => .refl _ : State.Looked _ (match rel with | some c => State.pass _ _ _ (How.through c) | none => _))
    by_cases hr : rmw = true
    · rw [if_pos hr]
      exact h2.trans (State.foldl_looked (fun t _ => t.pass_looked ..) _ _)
    · rw [if_neg hr]
      exact h2

section
variable (s : State) (p : Party) (sp : LateSpace) (a n : Nat) (was : Nat → Byte) (rmw : Bool) (rel : Option ScopeAt)

@[simp] theorem State.note_time : (s.note p sp a n was rmw rel).time = s.time := (s.note_looked ..).time
@[simp] theorem State.note_mem : (s.note p sp a n was rmw rel).mem = s.mem := (s.note_looked ..).mem
@[simp] theorem State.note_drv : (s.note p sp a n was rmw rel).drv = s.drv := (s.note_looked ..).drv
@[simp] theorem State.note_wgs : (s.note p sp a n was rmw rel).wgs = s.wgs := (s.note_looked ..).wgs
@[simp] theorem State.note_cores : (s.note p sp a n was rmw rel).cores = s.cores := (s.note_looked ..).cores
@[simp] theorem State.note_dies : (s.note p sp a n was rmw rel).dies = s.dies := (s.note_looked ..).dies
@[simp] theorem State.note_jobs : (s.note p sp a n was rmw rel).jobs = s.jobs := (s.note_looked ..).jobs
@[simp] theorem State.note_reds : (s.note p sp a n was rmw rel).reds = s.reds := (s.note_looked ..).reds
@[simp] theorem State.note_links : (s.note p sp a n was rmw rel).links = s.links := (s.note_looked ..).links
@[simp] theorem State.note_inbox : (s.note p sp a n was rmw rel).ctl.inbox = s.ctl.inbox := (s.note_looked ..).inbox

end

/-! ### Reading -/

/-- A read of a unit changes late writes alone. -/
theorem State.readAt_looked (s : State) (p : Party) (sp : LateSpace) (n : Nat) (acq : Option ScopeAt) (u : Nat) :
    s.Looked (s.readAt p sp n acq u) := by
  unfold State.readAt
  split
  · exact .refl s
  · cases acq <;> (constructor <;> rfl)

/-- A read changes late writes alone. -/
theorem State.readNow_looked (s : State) (p : Party) (sp : LateSpace) (a n : Nat) (acq : Option ScopeAt) :
    s.Looked (s.readNow p sp a n acq) := State.foldl_looked (fun t _ => t.readAt_looked ..) _ _

/-- A free value taken. -/
theorem State.draw_looked (s : State) : s.Looked s.draw.2 := by constructor <;> rfl

/-- R267: what a party looks at changes nothing but which late writes it has read, and the free values taken. -/
theorem State.look_looked (s : State) (p : Party) (sp : LateSpace) (a : Nat) (bs : List Byte) (z : Nat) :
    s.Looked (s.look p sp a bs z).2 := by
  unfold State.look
  split
  · generalize (List.range _).map _ = gs
    have h : s.Looked (bs, s).2 := .refl s
    generalize (bs, s) = q at h ⊢
    induction gs generalizing q with
    | nil => exact h
    | cons g gs ih =>
      refine ih _ (h.trans ?_)
      unfold State.lookAt
      dsimp only
      refine State.Looked.trans (t := (if (q.2.misses p sp (g * z) z).isEmpty then (0, q.2) else q.2.draw).2) ?_
        (State.foldl_looked (fun t _ => t.readAt_looked ..) _ _)
      split
      · exact .refl _
      · exact q.2.draw_looked
  · exact .refl s

/-- R267: a party reads the bytes as they are where no late write touches them. -/
theorem State.look_sure {s : State} {p : Party} {sp : LateSpace} {a : Nat} {bs : List Byte} {z : Nat}
    (h : (s.late.any fun l => l.touches sp (a / z * z) (bs.length + z)) = false) : s.look p sp a bs z = (bs, s) := by
  simp [State.look, h]

/-- R267: where nothing is late, a party reads the bytes as they are. -/
theorem State.look_settled {s : State} (h : s.late = []) (p : Party) (sp : LateSpace) (a : Nat) (bs : List Byte) (z : Nat) :
    s.look p sp a bs z = (bs, s) := State.look_sure (by simp [h])

/-- R265: where nothing is late, a read orders nothing. -/
theorem State.readNow_settled {s : State} (h : s.late = []) (p : Party) (sp : LateSpace) (a n : Nat) (acq : Option ScopeAt) :
    s.readNow p sp a n acq = s := by
  unfold State.readNow
  induction sp.units a n with
  | nil => rfl
  | cons u us ih => rw [List.foldl_cons, show s.readAt p sp s.ctl.writes acq u = s by simp [State.readAt, h]]; exact ih

/-! ### Fences -/

/-- A fence changes late writes alone. -/
theorem State.fenced_looked (s : State) (h : Holder) (acq rel : Option ScopeAt) : s.Looked (s.fenced h acq rel) := by
  unfold State.fenced
  cases acq <;> cases rel <;> (constructor <;> rfl)

/-- R332: a completed workgroup's order changes late writes alone. -/
theorem State.setTile_looked (s : State) (w : Nat) (launch : BitVec 32) (tile : Option Nat) : s.Looked (s.setTile w launch tile) := by
  unfold State.setTile
  cases tile <;> (constructor <;> rfl)

end Sys2Proof.Machine
end

