-- ==== Sys2Proof/Laws/Mem.lean ====
section
/-! SUPPORT. Byte memories: what a read finds after a write, and that every operation keeps the canonical form. -/

namespace Sys2Proof.Machine

/-- The canonical form as rising addresses and no zero. -/
theorem memWf_iff (m : Mem) :
    memWf m = true ↔ m.Pairwise (fun a b => a.1 < b.1) ∧ ∀ c ∈ m, c.2 ≠ 0 := by
  induction m with
  | nil => simp [memWf]
  | cons c m ih =>
    obtain ⟨k, v⟩ := c
    cases m with
    | nil => simp [memWf]
    | cons c' m =>
      obtain ⟨k', v'⟩ := c'
      simp only [memWf, Bool.and_eq_true, bne_iff_ne, decide_eq_true_eq, ih, List.pairwise_cons, List.mem_cons,
        forall_eq_or_imp]
      constructor
      · rintro ⟨⟨hv, hk⟩, ⟨h1, h2⟩, h3, h4⟩
        exact ⟨⟨⟨hk, fun c hc => Nat.lt_trans hk (h1 c hc)⟩, h1, h2⟩, hv, h3, h4⟩
      · rintro ⟨⟨⟨hk, -⟩, h1, h2⟩, hv, h3, h4⟩
        exact ⟨⟨hv, hk⟩, ⟨h1, h2⟩, h3, h4⟩

/-- What a written memory lists: what it listed, or the written cell. -/
theorem mem_memSet {m : Mem} {a : Nat} {b : Byte} {c : Host.Cell} (h : c ∈ memSet m a b) :
    c ∈ m ∨ (c = (a, b) ∧ b ≠ 0) := by
  induction m with
  | nil =>
    unfold memSet at h
    split at h
    · cases h
    · exact .inr ⟨by simpa using h, ‹_›⟩
  | cons d m ih =>
    obtain ⟨k, v⟩ := d
    unfold memSet at h
    split at h
    · split at h
      · exact .inl h
      · rcases List.mem_cons.mp h with h | h
        · exact .inr ⟨h, ‹_›⟩
        · exact .inl h
    · split at h
      · split at h
        · exact .inl (List.mem_cons_of_mem _ h)
        · rcases List.mem_cons.mp h with h | h
          · exact .inr ⟨h, ‹_›⟩
          · exact .inl (List.mem_cons_of_mem _ h)
      · rcases List.mem_cons.mp h with h | h
        · exact .inl (h ▸ List.mem_cons_self)
        · rcases ih h with h | h
          · exact .inl (List.mem_cons_of_mem _ h)
          · exact .inr h

/-- Writing a byte keeps the canonical form. -/
theorem memSet_wf {m : Mem} (h : memWf m = true) (a : Nat) (b : Byte) : memWf (memSet m a b) = true := by
  rw [memWf_iff] at h ⊢
  refine ⟨?_, fun c hc => (mem_memSet hc).elim (h.2 c) fun e => e.1 ▸ e.2⟩
  obtain ⟨h, -⟩ := h
  induction m with
  | nil => unfold memSet; split <;> simp
  | cons d m ih =>
    obtain ⟨k, v⟩ := d
    rw [List.pairwise_cons] at h
    unfold memSet
    split
    · split
      · exact List.pairwise_cons.mpr h
      · refine List.pairwise_cons.mpr ⟨fun c hc => ?_, List.pairwise_cons.mpr h⟩
        rcases List.mem_cons.mp hc with rfl | hc
        · assumption
        · exact Nat.lt_trans ‹a < k› (h.1 c hc)
    · split
      · rename_i hak
        subst hak
        split
        · exact h.2
        · exact List.pairwise_cons.mpr h
      · refine List.pairwise_cons.mpr ⟨fun c hc => ?_, ih h.2⟩
        rcases mem_memSet hc with hc | ⟨rfl, -⟩
        · exact h.1 c hc
        · simp only; omega

/-- Writing bytes keeps the canonical form. -/
theorem memWrite_wf {m : Mem} (h : memWf m = true) (a : Nat) (bs : List Byte) : memWf (memWrite m a bs) = true := by
  induction bs generalizing m a with
  | nil => exact h
  | cons b bs ih => exact ih (memSet_wf h a b) (a + 1)

/-- Clearing bytes keeps the canonical form. -/
theorem memClear_wf {m : Mem} (h : memWf m = true) (a n : Nat) : memWf (memClear m a n) = true := by
  rw [memWf_iff] at h ⊢
  exact ⟨h.1.sublist List.filter_sublist, fun c hc => h.2 c (List.mem_filter.mp hc).1⟩

/-- Below every listed address a memory reads zero. -/
theorem memGet_below {m : Mem} {a : Nat} (h : ∀ c ∈ m, a < c.1) : memGet m a = 0 := by
  cases m with
  | nil => rfl
  | cons c m =>
    obtain ⟨k, v⟩ := c
    have : a < k := h _ List.mem_cons_self
    simp [memGet, this]

/-- READ AFTER WRITE: the written address reads the byte written, every other address what it read before. -/
theorem memGet_memSet {m : Mem} (h : memWf m = true) (a : Nat) (b : Byte) (x : Nat) :
    memGet (memSet m a b) x = if x = a then b else memGet m x := by
  rw [memWf_iff] at h
  obtain ⟨h, -⟩ := h
  induction m with
  | nil =>
    unfold memSet
    split
    · rename_i hb; subst hb; simp [memGet]
    · simp only [memGet]
      split
      · rw [if_neg (by omega)]
      · rfl
  | cons d m ih =>
    obtain ⟨k, v⟩ := d
    rw [List.pairwise_cons] at h
    unfold memSet
    split
    · rename_i hak
      split
      · rename_i hb
        subst hb
        by_cases hx : x = a
        · subst hx; simp [memGet, hak]
        · rw [if_neg hx]
      · by_cases hx : x = a
        · subst hx; simp [memGet]
        · rw [if_neg hx]
          simp only [memGet]
          by_cases hlt : x < a
          · rw [if_pos hlt, if_pos (by omega)]
          · rw [if_neg hlt, if_neg hx]
    · split
      · rename_i hak
        subst hak
        split
        · rename_i hb
          subst hb
          by_cases hx : x = a
          · subst hx; rw [if_pos rfl]; exact memGet_below h.1
          · rw [if_neg hx]
            simp only [memGet]
            by_cases hlt : x < a
            · rw [if_pos hlt]; exact memGet_below fun c hc => Nat.lt_trans hlt (h.1 c hc)
            · rw [if_neg hlt, if_neg hx]
        · by_cases hx : x = a
          · subst hx; simp [memGet]
          · rw [if_neg hx]; simp only [memGet, if_neg hx]
      · simp only [memGet, ih h.2]
        by_cases hx : x = a
        · subst hx
          rw [if_neg (by omega), if_neg (by omega)]
          simp
        · simp [hx]

/-- R157: a write to an allotment keeps its form. -/
theorem Wg.write_memOk {W : Wg} (h : W.memOk) (n a : Nat) (bs : List Byte) : (W.write n a bs).memOk := memWrite_wf h a bs

/-- R341: a workgroup that is over has an empty allotment. -/
theorem Wg.clear_memOk (W : Wg) (e : GroupEnd) : (W.clear e).memOk := rfl

end Sys2Proof.Machine
end

