-- ==== Sys2Proof/Laws/Words.lean ====
section
/-! SUPPORT. How words issue: the outcome of an S word and of an L word whose stream is ready, and of an event; every outcome of
`exec` that they can have. -/

namespace Sys2Proof.Machine

/-- A ready S word answers the state that its result makes. -/
theorem sWord_ready {s : State} {E : Env} (h : SReady s E) (f : Env → SRes) : sWord s f = .next (applyS s E (f E)) := by
  obtain ⟨h, hs⟩ := h
  simp [sWord, h, hs]

/-- A ready L word answers the state that its result makes of the state in which it has issued. -/
theorem lWord_ready {s : State} {i : Instr} {x : Word} (h : LReady s i x) (clears : Bool) (f : Word → State → LRes) :
    lWord s x.op x.o clears f = .next (applyL s x (f x (x.issued s clears))) := by
  obtain ⟨-, hw, hf⟩ := h
  have hr := hf.region
  have hu : (namesUq x.o && x.G.S.uq.isEmpty) = false := by
    cases hn : namesUq x.o
    · rfl
    · simpa [hn] using hf.uq hn
  have hg : issueL.go s x clears f = applyL s x (f x (x.issued s clears)) := by
    simp [issueL.go, hu, hf.latch, Word.issued]
  unfold lWord
  rw [hw]
  simp only [issueL]
  split at hr <;> rename_i hreg <;> simp only [hreg]
  · rw [hr]; simp only [hg]
  · rw [if_neg (by omega), hr.2]; simp only [hg]

/-- An S word answers a next state or says that nobody issues it. -/
theorem sWord_cases (s : State) (f : Env → SRes) : (∃ t, sWord s f = .next t) ∨ sWord s f = .fault .noAgent := by
  unfold sWord
  split
  · exact .inr rfl
  · split
    · exact .inr rfl
    · exact .inl ⟨_, rfl⟩

/-- An L word answers a next state or says that nobody issues it. -/
theorem lWord_cases (s : State) (op : BitVec 8) (o : LOp) (c : Bool) (f : Word → State → LRes) :
    (∃ t, lWord s op o c f = .next t) ∨ lWord s op o c f = .fault .noAgent := by
  unfold lWord
  split
  · exact .inr rfl
  · exact .inl ⟨_, rfl⟩

/-- An event answers a next state. -/
theorem event_next (s : State) (b : Bool) (f : State → State) : event s b f = .next (if b then f s else s) := rfl

/-- An event of a group whose condition holds has its effect. -/
theorem groupEvent_enabled {s : State} {w g : Nat} {E : Env} (hE : envAt s w g = some E) (hi : E.issues = true)
    {enabled : Env → Bool} (hc : enabled E = true) (f : Env → State → State) :
    groupEvent s w g enabled f = .next (f E s) := by
  simp [groupEvent, hE, hi, hc, event]

/-- An event of a group answers a next state. -/
theorem groupEvent_next (s : State) (w g : Nat) (enabled : Env → Bool) (f : Env → State → State) :
    ∃ t, groupEvent s w g enabled f = .next t := by
  unfold groupEvent
  split
  · exact ⟨_, rfl⟩
  · exact ⟨_, rfl⟩

/-- The environment of the word being executed is that of its group, which may issue. -/
theorem envAt_of_envOf {s : State} {E : Env} (h : envOf s = some E) :
    envAt s s.ctl.who.wg s.ctl.who.g = some E ∧ E.issues = true := by
  unfold envOf at h
  split at h
  · split at h
    · cases h; exact ⟨‹_›, ‹_›⟩
    · cases h
  · cases h

/-- What an environment says of the state. -/
theorem envAt_spec {s : State} {w g : Nat} {E : Env} (h : envAt s w g = some E) :
    E.w = w ∧ E.g = g ∧ s.wgs[w]? = some E.W ∧ E.W.groups[g]? = some E.G ∧ s.launch? E.W.launch = some E.La
      ∧ s.kernel? E.La.kernel = some E.K ∧ s.context? E.La.ctx = some E.C := by
  unfold envAt at h
  simp only [Option.bind_eq_bind, Option.bind_eq_some_iff, Option.pure_def, Option.some.injEq] at h
  obtain ⟨W, hW, G, hG, La, hL, K, hK, C, hC, rfl⟩ := h
  exact ⟨rfl, rfl, hW, hG, hL, hK, hC⟩

/-- What the word being executed says of the state. -/
theorem wordOf_spec {s : State} {op : BitVec 8} {o : LOp} {x : Word} (h : wordOf s op o = some x) :
    envOf s = some x.E ∧ x.e = s.ctl.who.e ∧ x.p = x.G.split x.e ∧ x.op = op ∧ x.o = o
      ∧ x.act = activeMask x.G x.e x.p o ∧ x.G.L.running = true ∧ x.p.st = .ready ∧ x.p.live = true
      ∧ x.p.wait.holds = false := by
  unfold wordOf at h
  split at h
  · cases h
  · dsimp only at h
    split at h
    · cases h
      rename_i hE hc
      simp only [Split.mayIssue, Bool.and_eq_true, beq_iff_eq, Bool.not_eq_true'] at hc
      exact ⟨hE, rfl, rfl, rfl, rfl, rfl, hc.1, hc.2.1.1, hc.2.1.2, hc.2.2⟩
    · cases h

/-- Changing a group twice in turn. -/
theorem State.modGroup_modGroup (s : State) (w g : Nat) (f f' : Group → Group) :
    (s.modGroup w g f).modGroup w g f' = s.modGroup w g fun G => f' (f G) := by
  unfold State.modGroup State.modWg
  congr 1
  refine List.ext_getElem? fun i => ?_
  simp only [List.getElem?_modify]
  by_cases hi : w = i
  · subst hi
    simp only [Option.map_eq_map, Option.map_map]
    congr 1
    funext W
    simp only [Function.comp, ite_true]
    congr 1
    refine List.ext_getElem? fun j => ?_
    simp only [List.getElem?_modify]
    by_cases hj : g = j
    · subst hj; simp [Function.comp_def]
    · simp [hj]
  · simp [hi]

/-- The group after it was changed. -/
theorem State.group?_modGroup (s : State) (w g : Nat) (f : Group → Group) :
    (s.modGroup w g f).group? w g = (s.group? w g).map f := by
  simp [State.modGroup, State.modWg, State.group?, Option.bind_map, Function.comp_def]

/-- Every other group stays as it was. -/
theorem State.group?_modGroup_ne (s : State) (w g w' g' : Nat) (f : Group → Group) (h : (w', g') ≠ (w, g)) :
    (s.modGroup w g f).group? w' g' = s.group? w' g' := by
  simp only [State.modGroup, State.modWg, State.group?, List.getElem?_modify]
  by_cases hw : w = w'
  · subst hw
    have hg : ¬ g = g' := fun e => h (by rw [e])
    cases hs : s.wgs[w]? <;> simp [hg]
  · simp [hw]

/-- The group of an environment, as the state holds it. -/
theorem group?_of_envAt {s : State} {w g : Nat} {E : Env} (h : envAt s w g = some E) : s.group? w g = some E.G := by
  obtain ⟨-, -, hW, hG, -⟩ := envAt_spec h
  simp [State.group?, hW, hG]

end Sys2Proof.Machine
end

