-- ==== Sys2Proof/Laws/Shared.lean ====
section
/-! SUPPORT. The shared operations, once: what a change of a group leaves, what an S word and an L word can do, and which
operations keep the canonical form of every memory. -/

namespace Sys2Proof.Machine

/-! ### Changing a group -/

/-- A workgroup of which one group has changed. -/
theorem State.wgs_modGroup (s : State) (w g w' : Nat) (f : Group → Group) :
    (s.modGroup w g f).wgs[w']? = (s.wgs[w']?).map fun W => if w = w' then { W with groups := W.groups.modify g f } else W := by
  simp only [State.modGroup, State.modWg, List.getElem?_modify]
  by_cases h : w = w' <;> simp [h]

/-- A set group. -/
theorem State.group?_setGroup (s : State) (w g : Nat) (v : Group) :
    (s.setGroup w g v).group? w g = (s.group? w g).map fun _ => v := State.group?_modGroup ..

/-- Another group than the set one. -/
theorem State.group?_setGroup_ne (s : State) {w g w' g' : Nat} (v : Group) (h : (w', g') ≠ (w, g)) :
    (s.setGroup w g v).group? w' g' = s.group? w' g' := State.group?_modGroup_ne s _ _ _ _ _ h

/-! ### The environment of a word -/

/-- The environment of the word being executed: the group that the state names, and it may issue. -/
theorem envOf_spec {s : State} {E : Env} (h : envOf s = some E) :
    envAt s s.ctl.who.wg s.ctl.who.g = some E ∧ E.w = s.ctl.who.wg ∧ E.g = s.ctl.who.g ∧ E.issues = true := by
  unfold envOf at h
  split at h
  · split at h
    · cases h
      exact ⟨‹_›, (envAt_spec ‹_›).1, (envAt_spec ‹_›).2.1, ‹_›⟩
    · cases h
  · cases h

/-- The group of the word being executed. -/
theorem envOf_group {s : State} {E : Env} (h : envOf s = some E) : s.group? E.w E.g = some E.G := by
  obtain ⟨ha, hw, hg, -⟩ := envOf_spec h
  rw [hw, hg]
  exact group?_of_envAt ha

/-! ### Canonical memories -/

/-- A state with the same memories has them in the same form. -/
theorem State.memOk.of_eq {s t : State} (h : s.memOk) (hw : t.wgs = s.wgs) (ht : t.mem.tables = s.mem.tables)
    (hd : t.dies = s.dies) (hx : t.drv.transit = s.drv.transit) (hi : t.ctl.inbox = s.ctl.inbox) : t.memOk where
  wgs := hw ▸ h.wgs
  tables := ht ▸ h.tables
  dies := hd ▸ h.dies
  transit := hx ▸ h.transit
  inbox := hi ▸ h.inbox

/-- What every member has and the change keeps, every member of the changed list has. -/
theorem forall_mem_modify {α : Type} {P : α → Prop} {f : α → α} (hf : ∀ x, P x → P (f x)) {l : List α}
    (h : ∀ x ∈ l, P x) (n : Nat) : ∀ x ∈ l.modify n f, P x := by
  intro x hx
  rw [List.mem_iff_getElem?] at hx
  obtain ⟨k, hk⟩ := hx
  rw [List.getElem?_modify] at hk
  by_cases e : n = k
  · cases hl : l[k]? with
    | none => simp [hl] at hk
    | some y =>
      simp only [hl, e, if_true, Option.map_eq_map, Option.map_some, Option.some.injEq] at hk
      exact hk ▸ hf y (h y (List.mem_of_getElem? hl))
  · cases hl : l[k]? with
    | none => simp [hl] at hk
    | some y =>
      simp only [hl, e, if_false, Option.map_eq_map, Option.map_some, Option.some.injEq] at hk
      exact hk ▸ h y (List.mem_of_getElem? hl)

/-- Changing a workgroup keeps the form where the change does. -/
theorem State.memOk.modWg {s : State} (h : s.memOk) (w : Nat) {f : Wg → Wg} (hf : ∀ W : Wg, W.memOk → (f W).memOk) :
    (s.modWg w f).memOk where
  wgs := forall_mem_modify hf h.wgs w
  tables := h.tables
  dies := h.dies
  transit := h.transit
  inbox := h.inbox

/-- Changing a group keeps the form. -/
theorem State.memOk.modGroup {s : State} (h : s.memOk) (w g : Nat) (f : Group → Group) : (s.modGroup w g f).memOk :=
  h.modWg w fun _ hW => hW

/-- Changing a table version keeps the form where the change does. -/
theorem State.memOk.modTable {s : State} (h : s.memOk) (v : Nat) {f : Table → Table}
    (hf : ∀ T : Table, T.memOk → (f T).memOk) : (s.modTable v f).memOk where
  wgs := h.wgs
  tables := forall_mem_modify hf h.tables v
  dies := h.dies
  transit := h.transit
  inbox := h.inbox

/-- A value of an association list after one is set. -/
theorem mem_insertNat {α : Type} {k : Nat} {v : α} {l : List (Nat × α)} {p : Nat × α} (h : p ∈ insertNat k v l) :
    p ∈ l ∨ p = (k, v) := by
  induction l with
  | nil => simpa [insertNat] using h
  | cons q l ih =>
    obtain ⟨j, u⟩ := q
    unfold insertNat at h
    split at h
    · rcases List.mem_cons.mp h with h | h
      · exact .inr h
      · exact .inl h
    · split at h
      · rcases List.mem_cons.mp h with h | h
        · exact .inr h
        · exact .inl (List.mem_cons_of_mem _ h)
      · rcases List.mem_cons.mp h with h | h
        · exact .inl (h ▸ List.mem_cons_self)
        · exact (ih h).imp (List.mem_cons_of_mem _) id

/-- Setting a die keeps the form where the die has it. -/
theorem State.memOk.setDie {s : State} (h : s.memOk) (d : Nat) {D : Die} (hD : D.memOk) : (s.setDie d D).memOk where
  wgs := h.wgs
  tables := h.tables
  dies := fun p hp => (mem_insertNat hp).elim (h.dies p) fun e => by rw [e]; exact hD
  transit := h.transit
  inbox := h.inbox

/-- A value found in an association list is one of it. -/
theorem lookupNat_mem {α : Type} {k : Nat} {l : List (Nat × α)} {v : α} (h : lookupNat k l = some v) : (k, v) ∈ l := by
  induction l with
  | nil => cases h
  | cons q l ih =>
    obtain ⟨j, u⟩ := q
    unfold lookupNat at h
    split at h
    · cases h
      subst_vars
      exact List.mem_cons_self
    · exact List.mem_cons_of_mem _ (ih h)

/-- Every die of a state in canonical form has it. -/
theorem State.memOk.die {s : State} (h : s.memOk) (d : Nat) : (s.die d).memOk := by
  unfold State.die
  cases hl : lookupNat d s.dies with
  | none => rfl
  | some D => exact h.dies _ (lookupNat_mem hl)

/-- Writing bytes into a trace ring keeps the form. -/
theorem Trace.ring_wf {t : Trace} (h : memWf t.buf = true) (bs : List Byte) : memWf (t.ring bs).buf = true := by
  induction bs generalizing t with
  | nil => exact h
  | cons b bs ih => exact ih (memSet_wf h _ _)

/-- A packet keeps the form of the ring, whether it fits or is dropped (R355). -/
theorem Trace.put_wf {t : Trace} (h : memWf t.buf = true) (clk ty : Nat) (body : List Byte) :
    memWf (t.put clk ty body).buf = true := by
  unfold Trace.put
  dsimp only
  split
  · exact Trace.ring_wf h _
  · exact h

/-! ### S words -/

/-- Whatever an S word answers as a next state is what its result gives to a group that may issue it. -/
theorem sWord_next {s t : State} {f : Env → SRes} (h : sWord s f = .next t) :
    ∃ E, SReady s E ∧ t = applyS s E (f E) := by
  unfold sWord at h
  split at h
  · cases h
  · split at h
    · cases h
    · cases h
      exact ⟨_, ⟨‹_›, Bool.eq_false_iff.mpr ‹_›⟩, rfl⟩

/-- An S word that only changes its group changes it and retires. -/
theorem applyS_group (s : State) (E : Env) (f : Group → Group) :
    applyS s E (.group s E f) = s.modGroup E.w E.g fun G => (f G).retire := by
  simp only [SRes.group, applyS, State.modGroup_modGroup]

/-- A fence point that is clear lets the word go on (R202, R284). -/
theorem sFencePoint_clear {s : State} {E : Env} (hr : coveredInFlight s E = false)
    (he : E.G.T.handler = true ∨ E.G.T.elems = []) (k : State → SRes) : sFencePoint s E k = k (s.redsPast E) := by
  unfold sFencePoint
  rcases he with he | he <;> simp [hr, he]

/-- An implied LWAIT whose block is done covers it and goes on (R104). -/
theorem impliedWait_done {s : State} {E : Env} (h : E.G.lanesDone = true) (k : State → Env → SRes) :
    impliedWait s E k = k ((s.joinLanes E.w E.g).modGroup E.w E.g Group.cover) E.cover := by
  simp [impliedWait, h]

/-! ### L words -/

/-- Whatever an L word answers as a next state is what issuing it gives. -/
theorem lWord_next {s t : State} {op : BitVec 8} {o : LOp} {clears : Bool} {f : Word → State → LRes}
    (h : lWord s op o clears f = .next t) : ∃ x, wordOf s op o = some x ∧ t = issueL s x clears f := by
  unfold lWord at h
  split at h
  · cases h
  · cases h
    exact ⟨_, ‹_›, rfl⟩

end Sys2Proof.Machine
end

