-- ==== Sys2Proof/Laws/Keeps.lean ====
section
/-! SUPPORT. The operations that every word shares keep every memory in canonical form: trace packets, ends of contexts and
launches, traps, descheduling, and the results of S words and L words. -/

namespace Sys2Proof.Machine

/-- What a fold keeps in each of its steps it keeps. -/
theorem foldl_keeps {α β : Type} {P : α → Prop} {f : α → β → α} (hf : ∀ a b, P a → P (f a b)) {a : α} (h : P a)
    (l : List β) : P (l.foldl f a) := by
  induction l generalizing a with
  | nil => exact h
  | cons b l ih => exact ih (hf a b h)

/-- What an operation over late writes leaves keeps the form. -/
theorem State.memOk.looked {s t : State} (h : s.memOk) (k : s.Looked t) : t.memOk :=
  h.of_eq k.wgs (by rw [k.mem]) k.dies (by rw [k.drv]) k.inbox

/-! ### The trace -/

/-- Changing a trace unit keeps the form where the change does. -/
theorem modTrace_memOk {s : State} (h : s.memOk) (d : Nat) {f : Trace → Trace}
    (hf : ∀ t : Trace, memWf t.buf = true → memWf (f t).buf = true) : (modTrace s d f).memOk :=
  h.setDie d (hf _ (h.die d))

/-- A pending SYNC keeps the form. -/
theorem traceSync_memOk {s : State} (h : s.memOk) (d : Nat) : (traceSync s d).memOk := by
  unfold traceSync
  dsimp only
  split
  · exact h.setDie d (Trace.put_wf (h.die d) ..)
  · exact h

/-- A pending LOSS keeps the form. -/
theorem traceLoss_memOk {s : State} (h : s.memOk) (d : Nat) : (traceLoss s d).memOk := by
  unfold traceLoss
  extract_lets D t l y
  clear_value l y
  split
  · exact h.setDie d (Trace.ring_wf (Trace.ring_wf (h.die d) l) y)
  · exact h

/-- The SYNC that opens a channel keeps the form. -/
theorem traceOpen_memOk {s : State} (h : s.memOk) (d : Nat) : (traceOpen s d).memOk := by
  unfold traceOpen
  dsimp only
  split
  · exact h.setDie d (Trace.put_wf (t := { (s.die d).tr with last := s.time.clk }) (h.die d) ..)
  · exact h

/-- A Noon trigger changes no memory. -/
theorem noonTrigger_memOk {s : State} (h : s.memOk) : (noonTrigger s).memOk := by
  unfold noonTrigger
  split
  · exact h
  · exact h.of_eq rfl rfl rfl rfl rfl

/-- Unbinding a channel changes no memory. -/
theorem traceUnbind_memOk {s : State} (h : s.memOk) (d : Nat) : (traceUnbind s d).memOk :=
  (h.setDie d (D := { s.die d with tr := { (s.die d).tr with world := 0, dropped := 0, first := false, since := 0, pend := [] } })
    (h.die d)).of_eq rfl rfl rfl rfl rfl

/-- The targets of a trigger rule change no memory. -/
theorem fireTargets_memOk {s : State} (h : s.memOk) (d : Nat) (rule : W64) (p : Packet) : (fireTargets s d rule p).memOk := by
  unfold fireTargets
  dsimp only
  have h1 : (if rule.getLsbD 34 = true then noonTrigger s else s).memOk := by
    split
    · exact noonTrigger_memOk h
    · exact h
  generalize (if rule.getLsbD 34 = true then noonTrigger s else s) = s1 at h1 ⊢
  have h2 : (if rule.getLsbD 35 = true then traceUnbind s1 d else s1).memOk := by
    split
    · exact traceUnbind_memOk h1 d
    · exact h1
  generalize (if rule.getLsbD 35 = true then traceUnbind s1 d else s1) = s2 at h2 ⊢
  split
  · split
    · exact h2.of_eq rfl rfl rfl rfl rfl
    · exact h2
  · exact h2

/-- What the filter rules make of a packet keeps the form. -/
theorem filterPacket_memOk {s : State} (h : s.memOk) (d : Nat) (p : Packet) : (filterPacket s d p).memOk := by
  unfold filterPacket
  dsimp only
  split
  · exact modTrace_memOk h d fun _ ht => Trace.put_wf ht ..
  · split
    · exact modTrace_memOk h d fun _ ht => Trace.put_wf ht ..
    · exact h
    · exact modTrace_memOk h d fun _ ht => ht
    · refine fireTargets_memOk (modTrace_memOk h d fun t ht => ?_) d _ p
      exact Trace.put_wf (t := { t with rules := t.rules.modify _ ruleCount }) ht ..

/-- A packet that is written keeps the form. -/
theorem writePacket_memOk {s : State} (h : s.memOk) (d : Nat) (p : Packet) : (writePacket s d p).memOk := by
  unfold writePacket
  dsimp only
  have h2 := filterPacket_memOk (modTrace_memOk (f := fun t => { t with pend := t.pend.drop 1 }) (traceSync_memOk h d) d
    fun _ ht => ht) d p
  split
  · exact h2
  · exact traceSync_memOk h2 d

/-- The packets of a clk keep the form. -/
theorem flushTrace_memOk {s : State} (h : s.memOk) : (flushTrace s).memOk := by
  refine foldl_keeps (P := State.memOk) (fun s p hs => ?_) h _
  unfold flushDie
  dsimp only
  have h1 : (modTrace (traceLoss s p.1) p.1 fun t => { t with pend := inGrefOrder t.pend }).memOk :=
    modTrace_memOk (traceLoss_memOk hs _) _ fun _ ht => ht
  refine foldl_keeps (P := State.memOk) (fun s q hs => ?_) ?_ _
  · split
    · exact hs
    · exact writePacket_memOk hs ..
  · split
    · exact h1
    · exact traceOpen_memOk h1 _

/-- A group's packet keeps the form. -/
theorem emitGroup_memOk {s : State} (h : s.memOk) (w g ty : Nat) (split lpc : Option Nat) (rest : List Byte) (moves : Bool) :
    (emitGroup s w g ty split lpc rest moves).memOk := by
  unfold emitGroup
  split
  · exact h
  · split
    · exact modTrace_memOk h _ fun _ ht => ht
    · exact h

/-- An EVENT packet keeps the form. -/
theorem emitEvent_memOk {s : State} (h : s.memOk) (w g code arg : Nat) : (emitEvent s w g code arg).memOk :=
  emitGroup_memOk h ..

/-! ### The ends of launches and contexts -/

/-- What was said of late writes changes no memory. -/
theorem State.memOk.sure {s : State} (h : s.memOk) (sp : LateSpace) (a n : Nat) : (s.sure sp a n).memOk :=
  h.of_eq rfl rfl rfl rfl rfl

/-- A message on a link changes no memory. -/
theorem State.memOk.post {s : State} (h : s.memOk) (l : Nat) (o : BitVec 64) (v : Nat) (m : FabMsg) : (s.post l o v m).memOk :=
  h.of_eq rfl rfl rfl rfl rfl

/-- An access that goes out changes no memory. -/
theorem State.memOk.ask {s : State} (h : s.memOk) (who : Asker) (o : BitVec 64) (world : BitVec 16) (q : Far) :
    (State.ask who o world s q).memOk := h.of_eq rfl rfl rfl rfl rfl

/-- What another module is told changes no memory. -/
theorem State.memOk.tell {s : State} (h : s.memOk) (o : BitVec 64) (world : BitVec 16) (v a n : Nat) (op : FabOp) :
    (s.tell o world v a n op).memOk := by
  unfold State.tell
  split
  · exact h
  · dsimp only
    split
    · exact h
    · exact h.ask ..

/-- An add at home keeps the form. -/
theorem addDword_memOk {s : State} (h : s.memOk) (p : Holder) (rel : Option ScopeAt) (v addr n : Nat) :
    (addDword s p rel v addr n).memOk :=
  (h.looked (s.note_looked ..)).modTable v fun _ hT => memWrite_wf hT _ _

/-- A write at home keeps the form. -/
theorem writeHome_memOk {s : State} (h : s.memOk) (v addr : Nat) (bs : List Byte) : (writeHome s v addr bs).memOk :=
  (h.sure ..).modTable v fun _ hT => memWrite_wf hT _ _

/-- A reply that goes out changes no memory. -/
theorem sendReply_memOk {s : State} (h : s.memOk) (r : Reply) : (sendReply s r).memOk := by
  unfold sendReply
  split
  · exact h.of_eq rfl rfl rfl rfl rfl
  · exact h.of_eq rfl rfl rfl rfl rfl

/-- Sending the replies that are due keeps the form. -/
theorem settle_memOk {s : State} (h : s.memOk) : (settle s).memOk := by
  unfold settle
  refine foldl_keeps (P := State.memOk) (fun _ r ht => sendReply_memOk ht r) ?_ _
  refine ⟨h.wgs, fun T hT => ?_, h.dies, h.transit, h.inbox⟩
  simp only [List.mem_mapIdx] at hT
  obtain ⟨v, hv, rfl⟩ := hT
  split
  · rfl
  · exact h.tables _ (List.getElem_mem hv)

/-- Changing a launch changes no memory. -/
theorem State.memOk.modLaunch {s : State} (h : s.memOk) (l : BitVec 32) (f : Launch → Launch) : (s.modLaunch l f).memOk :=
  h.of_eq rfl rfl rfl rfl rfl

/-- Changing a context changes no memory. -/
theorem State.memOk.modContext {s : State} (h : s.memOk) (c : BitVec 32) (f : Context → Context) : (s.modContext c f).memOk :=
  h.of_eq rfl rfl rfl rfl rfl

/-- An add to a launch's counter keeps the form. -/
theorem addCounter_memOk {s : State} (h : s.memOk) (La : Launch) (v a n : Nat) : (addCounter s La v a n).memOk :=
  (addDword_memOk h ..).tell ..

/-- A write to the row of a launch's counter keeps the form. -/
theorem writeCounter_memOk {s : State} (h : s.memOk) (La : Launch) (v a : Nat) (bs : List Byte) : (writeCounter s La v a bs).memOk :=
  (writeHome_memOk h ..).tell ..

/-- Moving a launch's counter keeps the form. -/
theorem moveCounter_memOk {s : State} (h : s.memOk) (La : Launch) (n : Nat) : (moveCounter s La n).memOk := by
  unfold moveCounter
  refine State.memOk.modLaunch ?_ _ _
  split
  · exact addCounter_memOk h ..
  · exact h

/-- The end of a launch keeps the form. -/
theorem finishLaunch_memOk {s : State} (h : s.memOk) (La : Launch) (st : LaunchStatus) : (finishLaunch s La st).memOk := by
  unfold finishLaunch
  dsimp only
  refine settle_memOk (State.memOk.modLaunch ?_ _ _)
  split
  · exact addCounter_memOk (writeCounter_memOk (writeCounter_memOk h ..) ..) ..
  · exact h

/-- A free draw changes no memory. -/
theorem State.memOk.drawUnused {s : State} (h : s.memOk) (used : List Nat) (lo hi : Nat) : (s.drawUnused used lo hi).2.memOk :=
  h.of_eq rfl rfl rfl rfl rfl

/-- The end of workgroups keeps the form. -/
theorem killWgs_memOk {s : State} (h : s.memOk) (mine : List Nat) (c : BitVec 32) : (killWgs s mine c).memOk := by
  unfold killWgs
  refine foldl_keeps (P := State.memOk) (f := State.endLate) (fun a w ha => ha.of_eq rfl rfl rfl rfl rfl) ?_ mine
  refine ⟨fun W hW => ?_, h.tables, fun p hp => ?_, h.transit, h.inbox⟩
  · simp only [List.mem_mapIdx] at hW
    obtain ⟨v, hv, rfl⟩ := hW
    split
    · exact Wg.clear_memOk _ _
    · exact h.wgs _ (List.getElem_mem hv)
  · simp only [List.mem_map] at hp
    obtain ⟨q, hq, rfl⟩ := hp
    exact h.dies q hq

/-- The end of a launch at once keeps the form. -/
theorem killLaunch_memOk (st : LaunchStatus) {s : State} (h : s.memOk) (l : BitVec 32) : (killLaunch st s l).memOk := by
  unfold killLaunch
  split
  · dsimp only
    split
    · exact finishLaunch_memOk (moveCounter_memOk h _ _) _ _
    · exact moveCounter_memOk h _ _
  · exact h

/-- Keeping a frame changes no memory. -/
theorem keepFrame_memOk {s : State} (h : s.memOk) (f : List W64) : (keepFrame s f).2.memOk := by
  unfold keepFrame
  split
  · exact h
  · exact h.of_eq rfl rfl rfl rfl rfl

/-- The end of a context keeps the form. -/
theorem endContext_memOk {s : State} (h : s.memOk) (c : BitVec 32) (cause inner : BitVec 8) (frame : List W64) :
    (endContext s c cause inner frame).memOk := by
  unfold endContext
  split
  · exact h
  · split
    · exact h
    · refine settle_memOk ?_
      have hk : ∀ (st : LaunchStatus) (f : Context → Context) (hs : List (BitVec 32)),
          (hs.foldl (killLaunch st) ((killWgs (keepFrame s frame).2 (wgsOf s c) c).modContext c f)).memOk := fun st f hs =>
        foldl_keeps (P := State.memOk) (fun _ l h => killLaunch_memOk st h l)
          ((killWgs_memOk (keepFrame_memOk h frame) _ c).modContext c f) hs
      split
      · exact (hk _ _ _).of_eq rfl rfl rfl rfl rfl
      · exact hk _ _ _

/-! ### Traps, descheduling and results -/

/-- Taking a trap keeps the form. -/
theorem takeTrap_memOk {s : State} (h : s.memOk) (w g : Nat) (t : TrapInfo) : (takeTrap s w g t).memOk := by
  unfold takeTrap
  split
  · exact h
  · dsimp only
    split
    · exact h.modGroup w g _
    · split
      · exact endContext_memOk h ..
      · split
        · exact endContext_memOk h ..
        · exact State.memOk.modGroup (s := (emitEvent s w g 0 _).draw.2.shelveQueues w g)
            ((emitEvent_memOk h w g 0 _).of_eq rfl rfl rfl rfl rfl) w g _

/-- An entry of the event log changes no memory. -/
theorem State.memOk.logEvent {s : State} (h : s.memOk) (e : LogEntry) : (s.logEvent e).memOk := h.of_eq rfl rfl rfl rfl rfl

/-- An entry of a service-fault list changes no memory. -/
theorem listFault_memOk {s : State} (h : s.memOk) (w : Nat) (f : ServiceEntry) : (listFault s w f).memOk := by
  unfold listFault
  split
  · exact h
  · split
    · exact h
    · exact (h.modWg w (f := fun W => { W with faults := W.faults ++ [f] }) fun _ hW => hW).of_eq rfl rfl rfl rfl rfl

/-- A workgroup that swaps out keeps the form. -/
theorem swapOut_memOk {s : State} (h : s.memOk) (w : Nat) (f : ServiceEntry) : (swapOut s w f).memOk := by
  unfold swapOut
  split
  · exact h
  · dsimp only
    refine listFault_memOk (State.memOk.modWg (f := fun W => _) ?_ w ?_) w f
    rotate_left
    · exact fun _ hW => hW
    exact foldl_keeps (P := State.memOk) (fun a b ha => emitEvent_memOk ha w b 2 0) h _

/-- A debug stop keeps the form. -/
theorem debugStop_memOk {s : State} (h : s.memOk) (w g : Nat) (c : Cause) : (debugStop s w g c).memOk :=
  (emitEvent_memOk h w g 2 2).modGroup w g _

/-- The states in an S word's result. -/
def SRes.All (P : State → Prop) : SRes → Prop
  | .done s => P s
  | .jump s _ _ => P s
  | .trap _ => True
  | .after _ s => P s
  | .wait _ s => P s
  | .service _ _ => True
  | .left s => P s

/-- What an S word's result makes of the state keeps the form where the result does. -/
theorem applyS_memOk {s : State} (h : s.memOk) (E : Env) {r : SRes} (hr : r.All State.memOk) : (applyS s E r).memOk := by
  cases r with
  | done s' => exact State.memOk.modGroup hr ..
  | jump s' t u => exact State.memOk.modGroup hr ..
  | trap t => exact takeTrap_memOk h ..
  | after t s' => exact takeTrap_memOk (State.memOk.modGroup hr ..) ..
  | wait st s' => exact State.memOk.modGroup hr ..
  | service c n => exact swapOut_memOk h ..
  | left s' => exact hr

/-- An S word keeps the form where its result does. -/
theorem sWord_memOk {s t : State} (h : s.memOk) {f : Env → SRes} (hf : ∀ E, (f E).All State.memOk)
    (ht : sWord s f = .next t) : t.memOk := by
  obtain ⟨E, -, rfl⟩ := sWord_next ht
  exact applyS_memOk h E (hf E)

/-- The states in an L word's result. -/
def LRes.All (P : State → Prop) : LRes → Prop
  | .done s => P s
  | .jump s _ => P s
  | .stay s => P s
  | .trap _ => True
  | .trapWith _ s => P s
  | .part _ s => P s
  | .after _ s => P s
  | .wait _ => True
  | .hold _ s => P s
  | .service _ _ => True

/-- The queue entry of a word, at its issue and as it completes, changes no memory. -/
theorem takeEntry_memOk {s : State} (h : s.memOk) (x : Word) : (x.takeEntry s).memOk := by
  unfold Word.takeEntry
  split
  · exact h.of_eq rfl rfl rfl rfl rfl
  · exact h

theorem entryGone_memOk {s : State} (h : s.memOk) (x : Word) : (x.entryGone s).memOk := by
  unfold Word.entryGone
  split
  · exact h.of_eq rfl rfl rfl rfl rfl
  · exact h

/-- What an L word's result makes of the state keeps the form where the result does. -/
theorem applyL_memOk {s : State} (h : s.memOk) (x : Word) {r : LRes} (hr : r.All State.memOk) : (applyL s x r).memOk := by
  cases r with
  | done s' => exact State.memOk.modGroup (entryGone_memOk hr x) ..
  | jump s' t => exact State.memOk.modGroup (entryGone_memOk hr x) ..
  | stay s' => exact entryGone_memOk hr x
  | trap t => exact takeTrap_memOk h ..
  | trapWith t s' => exact takeTrap_memOk (State.memOk.modGroup hr ..) ..
  | part t s' => exact takeTrap_memOk (State.memOk.modGroup hr ..) ..
  | after t s' => exact takeTrap_memOk (entryGone_memOk hr x) ..
  | wait w => exact h.modGroup ..
  | hold w s' => exact State.memOk.modGroup hr ..
  | service c n => exact swapOut_memOk h ..

/-- Issuing an L word keeps the form where its result does. -/
theorem issueL_memOk {s : State} (h : s.memOk) (x : Word) (clears : Bool) {f : Word → State → LRes}
    (hf : ∀ x s, s.memOk → (f x s).All State.memOk) : (issueL s x clears f).memOk := by
  have hg : (issueL.go s x clears f).memOk := by
    unfold issueL.go
    split
    · exact applyL_memOk h x trivial
    · split
      · exact takeTrap_memOk h ..
      · exact applyL_memOk h x (hf x _ ((takeEntry_memOk h x).modGroup ..))
  unfold issueL
  split
  · split
    · exact h.modGroup ..
    · split
      · exact takeTrap_memOk h ..
      · exact hg
  · split
    · exact takeTrap_memOk h ..
    · exact hg

/-- An L word keeps the form where its result does. -/
theorem lWord_memOk {s t : State} (h : s.memOk) {op : BitVec 8} {o : LOp} {clears : Bool} {f : Word → State → LRes}
    (hf : ∀ x s, s.memOk → (f x s).All State.memOk) (ht : lWord s op o clears f = .next t) : t.memOk := by
  obtain ⟨x, -, rfl⟩ := lWord_next ht
  exact issueL_memOk h x clears hf

end Sys2Proof.Machine
end

