-- ==== Sys2Proof/Laws/PerInstr.lean ====
section
/-! SUPPORT. Statements per instruction: the opcode and the fields that an L instruction is encoded from give it back. -/

namespace Sys2Proof.Laws.Parts

/-- R48, R54: the opcode and the fields of a well-formed L instruction name it; no other instruction has any. -/
def Statement (i : Instr) : Prop := wellFormed i = true → ∀ p, lParts i = some p → lInstr p.1.toNat p.2 = some i

/-- An instruction with no opcode and fields. -/
theorem of_none {i : Instr} (h : lParts i = none) : Statement i := fun _ p hp => by rw [h] at hp; cases hp

/-- An instruction that its opcode and fields name. -/
theorem of_some {i : Instr} {p : BitVec 8 × LOp} (h : lParts i = some p) (hi : lInstr p.1.toNat p.2 = some i) : Statement i :=
  fun _ q hq => by rw [h] at hq; cases hq; exact hi

theorem add (d a b : BitVec 6) : Statement (.add d a b) := of_none rfl
theorem sub (d a b : BitVec 6) : Statement (.sub d a b) := of_none rfl
theorem and (d a b : BitVec 6) : Statement (.and d a b) := of_none rfl
theorem or (d a b : BitVec 6) : Statement (.or d a b) := of_none rfl
theorem xor (d a b : BitVec 6) : Statement (.xor d a b) := of_none rfl
theorem andn (d a b : BitVec 6) : Statement (.andn d a b) := of_none rfl
theorem shl (d a b : BitVec 6) : Statement (.shl d a b) := of_none rfl
theorem shr (d a b : BitVec 6) : Statement (.shr d a b) := of_none rfl
theorem sar (d a b : BitVec 6) : Statement (.sar d a b) := of_none rfl
theorem mul (d a b : BitVec 6) : Statement (.mul d a b) := of_none rfl
theorem mulh (d a b : BitVec 6) : Statement (.mulh d a b) := of_none rfl
theorem mulhn (d a b : BitVec 6) : Statement (.mulhn d a b) := of_none rfl
theorem div (d a b : BitVec 6) : Statement (.div d a b) := of_none rfl
theorem divn (d a b : BitVec 6) : Statement (.divn d a b) := of_none rfl
theorem rem (d a b : BitVec 6) : Statement (.rem d a b) := of_none rfl
theorem remn (d a b : BitVec 6) : Statement (.remn d a b) := of_none rfl
theorem min (d a b : BitVec 6) : Statement (.min d a b) := of_none rfl
theorem max (d a b : BitVec 6) : Statement (.max d a b) := of_none rfl
theorem minn (d a b : BitVec 6) : Statement (.minn d a b) := of_none rfl
theorem maxn (d a b : BitVec 6) : Statement (.maxn d a b) := of_none rfl
theorem slt (d a b : BitVec 6) : Statement (.slt d a b) := of_none rfl
theorem sltn (d a b : BitVec 6) : Statement (.sltn d a b) := of_none rfl
theorem seq (d a b : BitVec 6) : Statement (.seq d a b) := of_none rfl
theorem sne (d a b : BitVec 6) : Statement (.sne d a b) := of_none rfl
theorem clz (d a : BitVec 6) : Statement (.clz d a) := of_none rfl
theorem ctz (d a : BitVec 6) : Statement (.ctz d a) := of_none rfl
theorem popc (d a : BitVec 6) : Statement (.popc d a) := of_none rfl
theorem brev (d a : BitVec 6) : Statement (.brev d a) := of_none rfl
theorem addw (d a b : BitVec 6) : Statement (.addw d a b) := of_none rfl
theorem subw (d a b : BitVec 6) : Statement (.subw d a b) := of_none rfl
theorem divT (d a b : BitVec 6) : Statement (.divT d a b) := of_none rfl
theorem divnT (d a b : BitVec 6) : Statement (.divnT d a b) := of_none rfl
theorem remT (d a b : BitVec 6) : Statement (.remT d a b) := of_none rfl
theorem remnT (d a b : BitVec 6) : Statement (.remnT d a b) := of_none rfl
theorem addi (d a : BitVec 6) (i : BitVec 14) : Statement (.addi d a i) := of_none rfl
theorem andi (d a : BitVec 6) (i : BitVec 14) : Statement (.andi d a i) := of_none rfl
theorem ori (d a : BitVec 6) (i : BitVec 14) : Statement (.ori d a i) := of_none rfl
theorem xori (d a : BitVec 6) (i : BitVec 14) : Statement (.xori d a i) := of_none rfl
theorem shli (d a i : BitVec 6) : Statement (.shli d a i) := of_none rfl
theorem shri (d a i : BitVec 6) : Statement (.shri d a i) := of_none rfl
theorem sari (d a i : BitVec 6) : Statement (.sari d a i) := of_none rfl
theorem slti (d a : BitVec 6) (i : BitVec 14) : Statement (.slti d a i) := of_none rfl
theorem sltni (d a : BitVec 6) (i : BitVec 14) : Statement (.sltni d a i) := of_none rfl
theorem muli (d a : BitVec 6) (i : BitVec 14) : Statement (.muli d a i) := of_none rfl
theorem movi (d : BitVec 6) (i : BitVec 20) : Statement (.movi d i) := of_none rfl
theorem movh (d : BitVec 6) (i : BitVec 20) : Statement (.movh d i) := of_none rfl
theorem ldk (d : BitVec 6) (n : BitVec 20) : Statement (.ldk d n) := of_none rfl
theorem ldkx (d a : BitVec 6) (i : BitVec 14) : Statement (.ldkx d a i) := of_none rfl
theorem ldp (d : BitVec 6) (n : BitVec 9) : Statement (.ldp d n) := of_none rfl
theorem b (c : Cond) (a : BitVec 6) (o : BitVec 16) : Statement (.b c a o) := of_none rfl
theorem j (o : BitVec 26) : Statement (.j o) := of_none rfl
theorem call (o : BitVec 26) : Statement (.call o) := of_none rfl
theorem jr (a : BitVec 6) : Statement (.jr a) := of_none rfl
theorem jalr (d a : BitVec 6) : Statement (.jalr d a) := of_none rfl
theorem loop (a : BitVec 6) (o : BitVec 14) : Statement (.loop a o) := of_none rfl
theorem loopi (c : BitVec 12) (o : BitVec 14) : Statement (.loopi c o) := of_none rfl
theorem rds (d : BitVec 6) (n : Special) : Statement (.rds d n) := of_none rfl
theorem lrun (o : BitVec 26) : Statement (.lrun o) := of_none rfl
theorem lrunr (a : BitVec 6) : Statement (.lrunr a) := of_none rfl
theorem lwaitRelease (wg g : Nat) : Statement (.lwaitRelease wg g) := of_none rfl
theorem pushu (a : BitVec 6) : Statement (.pushu a) := of_none rfl
theorem popb (d : BitVec 6) : Statement (.popb d) := of_none rfl
theorem queueDeadlock (wg g : Nat) : Statement (.queueDeadlock wg g) := of_none rfl
theorem skld (d a t : BitVec 6) (o : BitVec 8) : Statement (.skld d a t o) := of_none rfl
theorem skst (d a t : BitVec 6) (o : BitVec 8) : Statement (.skst d a t o) := of_none rfl
theorem kswap (a t : BitVec 6) : Statement (.kswap a t) := of_none rfl
theorem kswapComplete (wg g : Nat) : Statement (.kswapComplete wg g) := of_none rfl
theorem copy (d : BitVec 6) (tag : BitVec 8) : Statement (.copy d tag) := of_none rfl
theorem gather (d : BitVec 6) (tag : BitVec 8) : Statement (.gather d tag) := of_none rfl
theorem bload (d : BitVec 6) : Statement (.bload d) := of_none rfl
theorem cwait (a b : BitVec 6) (o : Order) (sc : Scope) : Statement (.cwait a b o sc) := of_none rfl
theorem cwaitWake (wg g : Nat) : Statement (.cwaitWake wg g) := of_none rfl
theorem fence (o : Order) (sc : Scope) : Statement (.fence o sc) := of_none rfl
theorem bar (id : BitVec 4) : Statement (.bar id) := of_none rfl
theorem barDepart (wg g : Nat) : Statement (.barDepart wg g) := of_none rfl
theorem spawn (d a : BitVec 6) : Statement (.spawn d a) := of_none rfl
theorem sleep (n : BitVec 20) : Statement (.sleep n) := of_none rfl
theorem sleepEnd (wg g : Nat) : Statement (.sleepEnd wg g) := of_none rfl
theorem mark (n : BitVec 20) : Statement (.mark n) := of_none rfl
theorem csrr (d : BitVec 6) (c : BitVec 12) : Statement (.csrr d c) := of_none rfl
theorem csrw (a : BitVec 6) (c : BitVec 12) : Statement (.csrw a c) := of_none rfl
theorem trap (n : BitVec 16) : Statement (.trap n) := of_none rfl
theorem lAdd (o : LOp) : Statement (.lAdd o) := of_some rfl rfl
theorem lSub (o : LOp) : Statement (.lSub o) := of_some rfl rfl
theorem lMul (o : LOp) : Statement (.lMul o) := of_some rfl rfl
theorem lMulh (o : LOp) : Statement (.lMulh o) := of_some rfl rfl
theorem mad (o : LOp) : Statement (.mad o) := of_some rfl rfl
theorem adds (o : LOp) : Statement (.adds o) := of_some rfl rfl
theorem subs (o : LOp) : Statement (.subs o) := of_some rfl rfl
theorem abs (o : LOp) : Statement (.abs o) := of_some rfl rfl
theorem neg (o : LOp) : Statement (.neg o) := of_some rfl rfl
theorem lMin (o : LOp) : Statement (.lMin o) := of_some rfl rfl
theorem lMax (o : LOp) : Statement (.lMax o) := of_some rfl rfl
theorem lAnd (o : LOp) : Statement (.lAnd o) := of_some rfl rfl
theorem lOr (o : LOp) : Statement (.lOr o) := of_some rfl rfl
theorem lXor (o : LOp) : Statement (.lXor o) := of_some rfl rfl
theorem not (o : LOp) : Statement (.not o) := of_some rfl rfl
theorem lShl (o : LOp) : Statement (.lShl o) := of_some rfl rfl
theorem lShr (o : LOp) : Statement (.lShr o) := of_some rfl rfl
theorem lSar (o : LOp) : Statement (.lSar o) := of_some rfl rfl
theorem lClz (o : LOp) : Statement (.lClz o) := of_some rfl rfl
theorem lPopc (o : LOp) : Statement (.lPopc o) := of_some rfl rfl
theorem lBrev (o : LOp) : Statement (.lBrev o) := of_some rfl rfl
theorem bfx (o : LOp) : Statement (.bfx o) := of_some rfl rfl
theorem bfi (o : LOp) : Statement (.bfi o) := of_some rfl rfl
theorem sel (o : LOp) : Statement (.sel o) := of_some rfl rfl
theorem cmp (o : LOp) : Statement (.cmp o) := of_some rfl rfl
theorem mov (o : LOp) : Statement (.mov o) := of_some rfl rfl
theorem prm (o : LOp) : Statement (.prm o) := of_some rfl rfl
theorem dotb (o : LOp) : Statement (.dotb o) := of_some rfl rfl
theorem madw (o : LOp) : Statement (.madw o) := of_some rfl rfl
theorem fadd (o : LOp) : Statement (.fadd o) := of_some rfl rfl
theorem fsub (o : LOp) : Statement (.fsub o) := of_some rfl rfl
theorem fmul (o : LOp) : Statement (.fmul o) := of_some rfl rfl
theorem fma (o : LOp) : Statement (.fma o) := of_some rfl rfl
theorem fnma (o : LOp) : Statement (.fnma o) := of_some rfl rfl
theorem fmin (o : LOp) : Statement (.fmin o) := of_some rfl rfl
theorem fmax (o : LOp) : Statement (.fmax o) := of_some rfl rfl
theorem fabs (o : LOp) : Statement (.fabs o) := of_some rfl rfl
theorem fneg (o : LOp) : Statement (.fneg o) := of_some rfl rfl
theorem fcmp (o : LOp) : Statement (.fcmp o) := of_some rfl rfl
theorem fcls (o : LOp) : Statement (.fcls o) := of_some rfl rfl
theorem frnd (o : LOp) : Statement (.frnd o) := of_some rfl rfl
theorem fdiv (o : LOp) : Statement (.fdiv o) := of_some rfl rfl
theorem fsqrt (o : LOp) : Statement (.fsqrt o) := of_some rfl rfl
theorem rcp (o : LOp) : Statement (.rcp o) := of_some rfl rfl
theorem rsq (o : LOp) : Statement (.rsq o) := of_some rfl rfl
theorem exp2 (o : LOp) : Statement (.exp2 o) := of_some rfl rfl
theorem log2 (o : LOp) : Statement (.log2 o) := of_some rfl rfl
theorem sin (o : LOp) : Statement (.sin o) := of_some rfl rfl
theorem cos (o : LOp) : Statement (.cos o) := of_some rfl rfl
theorem tanh (o : LOp) : Statement (.tanh o) := of_some rfl rfl
theorem fscl (o : LOp) : Statement (.fscl o) := of_some rfl rfl
theorem fcvt (o : LOp) : Statement (.fcvt o) := of_some rfl rfl
theorem icvt (o : LOp) : Statement (.icvt o) := of_some rfl rfl
theorem fcvti (o : LOp) : Statement (.fcvti o) := of_some rfl rfl
theorem qblk (o : LOp) : Statement (.qblk o) := of_some rfl rfl
theorem dqblk (o : LOp) : Statement (.dqblk o) := of_some rfl rfl
theorem pack (o : LOp) : Statement (.pack o) := of_some rfl rfl
theorem unpk (o : LOp) : Statement (.unpk o) := of_some rfl rfl
theorem shfl (o : LOp) : Statement (.shfl o) := of_some rfl rfl
theorem shfx (o : LOp) : Statement (.shfx o) := of_some rfl rfl
theorem bcst (o : LOp) : Statement (.bcst o) := of_some rfl rfl
theorem ball (o : LOp) : Statement (.ball o) := of_some rfl rfl
theorem vote (o : LOp) : Statement (.vote o) := of_some rfl rfl
theorem mbcnt (o : LOp) : Statement (.mbcnt o) := of_some rfl rfl
theorem conf (o : LOp) : Statement (.conf o) := of_some rfl rfl
theorem red (o : LOp) : Statement (.red o) := of_some rfl rfl
theorem scan (o : LOp) : Statement (.scan o) := of_some rfl rfl
theorem bra (o : LOp) : Statement (.bra o) := of_some rfl rfl
theorem jmp (o : LOp) : Statement (.jmp o) := of_some rfl rfl
theorem joinAll (o : LOp) : Statement (.joinAll o) := fun h p hp => by
  cases hp
  have hv : ownOk (.joinAll o) = true := ((Bool.and_eq_true _ _).mp h).1
  have hv : o.var = 0 := by simpa only [ownOk, beq_iff_eq] using hv
  show some (if o.var = 0 then Instr.joinAll o else Instr.joinAny o) = _
  rw [if_pos hv]
theorem joinAny (o : LOp) : Statement (.joinAny o) := fun h p hp => by
  cases hp
  have hv : ownOk (.joinAny o) = true := ((Bool.and_eq_true _ _).mp h).1
  have hv : o.var ≠ 0 := by simpa only [ownOk, bne_iff_ne] using hv
  show some (if o.var = 0 then Instr.joinAll o else Instr.joinAny o) = _
  rw [if_neg hv]
theorem lend (o : LOp) : Statement (.lend o) := of_some rfl rfl
theorem exitl (o : LOp) : Statement (.exitl o) := of_some rfl rfl
theorem yld (o : LOp) : Statement (.yld o) := of_some rfl rfl
theorem yldReturn (wg g e : Nat) : Statement (.yldReturn wg g e) := of_none rfl
theorem splitReload (wg g : Nat) : Statement (.splitReload wg g) := of_none rfl
theorem movw (o : LOp) : Statement (.movw o) := of_some rfl rfl
theorem pushb (o : LOp) : Statement (.pushb o) := of_some rfl rfl
theorem setmd (o : LOp) : Statement (.setmd o) := of_some rfl rfl
theorem getmd (o : LOp) : Statement (.getmd o) := of_some rfl rfl
theorem rdfl (o : LOp) : Statement (.rdfl o) := of_some rfl rfl
theorem clfl (o : LOp) : Statement (.clfl o) := of_some rfl rfl
theorem lds (o : LOp) : Statement (.lds o) := of_some rfl rfl
theorem sts (o : LOp) : Statement (.sts o) := of_some rfl rfl
theorem ats (o : LOp) : Statement (.ats o) := of_some rfl rfl
theorem waitge (o : LOp) : Statement (.waitge o) := of_some rfl rfl
theorem waitgeRecheck (wg g e : Nat) : Statement (.waitgeRecheck wg g e) := of_none rfl
theorem kfind (o : LOp) : Statement (.kfind o) := of_some rfl rfl
theorem kld (o : LOp) : Statement (.kld o) := of_some rfl rfl
theorem kst (o : LOp) : Statement (.kst o) := of_some rfl rfl
theorem kins (o : LOp) : Statement (.kins o) := of_some rfl rfl
theorem kdel (o : LOp) : Statement (.kdel o) := of_some rfl rfl
theorem kseek (o : LOp) : Statement (.kseek o) := of_some rfl rfl
theorem knext (o : LOp) : Statement (.knext o) := of_some rfl rfl
theorem kclose (o : LOp) : Statement (.kclose o) := of_some rfl rfl
theorem kat (o : LOp) : Statement (.kat o) := of_some rfl rfl
theorem scat (o : LOp) : Statement (.scat o) := of_some rfl rfl
theorem reductionApply (red : Nat) : Statement (.reductionApply red) := of_none rfl
theorem abeg (o : LOp) : Statement (.abeg o) := of_some rfl rfl
theorem ald (o : LOp) : Statement (.ald o) := of_some rfl rfl
theorem ast (o : LOp) : Statement (.ast o) := of_some rfl rfl
theorem acom (o : LOp) : Statement (.acom o) := of_some rfl rfl
theorem commitResume (wg g e : Nat) : Statement (.commitResume wg g e) := of_none rfl
theorem aabt (o : LOp) : Statement (.aabt o) := of_some rfl rfl
theorem astat (o : LOp) : Statement (.astat o) := of_some rfl rfl
theorem mma (o : LOp) : Statement (.mma o) := of_some rfl rfl
theorem quarterOp (core k : Nat) : Statement (.quarterOp core k) := of_none rfl
theorem tileReady (core k : Nat) : Statement (.tileReady core k) := of_none rfl
theorem mzero (o : LOp) : Statement (.mzero o) := of_some rfl rfl
theorem mdrn (o : LOp) : Statement (.mdrn o) := of_some rfl rfl
theorem mrd (o : LOp) : Statement (.mrd o) := of_some rfl rfl
theorem mwt (o : LOp) : Statement (.mwt o) := of_some rfl rfl
theorem nop (o : LOp) : Statement (.nop o) := of_some rfl rfl
theorem fencel (o : LOp) : Statement (.fencel o) := of_some rfl rfl
theorem trapl (o : LOp) : Statement (.trapl o) := of_some rfl rfl
theorem markl (o : LOp) : Statement (.markl o) := of_some rfl rfl
theorem blockStart (wg g : Nat) : Statement (.blockStart wg g) := of_none rfl
theorem copyJobStart (job : Nat) : Statement (.copyJobStart job) := of_none rfl
theorem copySector (job slice recv row sec : Nat) : Statement (.copySector job slice recv row sec) := of_none rfl
theorem gatherElement (job i : Nat) : Statement (.gatherElement job i) := of_none rfl
theorem bloadLine (job j : Nat) : Statement (.bloadLine job j) := of_none rfl
theorem counterAdd (job slice recv n : Nat) : Statement (.counterAdd job slice recv n) := of_none rfl
theorem jobComplete (job : Nat) : Statement (.jobComplete job) := of_none rfl
theorem trapEntry (wg g : Nat) : Statement (.trapEntry wg g) := of_none rfl
theorem timer (wg g : Nat) : Statement (.timer wg g) := of_none rfl
theorem timeLimit (launch : BitVec 32) : Statement (.timeLimit launch) := of_none rfl
theorem bindStart (core : Nat) : Statement (.bindStart core) := of_none rfl
theorem bindResume (core : Nat) : Statement (.bindResume core) := of_none rfl
theorem bindFill (core : Nat) : Statement (.bindFill core) := of_none rfl
theorem bindSwap (core : Nat) : Statement (.bindSwap core) := of_none rfl
theorem duskSwap (core : Nat) : Statement (.duskSwap core) := of_none rfl
theorem spillDrainDone (core : Nat) : Statement (.spillDrainDone core) := of_none rfl
theorem spillFillDone (core : Nat) : Statement (.spillFillDone core) := of_none rfl
theorem childTaskStart (core : Nat) : Statement (.childTaskStart core) := of_none rfl
theorem workgroupComplete (wg : Nat) : Statement (.workgroupComplete wg) := of_none rfl
theorem contextCreate (m : Msg) : Statement (.contextCreate m) := of_none rfl
theorem contextEnd (m : Msg) : Statement (.contextEnd m) := of_none rfl
theorem load (m : Msg) : Statement (.load m) := of_none rfl
theorem unload (m : Msg) : Statement (.unload m) := of_none rfl
theorem levels (m : Msg) : Statement (.levels m) := of_none rfl
theorem tableCreate (m : Msg) : Statement (.tableCreate m) := of_none rfl
theorem tableRetire (m : Msg) : Statement (.tableRetire m) := of_none rfl
theorem rowsWrite (m : Msg) : Statement (.rowsWrite m) := of_none rfl
theorem rowsRead (m : Msg) : Statement (.rowsRead m) := of_none rfl
theorem tableSwap (m : Msg) : Statement (.tableSwap m) := of_none rfl
theorem windowSet (m : Msg) : Statement (.windowSet m) := of_none rfl
theorem windowRevoke (m : Msg) : Statement (.windowRevoke m) := of_none rfl
theorem launch (m : Msg) : Statement (.launch m) := of_none rfl
theorem wait (m : Msg) : Statement (.wait m) := of_none rfl
theorem debugGrantRight (m : Msg) : Statement (.debugGrantRight m) := of_none rfl
theorem debugRevokeRight (m : Msg) : Statement (.debugRevokeRight m) := of_none rfl
theorem debugWriteDbgctl (m : Msg) : Statement (.debugWriteDbgctl m) := of_none rfl
theorem debugWriteBreakpoint (m : Msg) : Statement (.debugWriteBreakpoint m) := of_none rfl
theorem debugStopOrHold (m : Msg) : Statement (.debugStopOrHold m) := of_none rfl
theorem debugStateAccess (m : Msg) : Statement (.debugStateAccess m) := of_none rfl
theorem debugTraceChannel (m : Msg) : Statement (.debugTraceChannel m) := of_none rfl
theorem debugNoonTrigger (m : Msg) : Statement (.debugNoonTrigger m) := of_none rfl
theorem attest (m : Msg) : Statement (.attest m) := of_none rfl
theorem debugStop (wg g : Nat) : Statement (.debugStop wg g) := of_none rfl
theorem splitHold (wg g e : Nat) : Statement (.splitHold wg g e) := of_none rfl
theorem sync (die : Nat) : Statement (.sync die) := of_none rfl
theorem loss (die : Nat) : Statement (.loss die) := of_none rfl
theorem lbrk : Statement .lbrk := of_none rfl
theorem lwait : Statement .lwait := of_none rfl
theorem exit : Statement .exit := of_none rfl
theorem eret : Statement .eret := of_none rfl
theorem halt : Statement .halt := of_none rfl
theorem brk : Statement .brk := of_none rfl
theorem yield : Statement .yield := of_none rfl
theorem serviceComplete (wg : Nat) (r : ServiceResult) : Statement (.serviceComplete wg r) := of_none rfl
theorem testLaunch (tenant : BitVec 64) (world : BitVec 16) (kernel : BitVec 32) : Statement (.testLaunch tenant world kernel) := of_none rfl
theorem revocationNotice (notice : Nat) : Statement (.revocationNotice notice) := of_none rfl
theorem boot : Statement .boot := of_none rfl
theorem undervoltagePowerDown : Statement .undervoltagePowerDown := of_none rfl
theorem firmwareImageReceive (image : List Byte) : Statement (.firmwareImageReceive image) := of_none rfl
theorem thermalShutdown (die : Nat) : Statement (.thermalShutdown die) := of_none rfl
theorem clockThrottle (lower : Bool) : Statement (.clockThrottle lower) := of_none rfl
theorem stateUncorr (ctx : BitVec 32) : Statement (.stateUncorr ctx) := of_none rfl
theorem tenantAdmission (tenant : BitVec 64) (record : List Byte) : Statement (.tenantAdmission tenant record) := of_none rfl
theorem tenantRetirement (tenant : BitVec 64) : Statement (.tenantRetirement tenant) := of_none rfl
theorem sessionOpen (session : Nat) (tenant : BitVec 64) : Statement (.sessionOpen session tenant) := of_none rfl
theorem grantAdmission (tenant : BitVec 64) (owner grantee : BitVec 16) (table : BitVec 32) : Statement (.grantAdmission tenant owner grantee table) := of_none rfl
theorem noticeAcknowledgement (notice : Nat) : Statement (.noticeAcknowledgement notice) := of_none rfl
theorem flitAck (link : Nat) (owner : BitVec 64) (counter : BitVec 64) : Statement (.flitAck link owner counter) := of_none rfl
theorem linkFailure (link : Nat) (windows : List Nat) : Statement (.linkFailure link windows) := of_none rfl
theorem slabMigration (m : Migration) : Statement (.slabMigration m) := of_none rfl
theorem zhenanFlitReceive (link : Nat) (f : Flit) : Statement (.zhenanFlitReceive link f) := of_none rfl
theorem flitNak (link : Nat) (owner : BitVec 64) : Statement (.flitNak link owner) := of_none rfl
theorem linkRetrain (link : Nat) (peer : BitVec 32) : Statement (.linkRetrain link peer) := of_none rfl
theorem linkRekey (link : Nat) (owner : BitVec 64) : Statement (.linkRekey link owner) := of_none rfl
theorem virtualLaneStop (link : Nat) (vl : BitVec 3) (on : Bool) : Statement (.virtualLaneStop link vl on) := of_none rfl
theorem secretDelivery (tenant : BitVec 64) (k : SecretKind) (wrapped : List Byte) : Statement (.secretDelivery tenant k wrapped) := of_none rfl
theorem periodAdvance (tenant : BitVec 64) : Statement (.periodAdvance tenant) := of_none rfl
theorem contextMigrate (ctx : BitVec 32) (handover : BitVec 32) : Statement (.contextMigrate ctx handover) := of_none rfl
theorem migrationConfirm (ctx handover : BitVec 32) (here : Bool) : Statement (.migrationConfirm ctx handover here) := of_none rfl

end Sys2Proof.Laws.Parts
end

