-- ==== Sys2Proof/Tests/Slice0.lean ====
section
/-! SUPPORT. The model's own tests: ill-formed terms that the well-formedness check refuses, words written out from the spec's
encodings, small results worked out by hand, and for every statement states and operands that meet its hypotheses. -/

set_option maxRecDepth 100000
set_option Elab.async false

namespace Sys2Proof.Tests

open Sys2Proof.Machine Sys2Proof.Claims

/-! ### Ill-formed terms -/

/-- Fields of an L word: i32, a and b in registers, VD 1, no guard. -/
def op : LOp := plain .i32 1 (.reg 2) (.reg 3)

/-- A message of a request with a body. -/
def msg (code : BitVec 16) (body : List Byte) : Msg :=
  { session := 1, op := code, status := 0, length := BitVec.ofNat 32 body.length, req := 9, ctx := 1, resv := 0, body := body }

/-- R94: `al` tests no register. -/
theorem test_wf_b : wellFormed (.b .al 3 1) = false ∧ wellFormed (.b .al 0 1) = true := by decide
/-- R95: a loop body is not empty. -/
theorem test_wf_loop : wellFormed (.loop 1 0) = false ∧ wellFormed (.loopi 1 0) = false ∧ wellFormed (.loop 1 1) = true := by decide
/-- R225: a descriptor of four registers. -/
theorem test_wf_copy : wellFormed (.copy 61 0) = false ∧ wellFormed (.gather 61 0) = false ∧ wellFormed (.bload 61) = false
    ∧ wellFormed (.copy 60 0) = true := by decide
/-- R230, R269: the orders of CWAIT and FENCE. -/
theorem test_wf_orders : wellFormed (.cwait 1 2 .rel .wg) = false ∧ wellFormed (.fence .rlx .wg) = false
    ∧ wellFormed (.cwait 1 2 .acq .wg) = true := by decide
/-- R291: a CSR number that the table of CSRs lacks. -/
theorem test_wf_csr : wellFormed (.csrr 1 6) = false ∧ wellFormed (.csrw 1 6) = false ∧ wellFormed (.csrr 1 5) = true := by decide
/-- R134: JOIN_ALL and JOIN_ANY are told apart by VAR. -/
theorem test_wf_join : wellFormed (.joinAll { op with var := 1 }) = false ∧ wellFormed (.joinAny { op with var := 0 }) = false := by
  decide
/-- R11, R14: events on cores, dies and links that do not exist. -/
theorem test_wf_parts : wellFormed (.bindStart 512) = false ∧ wellFormed (.sync 32) = false ∧ wellFormed (.linkRekey 48 0) = false
    ∧ wellFormed (.quarterOp 512 0) = false ∧ wellFormed (.thermalShutdown 68) = false ∧ wellFormed (.bindStart 511) = true := by
  decide
/-- R326: a message with another op, a status, a wrong length, a reserved byte, or another subcode. -/
theorem test_wf_msg : wellFormed (.contextEnd (msg 0x0001 [])) = false ∧ wellFormed (.contextEnd { msg 2 [] with status := 1 }) = false
    ∧ wellFormed (.contextEnd { msg 2 [] with length := 1 }) = false ∧ wellFormed (.contextEnd { msg 2 [] with resv := 1 }) = false
    ∧ wellFormed (.debugGrantRight (msg 0x50 [2])) = false ∧ wellFormed (.debugGrantRight (msg 0x50 [1])) = true := by decide
/-- R14, R347: a flit of a link that does not exist. -/
theorem test_wf_flit : wellFormed (.zhenanFlitReceive 48 { owner := 1, counter := 0, bytes := Vector.replicate 256 0 }) = false := by decide
/-- R52: the inline byte 0; R53: a float type on an integer word; R48: p7 as a destination; R54: an IMM32 that no source reads. -/
theorem test_wf_fields : wellFormed (.lAdd { op with a := .byte 0 }) = false ∧ wellFormed (.lAdd { op with ty := .f32 }) = false
    ∧ wellFormed (.cmp { op with vd := 7 }) = false ∧ wellFormed (.lAdd { op with imm := 1 }) = false
    ∧ wellFormed (.lAdd op) = true := by decide

/-! ### Words written out from the spec's encodings -/

/-- R88: add s4, s1, s2: op 0x01, d 4, a 1, b 2, fn 0. -/
theorem test_decode_add : decodeS (0x01#6 ++ 4#6 ++ 1#6 ++ 2#6 ++ 0x00#8) = .ok (.add 4 1 2) := rfl
/-- R90, R91: the immediate words. -/
theorem test_decode_imm : decodeS (0x02#6 ++ 3#6 ++ 3#6 ++ 0x20#14) = .ok (.addi 3 3 0x20)
    ∧ decodeS (0x0C#6 ++ 1#6 ++ 9#20) = .ok (.movi 1 9) := ⟨rfl, rfl⟩
/-- R94: b.nez s5, +2. -/
theorem test_decode_b : decodeS 0x44850002 = .ok (.b .nez 5 2) := rfl
/-- R336, R338, R271: spawn s4, s9; exit; bar 3. -/
theorem test_decode_life : decodeS 0x9C424000 = .ok (.spawn 4 9) ∧ decodeS 0xA0000000 = .ok .exit ∧ decodeS 0x98000003 = .ok (.bar 3) :=
  ⟨rfl, rfl, rfl⟩
/-- R291, R294: csrw trapbase, s1; the words of SYS. -/
theorem test_decode_sys : decodeS 0xF4004000 = .ok (.csrw 1 0) ∧ decodeS 0xF8010000 = .ok .eret ∧ decodeS 0xF8000005 = .ok (.trap 5) :=
  ⟨rfl, rfl, rfl⟩
/-- R250, R252: mma.fb16.fe4m3 as the spec writes it out. -/
theorem test_decode_mma : decodeL 256 0xB01100383C0F800000000004 =
    .ok (.mma { plain .i16 0 (.reg 30) (.reg 31) with var := 1, imm := 4 }) := rfl
/-- R296: trapl 9 under p1: OP 0xC2, TY 15, VAR 0, VD 0, NW 0, PN 0, PG 1, sources 0, AUX 0, IMM32 9. -/
theorem test_decode_trapl : decodeL 16 (0xC2#8 ++ 15#4 ++ 0#4 ++ 0#8 ++ 0#1 ++ 0#1 ++ 1#3 ++ 0#10 ++ 0#10 ++ 0#10 ++ 0#5 ++ 9#32) =
    .ok (.trapl { plain .none 0 (.reg 0) (.reg 0) with pg := 1, imm := 9 }) := rfl
/-- R147, R158, R187, R192: ball, ats, kfind and knext as the spec writes them out. -/
theorem test_decode_lane : decodeL 256 0x4BF004380000000300000000 = .ok (.ball { plain .none 4 (.reg 0) (.reg 0) with aux := 3 })
    ∧ decodeL 256 0x727808180F80006400000000 =
        .ok (.ats { plain .n64 8 (.reg 7) (.const 0) with var := 8, pg := 3, c := .reg 3, aux := 4 })
    ∧ decodeL 256 0x80F009381000000300020000 = .ok (.kfind { plain .none 9 (.reg 8) (.reg 0) with aux := 3, imm := 0x20000 })
    ∧ decodeL 256 0x86F104380000000400000000 = .ok (.knext { plain .none 4 (.reg 0) (.reg 0) with var := 1, aux := 4 }) :=
  ⟨rfl, rfl, rfl, rfl⟩
/-- R57: a register at or above lregs, and a reserved bit. -/
theorem test_decode_bad : decodeL 4 0x017007380D0000000000012C = .error .illegalForm
    ∧ decodeS 0xF8010001 = .error .reservedBits := ⟨rfl, rfl⟩

/-! ### A small module -/

/-- A kernel of 16 lane registers, four tiles and one group, with 16 bytes of constants. -/
def kern : Kernel :=
  { handle := 1, world := 1, tenant := 7, name := []
    header := { scratch := 1024, accs := 4, groups := 1, nbind := 0, lregs := 16, lsize := 4, ssize := 4, psize := 0, csize := 16 }
    scode := [0x04404200, 0, 0, 0], lcode := [0, 0, 0, 0], consts := [5, 0, 0, 0, 0, 0, 0, 0, 6, 0, 0, 0, 0, 0, 0, 0], temps := []
    levels := [], test := [], unloaded := false }

/-- Its launch: tables 1, 2 and 3 in slots 0 to 2. -/
def lnch : Launch :=
  { placedLaunch with params := [9, 0, 0, 0, 0, 0, 0, 0], binds := [⟨0, 1, false⟩, ⟨1, 2, false⟩, ⟨2, 3, false⟩, ⟨3, 1, true⟩] }

/-- The context that holds it. -/
def ctxt : Context := { placedContext with tenant := 7 }

/-- A descriptor of 16 rows of 64 bytes, owned by world 1. -/
def desc (id : BitVec 32) (kind : BitVec 3) : Desc :=
  { id := id, kind := kind, k128 := false, multi := false, leaf := 0, homed := false, home := 0, width := 64, owner := 1, nranges := 0
    size := 15, root := 0, nslabs := 1, slab0 := 16 * id.toNat, ranges := [] }

/-- The row id of row slot 3 of table 2 or 3, in generation 1. -/
def rid (id : Nat) : W64 := 1#16 ++ BitVec.ofNat 32 (16 * id) ++ 3#16

/-- Tables 1 (ARRAY), 2 (HASH) and 3 (ORDERED); the last two hold the key 5. -/
def tabs : List Table :=
  [ { blankTable (desc 1 0) 0 with rows := [(0, 9), (65, 1)] },
    { blankTable (desc 2 1) 0 with hash := [(5, rid 2)], slots := [(3, { gen := 1, live := true })], rows := [(192, 7)] },
    { blankTable (desc 3 2) 8 with leaves := [{ low := none, entries := [(5, rid 3)] }], slots := [(3, { gen := 1, live := true })] } ]

/-- A group with a handler, and values in some scalar registers. -/
def grp : Group :=
  let G := Group.reset 16 4
  { G with S := { G.S with s := [0, 8, 3, 1, 0, 2, 0x100] ++ List.replicate 57 0, pc := 1 }, T := { G.T with trapbase := 2 } }

/-- The group with a block running: one split, of the lanes of a mask; v2 is 8 and v3 is 5 in every lane. -/
def lgrp (m : LMask) : Group :=
  let p : Split := { Split.freeEntry with st := .ready, mask := m }
  let L : Lane := { Lane.reset 16 with regs := [0, 8, 8, 5, 1] ++ List.replicate 11 0 }
  { grp with L := { grp.L with running := true, blockSeq := 1, splits := p :: List.replicate 7 Split.freeEntry }
             lanes := List.replicate 32 L }

/-- The module with one workgroup of one group. -/
def mk (G : Group) : State :=
  { State.reset with
    time := { State.reset.time with boot := .running, clk := 100, clock := 77 }
    mem := { tables := tabs, dir := [(1, 0), (2, 1), (3, 2)], held := [], windows := [] }
    drv := { State.reset.drv with kernels := [kern], launches := [lnch], contexts := [ctxt]
                                  tenants := [{ id := 7, record := [], period := 0, fabric := none, transfer := some [], retired := false }]
                                  worlds := [(1, 7)]
                                  sessions := [{ id := 1, tenant := 7, isOpen := true }] }
    wgs := [{ freshWg 1 1 0 [4, 5] 0 0 1 0 1024 [G] with scratch := [(8, 7)] }] }

/-- The environment of group 0. -/
def env (s : State) : Env :=
  (envAt s 0 0).getD { w := 0, g := 0, W := placedWg 32, G := grp, La := lnch, K := kern, C := ctxt }

/-- Group 0 may issue an S word. -/
def ready (s : State) : Bool := (envOf s).isSome && envOf s == envAt s 0 0 && !(env s).G.S.stall.holds

theorem sready_of {s : State} (h : ready s = true) : SReady s (env s) := by
  simp only [ready, Bool.and_eq_true, Bool.not_eq_true', beq_iff_eq] at h
  obtain ⟨⟨h1, h2⟩, h3⟩ := h
  refine ⟨?_, h3⟩
  obtain ⟨E, hE⟩ := Option.isSome_iff_exists.mp h1
  rw [hE, env, ← h2, hE]; rfl

/-- The word that split 0 issues. -/
def word (s : State) (i : Instr) : Word :=
  ((lParts i).bind fun q => wordOf s q.1 q.2).getD
    { E := env s, e := 0, p := Split.freeEntry, op := 0, o := op, act := 0 }

/-- Split 0 issues an L word. -/
def lready (s : State) (i : Instr) : Bool :=
  let x := word s i
  (((lParts i).bind fun q => wordOf s q.1 q.2).isSome)
    && (match x.G.regionOf x.p.mask with
        | none => regionFault x.op.toNat false == none
        | some r => decide (r.count < 64) && regionFault x.op.toNat true == none)
    && (!namesUq x.o || !x.G.S.uq.isEmpty) && latchTrap x == none

theorem lready_of {s : State} {i : Instr} (h : lready s i = true) : LReady s i (word s i) := by
  simp only [lready, Bool.and_eq_true, Bool.or_eq_true, Bool.not_eq_true', beq_iff_eq] at h
  obtain ⟨⟨⟨h1, h2⟩, h3⟩, h4⟩ := h
  obtain ⟨x, hx⟩ := Option.isSome_iff_exists.mp h1
  have hw : word s i = x := by simp [word, hx]
  rw [hw] at h2 h3 h4 ⊢
  obtain ⟨⟨op, o⟩, hq, hx⟩ := Option.bind_eq_some_iff.mp hx
  have hs := wordOf_spec hx
  refine ⟨by rw [hq, hs.2.2.2.1, hs.2.2.2.2.1], by rw [hs.2.2.2.1, hs.2.2.2.2.1]; exact hx, ?_, ?_, h4⟩
  · cases hr : x.G.regionOf x.p.mask <;> simp only [hr] at h2 ⊢
    · simpa using h2
    · simpa using h2
  · intro hn
    rcases h3 with h3 | h3
    · rw [hn] at h3; cases h3
    · exact h3

/-- What holds of every lane of a mask. -/
theorem lanes_all {m : LMask} {P : Nat → Prop} (h : ∀ i, i < 32 → inMask m i = true → P i) (i : Nat) (hi : inMask m i = true) : P i := by
  refine h i (Nat.lt_of_not_le fun hc => ?_) hi
  simp [inMask, BitVec.getLsbD_of_ge m i hc] at hi

/-- What holds of the value of an option, if it has one. -/
theorem opt_all {α : Type} {o : Option α} {P : α → Prop} [DecidablePred P] (h : (o.all fun x => decide (P x)) = true) (x : α)
    (hx : o = some x) : P x := by
  subst hx
  simpa using h

/-- Rows of a table whose slabs are all there and all a world's own are open to it. -/
theorem rows_open {s : State} {v : Nat} {t : Table} {x : BitVec 16} {r : Right} {a n : Nat} (h : t.absent = []) (ho : t.owners = [])
    (hw : t.desc.owner = x) (hx : x ≠ 0) : RowsOpen s v t x r a n := by
  intro _ slab _ _
  have h1 : t.slabOwner slab = x := by simp [Table.slabOwner, ho, lookupNat, hw]
  rw [h, h1]
  refine ⟨List.not_mem_nil, ?_⟩
  split <;> exact .inl ⟨rfl, hx⟩

/-- Rows of a table whose slabs are all a world's own are granted to it. -/
theorem granted {s : State} {v : Nat} {t : Table} {x : BitVec 16} {r : Right} {a n : Nat} (ho : t.owners = []) (hw : t.desc.owner = x)
    (hx : x ≠ 0) : Granted s v t x r a n :=
  fun slab _ _ _ => .inl ⟨by simp [Table.slabOwner, ho, lookupNat, hw], hx⟩

/-- A table without errors is sound. -/
theorem no_bad {t : Table} {a n : Nat} (h : t.bad = []) : NoBad t a n := by
  intro q hq
  rw [h] at hq
  cases hq

/-- A lane finds a row of a table whose slabs are all there and its world's own, without errors. -/
theorem lane_row {x : Word} {s : State} {b : Bound} {off n i : Nat} {rt : Right} {reads : Bool} {r : Row}
    (hr : b.t.rowOf (tabRid x.o) (tabKey x b.t.desc.k128 i) = .ok r) (h : b.t.absent = []) (ho : b.t.owners = [])
    (hw : b.t.desc.owner = x.E.world) (hx : x.E.world ≠ 0) (hb : b.t.bad = []) : LaneRow x s b off n rt reads i r :=
  ⟨hr, rows_open h ho hw hx, fun _ => no_bad hb⟩

/-- What holds of lane 0 holds of every lane of its mask. -/
theorem lane0 {m : LMask} {P : Nat → Prop} (h : m = 1) (hp : P 0) (i : Nat) (hi : inMask m i = true) : P i := by
  subst h
  have : i = 0 := lanes_all (m := 1) (P := fun i => i = 0) (by decide) i hi
  exact this ▸ hp

/-- No write is on its way. -/
theorem settled {s : State} {sp : LateSpace} (h : s.late = []) : Settled s sp := by
  intro l hl
  rw [h] at hl
  cases hl

theorem test_small : ready (mk grp) = true := by decide +kernel

/-! ### Encodings and steps: the hypotheses can be met -/

/-- A word for each round trip. -/
theorem wit_RoundTrips : wellFormed (.add 4 1 2) = true ∧ encodeS (.add 4 1 2) = some 0x04404200
    ∧ decodeS 0x04404200 = .ok (.add 4 1 2) ∧ wellFormed (.lAdd op) = true ∧ (encodeL (.lAdd op)).isSome = true :=
  ⟨by decide, by decide, rfl, by decide, by decide⟩

/-- The environment of the word that a turn executes. -/
def turned (s : State) (e : Nat) : Env := (envOf (s.turnTo 0 0 e)).getD (env s)

theorem wit_StepRunsDecodedWord_scalar : let s := State.reset.withFetchWord 32 0x04404200
    ∃ E, envOf (s.turnTo 0 0 0) = some E ∧ beforeWord s E none = none ∧ E.tagMiss (scalarUses E (.add 4 1 2)) = none
      ∧ farS (s.turnTo 0 0 0) E (.add 4 1 2) = [] ∧ E.G.S.stall.holds = false
      ∧ breakAt E.C false E.G.S.pc = none ∧ E.K.scode[E.G.S.pc.toNat]? = some 0x04404200 ∧ decodeS 0x04404200 = .ok (.add 4 1 2) :=
  ⟨turned (State.reset.withFetchWord 32 0x04404200) 0, rfl, rfl, rfl, rfl, rfl, rfl, rfl, rfl⟩

theorem wit_StepRunsDecodedWord_lane : let s := State.reset.withFetchWord 96 0x017007380D0000000000012C
    ∃ E x i, envOf (s.turnTo 0 0 0) = some E ∧ beforeWord s E (some 0) = none ∧ atBoundary E.G 0 = true
      ∧ (∃ p, laneWord s 0 0 0 = some p ∧ E.tagMiss (laneUses p.1 p.2) = none ∧ farL (s.turnTo 0 0 0) p.1 p.2 = [])
      ∧ breakAt E.C true (E.G.split 0).lpc = none ∧ E.K.lcode[(E.G.split 0).lpc.toNat]? = some x ∧ decodeL E.K.header.lregs x = .ok i :=
  ⟨turned (State.reset.withFetchWord 96 0x017007380D0000000000012C) 0, 0x017007380D0000000000012C,
    .lAdd { plain .n64 7 (.reg 6) .imm with imm := 300 }, rfl, rfl, rfl, ⟨_, rfl, rfl, rfl⟩, rfl, rfl, rfl⟩

/-- A turn that is fixed; one that follows at once, the reload of a split; turns of which one is drawn. A turn that stops nothing. -/
theorem wit_StepRunsDecodedWord_turns : let u := mk { lgrp 1 with L := { (lgrp 1).L with ovf := [{ Split.freeEntry with mask := 2 }] } }
    ((State.reset.withFetchWord 32 0x04404200).time.boot = .running ∧ (State.reset.withFetchWord 32 0x04404200).ctl.agenda = [.sWord 0 0])
    ∧ (u.time.boot = .running ∧ u.dies = [] ∧ u.ctl.agenda = [] ∧ urgent (tick u) = some (.event (.splitReload 0 0)))
    ∧ ((mk grp).ctl.agenda = [] ∧ (mk grp).ctl.inbox = [] ∧ urgent (tick (mk grp)) = none ∧ turns (tick (mk grp)) ≠ [])
    ∧ ∃ s', takeTurn (mk grp) (.sWord 0 0) = .next s' ∧ (mk grp).time.boot ≠ .off ∧ s'.wgs.map (·.place) = [.active] :=
  ⟨⟨rfl, rfl⟩, ⟨rfl, rfl, rfl, by decide +kernel⟩, ⟨rfl, rfl, by decide +kernel, by decide +kernel⟩, _, rfl, by decide, rfl⟩

theorem wit_StepRunsDecodedWord_bad : (env (mk { grp with S := { grp.S with pc := 4 } })).K.scode[4]? = none
    ∧ (env (mk grp)).K.scode[(env (mk grp)).G.S.pc.toNat]? = some 0 ∧ decodeS 0 = .error .zeroWord := ⟨rfl, rfl, rfl⟩

theorem wit_StepKeepsMemory : ∃ t, State.reset.memOk ∧ step State.reset = .next t := by
  refine ⟨_, ⟨?_, ?_, ?_, ?_, ?_⟩, rfl⟩ <;> intro x hx <;> cases hx

theorem wit_LittleEndian : memWf [(8, 7)] = true ∧ 8 ≤ 8 ∧ 7 < 8 ∧ (0 : Nat) < 0 + 1 := by decide

/-! ### The scalar stream -/

theorem wit_scalar : SReady (mk grp) (env (mk grp)) := sready_of (by decide +kernel)

theorem wit_ScalarArithmetic : ∃ f g, aluR (.add 4 1 2) = some (4, 1, 2, f) ∧ aluI (.sltni 0 1 0x3FFF) = some (0, 1, g) :=
  ⟨_, _, rfl, rfl⟩

theorem wit_Division : ∃ f g, divWord (.divT 4 1 4) = some (4, 1, 4, true, f) ∧ (env (mk grp)).G.rS 4 = 0
    ∧ divWord (.rem 4 1 2) = some (4, 1, 2, false, g) ∧ (env (mk grp)).G.rS 2 ≠ 0 := ⟨_, _, rfl, rfl, rfl, by decide⟩

/-- A word of each trap's kind that passes: a divisor of 3, the last doubleword of the constants by either word, and the parameter. -/
theorem wit_ScalarFrame : (5 : BitVec 6) ≠ 4 ∧ scalarDest (.divT 4 1 2) = some 4 ∧ ScalarPasses (env (mk grp)) (.divT 4 1 2)
    ∧ scalarDest (.ldk 4 1) = some 4 ∧ ScalarPasses (env (mk grp)) (.ldk 4 1) ∧ ScalarPasses (env (mk grp)) (.ldkx 4 0 1)
    ∧ ScalarPasses (env (mk grp)) (.ldp 4 0) := by
  refine ⟨by decide, rfl, ⟨?_, ?_, ?_, ?_⟩, rfl, ⟨?_, ?_, ?_, ?_⟩, ⟨?_, ?_, ?_, ?_⟩, ⟨?_, ?_, ?_, ?_⟩⟩ <;> intros <;> rename_i h <;> cases h
    <;> decide +kernel

/-- The last doubleword of the constants, and the first past them; the same of the parameters. -/
theorem wit_ScalarSources : let E := env (mk grp)
    8 * (1 : BitVec 20).toNat + 8 ≤ E.K.header.csize ∧ E.K.header.csize < 8 * (2 : BitVec 20).toNat + 8
    ∧ 8 * (E.G.rS 0 + (1 : BitVec 14).signExtend 64).toNat + 8 ≤ E.K.header.csize
    ∧ E.K.header.csize < 8 * (E.G.rS 0 + (0x3FFF : BitVec 14).signExtend 64).toNat + 8
    ∧ 8 * (0 : BitVec 9).toNat + 8 ≤ E.La.params.length ∧ E.La.params.length < 8 * (1 : BitVec 9).toNat + 8 := by decide +kernel

/-- A group in a loop of four, one and no entries. -/
def looped (n : Nat) (G : Group) : Group :=
  { G with S := { G.S with loops := (List.replicate n { start := 0, stop := 1, count := 1, depth := 0 } : List LoopEntry) } }

theorem wit_Branches : taken .nez ((env (mk grp)).G.rS 1) ∧ ¬ taken .eqz ((env (mk grp)).G.rS 1) ∧ taken .al 0 ∧ taken .ltz (-1) ∧ taken .gez 0
    ∧ taken .lez 0 ∧ taken .gtz 1 ∧ (5 : BitVec 6) ≠ 62 ∧ (∀ e ∈ (env (mk grp)).G.S.loops.head?, e.depth ≠ (env (mk grp)).G.S.depth)
    ∧ SReady (mk (looped 1 grp)) (env (mk (looped 1 grp)))
    ∧ ∃ e, (env (mk (looped 1 grp))).G.S.loops.head? = some e ∧ e.depth = (env (mk (looped 1 grp))).G.S.depth := by
  refine ⟨?_, ?_, trivial, ?_, ?_, ?_, ?_, by decide, by decide +kernel, sready_of (by decide +kernel), _, rfl, rfl⟩
  · show _ ≠ _; decide +kernel
  · show ¬ _ = _; decide +kernel
  · show _ < _; decide
  · show _ ≤ _; decide
  · show _ ≤ _; decide
  · show _ < _; decide

/-- LOOP with a count of zero; with three entries, of the same end and of a lower one; with four. -/
theorem wit_Loops :
    (∃ (i : Instr) (a : BitVec 6) (n : BitVec 12) (o : BitVec 14) (c : W64), (i = .loop a o ∧ c = (env (mk grp)).G.rS a ∨ i = .loopi n o ∧ c = n.setWidth 64) ∧ c = 0)
    ∧ SReady (mk (looped 3 grp)) (env (mk (looped 3 grp))) ∧ SReady (mk (looped 4 grp)) (env (mk (looped 4 grp)))
    ∧ (let E := env (mk (looped 3 grp))
       E.G.rS 1 ≠ 0 ∧ E.G.S.loops.length < 4
       ∧ (∃ e ∈ E.G.S.loops, e.depth = E.G.S.depth ∧ e.stop.toNat < (E.G.S.pc + (1 : BitVec 14).setWidth 64).toNat)
       ∧ ¬ ∃ e ∈ E.G.S.loops, e.depth = E.G.S.depth ∧ e.stop.toNat < (E.G.S.pc + (0 : BitVec 14).setWidth 64).toNat)
    ∧ 4 ≤ (env (mk (looped 4 grp))).G.S.loops.length :=
  ⟨⟨.loop 4 1, 4, 0, 1, 0, .inl ⟨rfl, rfl⟩, rfl⟩, sready_of (by decide +kernel), sready_of (by decide +kernel), by decide +kernel,
    by decide +kernel⟩

theorem wit_LoopBreak : ∃ e es, (env (mk (looped 2 grp))).G.S.loops = e :: es ∧ e.depth = (env (mk (looped 2 grp))).G.S.depth
    ∧ SReady (mk (looped 2 grp)) (env (mk (looped 2 grp)))
    ∧ ∀ e ∈ (env (mk grp)).G.S.loops.head?, e.depth ≠ (env (mk grp)).G.S.depth :=
  ⟨_, _, rfl, rfl, sready_of (by decide +kernel), by decide +kernel⟩

/-- A word that ends no loop, one that ends a loop with a run left, and one that ends the last run. -/
theorem wit_EndCheck : (∀ e ∈ grp.S.loops.head?, ¬ (e.depth = grp.S.depth ∧ e.stop = grp.S.pc))
    ∧ (∃ e es, (looped 1 grp).S.loops = e :: es ∧ e.depth = (looped 1 grp).S.depth ∧ e.stop = (looped 1 grp).S.pc ∧ e.count ≠ 0)
    ∧ ∃ (G : Group) (e : LoopEntry) (es : List LoopEntry), G.S.loops = e :: es ∧ e.depth = G.S.depth ∧ e.stop = G.S.pc ∧ e.count = 0 :=
  ⟨by decide +kernel, ⟨_, _, rfl, rfl, rfl, by decide⟩,
    { grp with S := { grp.S with loops := [{ start := 0, stop := 1, count := 0, depth := 0 }] } }, _, _, rfl, rfl, rfl, rfl⟩

/-- A full dispatch queue, a head in bq, and a running block. -/
def queued : Group :=
  { lgrp 1 with S := { grp.S with dq := [0, 0, 0, 0, 0, 0, 0, 0], bq := [3], uq := List.replicate 31 0 } }

/-- The group where its split's `WAITGE` has taken an entry of a uq that is full but for that place. -/
def lent : Group :=
  let G := queued
  { G with L := { G.L with splits := G.L.splits.modify 0 fun p => { p with wait := .waitge [] (some 6) } } }

theorem wit_QueuesAndBlocks_launch :
    (∃ (i : Instr) (o : BitVec 26) (a : BitVec 6) (v : W64), (i = .lrun o ∧ v = o.setWidth 64 ∨ i = .lrunr a ∧ v = (env (mk grp)).G.rS a)
      ∧ v.toNat < 2 ^ 26 ∧ v.toNat < (env (mk grp)).K.header.lsize ∧ (env (mk grp)).G.S.dq.length < 8)
    ∧ (∃ (i : Instr) (o : BitVec 26) (a : BitVec 6) (v : W64), (i = .lrun o ∧ v = o.setWidth 64 ∨ i = .lrunr a ∧ v = (env (mk queued)).G.rS a)
      ∧ SReady (mk queued) (env (mk queued)) ∧ v.toNat < 2 ^ 26 ∧ v.toNat < (env (mk queued)).K.header.lsize
      ∧ 8 ≤ (env (mk queued)).G.S.dq.length)
    ∧ (∃ (i : Instr) (o : BitVec 26) (a : BitVec 6) (v : W64), (i = .lrun o ∧ v = o.setWidth 64 ∨ i = .lrunr a ∧ v = (env (mk grp)).G.rS a)
      ∧ (2 ^ 26 ≤ v.toNat ∨ (env (mk grp)).K.header.lsize ≤ v.toNat)) :=
  ⟨⟨.lrun 3, 3, 0, 3, .inl ⟨rfl, rfl⟩, by decide +kernel⟩,
    ⟨.lrun 0, 0, 0, 0, .inl ⟨rfl, rfl⟩, sready_of (by decide +kernel), by decide +kernel⟩,
    ⟨.lrunr 6, 0, 6, 0x100, .inr ⟨rfl, rfl⟩, by decide +kernel⟩⟩

theorem wit_QueuesAndBlocks_queues : (env (mk queued)).G.S.uq.length + (env (mk queued)).G.taken.length < 32
    ∧ (SReady (mk lent) (env (mk lent)) ∧ 32 ≤ (env (mk lent)).G.S.uq.length + (env (mk lent)).G.taken.length)
    ∧ (∃ v rest, (env (mk queued)).G.S.bq = v :: rest) ∧ (env (mk grp)).G.S.bq = [] :=
  ⟨by decide +kernel, ⟨sready_of (by decide +kernel), by decide +kernel⟩, ⟨_, _, rfl⟩, rfl⟩

/-- A group that waits at LWAIT, with nothing left to wait for. -/
def waiting : Group := { grp with S := { grp.S with stall := .lwait } }

/-- A group whose next block has not started. -/
def dispatched (m : LMask) : Group := { grp with S := { grp.S with dq := [2, 1] }, L := { grp.L with alive := m } }

theorem wit_QueuesAndBlocks_blocks :
    ((env (mk grp)).G.L.running = false ∧ (env (mk grp)).G.S.dq = [])
    ∧ (SReady (mk queued) (env (mk queued)) ∧ (env (mk queued)).G.L.running = true)
    ∧ (∃ E, envAt (mk waiting) 0 0 = some E ∧ E.issues = true ∧ E.G.S.stall = .lwait ∧ E.G.L.running = false ∧ E.G.S.dq = [])
    ∧ ∀ m : LMask, ∃ E start rest, envAt (mk (dispatched m)) 0 0 = some E ∧ E.issues = true ∧ E.G.L.running = false
        ∧ E.G.S.dq = start :: rest ∧ E.G.L.alive = m :=
  ⟨by decide +kernel, ⟨sready_of (by decide +kernel), by decide +kernel⟩, ⟨_, rfl, rfl, rfl, rfl, rfl⟩, fun _ => ⟨_, _, _, rfl, rfl, rfl, rfl, rfl⟩⟩

/-! ### Scalar tables, engines, waits and barriers -/

/-- A slot that is bound, as the module resolves it. -/
def bnd (s : State) (n : Nat) (slot : BitVec 6) (ro : Bool) : Bound :=
  { slot := slot, id := BitVec.ofNat 32 (n + 1), ro := ro, v := n, t := (s.table? n).getD (blankTable (desc 0 0) 0) }

/-- Row 3 of table 1, the last byte of it; by slot 3, which is read-only, it is only read. -/
theorem wit_ScalarTableWords : ScalarRow (mk grp) (env (mk grp)) 3 3 56 false (bnd (mk grp) 0 3 true) { rid := 3, slot := 3, addr := 192 }
    ∧ ScalarRow (mk grp) (env (mk grp)) 0 3 56 true (bnd (mk grp) 0 0 false) { rid := 3, slot := 3, addr := 192 }
    ∧ memWf (bnd (mk grp) 0 0 false).t.rows = true := by
  refine ⟨⟨rfl, ?_, ?_, rfl, rows_open rfl rfl rfl ?_, fun _ => no_bad rfl⟩,
    ⟨rfl, ?_, ?_, rfl, rows_open rfl rfl rfl ?_, fun _ => no_bad rfl⟩, ?_⟩ <;> decide +kernel

/-- The module with a fourth table of the shape of table 1. -/
def swappable (G : Group) : State :=
  let s := mk G
  { s with mem := { s.mem with tables := tabs ++ [blankTable (desc 4 0) 0], dir := (4, 3) :: s.mem.dir } }

/-- A group that names table 4 in s1, and one that waits for its exchange. -/
def swapper (w : Stall) : Group := { grp with S := { grp.S with s := [0, 4] ++ List.replicate 62 0, stall := w } }

theorem wit_ScalarTableWords_kswap : let s := swappable (swapper .none)
    let E := env s
    (∃ b vy u, SReady s E ∧ slotOf s E.La 0 = .bound b ∧ (E.G.rS 1).toNat < 2 ^ 32 ∧ s.descHeld ((E.G.rS 1).setWidth 32) = true
      ∧ s.versionOf ((E.G.rS 1).setWidth 32) = some vy ∧ s.table? vy = some u ∧ b.ro = false ∧ b.t.desc.owner = E.world
      ∧ u.desc.owner = E.world ∧ b.t.desc.kind = u.desc.kind ∧ b.t.desc.k128 = u.desc.k128 ∧ b.t.desc.width = u.desc.width)
    ∧ ∃ F, envAt (swappable (swapper .kswap)) 0 0 = some F ∧ F.issues = true ∧ F.G.S.stall = .kswap :=
  ⟨⟨bnd (mk grp) 0 0 false, 3, blankTable (desc 4 0) 0, sready_of (by decide +kernel), rfl, by decide +kernel, by decide +kernel, rfl, rfl,
    rfl, rfl, rfl, rfl, rfl, rfl⟩, _, rfl, rfl, rfl⟩

/-- Descriptors: a COPY and a BLOAD of zeros in s8 to s11, a GATHER of 32 bytes in s12 to s15, a BLOAD whose counter is the last
doubleword of row 15 of table 1 in s16 to s19, and a scratchpad COPY in s20 to s23. -/
def engines : Group :=
  { grp with S := { grp.S with s := (List.replicate 14 0 : List W64) ++ [31#64 <<< 32, 0, 0, 0, 0, (1#1 ++ 0#10 ++ 15#40 ++ 7#13)]
                                      ++ [2, 64, 0, 8] ++ List.replicate 40 0 } }

/-- A job that has been formed of one slice. -/
def formed (kind : JobKind) (d : List W64) (ctr : Counter) : Job :=
  { core := 0, wg := 0, kind := kind, state := .forming, slices := [{ group := 0, seq := 0, d := d, ctr := ctr }], version := none
    keys := [], done := [], owed := [], bad := [] }

/-- The module with jobs. -/
def withJobs (s : State) (js : List Job) : State := { s with jobs := js }

theorem wit_EngineWordsIssue_copy : let s := mk engines
    let E := env s
    let ds := descRegs E.G 8
    let dt := descRegs E.G 20
    SReady s E ∧ CounterOk s E (ds.getD 3 0) { adds := true, clu := (copyD ds).multicast, onlyClu := (copyD ds).multicast } (.scratch 0)
    ∧ copyBad E.La ds = false ∧ (∀ r ∈ copyScratch (copyD ds), r.2 ≤ E.W.size) ∧ (copyD ds).mode ≠ 2
    ∧ (∃ b, slotOf s E.La (copyD ds).slot = .bound b ∧ ((copyD ds).mode = 1 → b.ro = false) ∧ b.t.desc.isArray = true
        ∧ (copyD ds).rbytes ≤ b.t.desc.width)
    ∧ slotFree s E.W.coreNo = true ∧ (∀ j ∈ s.jobs, ¬ (j.wg = E.w ∧ j.kind = .copy 3 (copiesOf E.G 3)))
    ∧ (copyD dt).mode = 2 ∧ copyBad E.La dt = false ∧ (∀ r ∈ copyScratch (copyD dt), r.2 ≤ E.W.size)
    ∧ CounterOk s E (dt.getD 3 0) { adds := true, clu := (copyD dt).multicast, onlyClu := (copyD dt).multicast } (.scratch 8) := by
  refine ⟨sready_of (by decide +kernel), ⟨by decide +kernel, .inl ⟨by decide +kernel, by decide +kernel, by decide +kernel, rfl⟩⟩,
    by decide +kernel, by decide +kernel, by decide +kernel, ⟨bnd (mk grp) 0 0 false, rfl, by decide +kernel, by decide +kernel, by decide +kernel⟩,
    by decide +kernel, by decide +kernel, by decide +kernel, by decide +kernel, by decide +kernel,
    ⟨by decide +kernel, .inl ⟨by decide +kernel, by decide +kernel, by decide +kernel, rfl⟩⟩⟩

theorem wit_EngineWordsIssue_join : let s := withJobs (mk engines) [formed (.copy 3 0) [0, 0, 0, 0] (.scratch 8)]
    let E := env s
    SReady s E ∧ ∃ n j q, s.jobs.findIdx? (fun j => j.wg == E.w && j.kind == .copy 3 (copiesOf E.G 3)) = some n ∧ s.jobs[n]? = some j
      ∧ j.slices.head? = some q ∧ sliceShape (copyD q.d) = sliceShape (copyD (descRegs E.G 8)) :=
  ⟨sready_of (by decide +kernel), 0, _, _, rfl, rfl, rfl, rfl⟩

theorem wit_EngineWordsIssue_gather : let s := mk engines
    let E := env s
    let ds := descRegs E.G 12
    slotFree s E.W.coreNo = true ∧ CounterOk s E (ds.getD 3 0) { adds := true, clu := false, onlyClu := false } (.scratch 0)
    ∧ ∃ b, slotOf s E.La (gatherD ds).slot = .bound b ∧ gatherBad ds = false ∧ (gatherD ds).mode = 0
        ∧ (gatherD ds).off + (gatherD ds).n ≤ b.t.desc.width ∧ ∀ r ∈ gatherScratch (gatherD ds) b.t, r.2 ≤ E.W.size :=
  ⟨by decide +kernel, ⟨by decide +kernel, .inl ⟨by decide +kernel, by decide +kernel, by decide +kernel, rfl⟩⟩,
    bnd (mk grp) 0 0 false, rfl, by decide +kernel, by decide +kernel, by decide +kernel, by decide +kernel⟩

/-- All of table 1, and a table counter at its last doubleword. -/
theorem wit_EngineWordsIssue_bload : let s := mk engines
    let E := env s
    let ds := descRegs E.G 16
    CounterOk s E (ds.getD 3 0) { adds := true, clu := false, onlyClu := false } (.table 0 0 1016)
    ∧ ∃ b, slotOf s E.La (bloadD ds).slot = .bound b ∧ bloadBad ds = false ∧ b.t.desc.isArray = true
        ∧ (bloadD ds).tofs + (bloadD ds).lines * 1024 ≤ b.t.desc.rows * b.t.desc.width :=
  ⟨⟨by decide +kernel, .inr ⟨by decide +kernel, bnd (mk grp) 0 0 false, rfl, by decide +kernel, by decide +kernel, by decide +kernel,
      by decide +kernel, rfl⟩⟩, bnd (mk grp) 0 0 false, rfl, by decide +kernel, by decide +kernel, by decide +kernel⟩

/-- No reduction is in flight, and the record is empty. -/
theorem fence_clear (G : Group) (h : G.T.elems = []) : FenceClear (mk G) (env (mk G)) := ⟨(fun _ hr => nomatch hr), .inr h⟩

/-- A write of a granule is on its way. -/
def onWay (s : State) (sp : LateSpace) (u : Nat) : State :=
  { s with late := [{ space := sp, unit := u, id := 0, old := [], known := [] }], ctl := { s.ctl with writes := 1 } }

/-- Counter 8 holds 7: targets 7 and 8. -/
theorem wit_CounterWait : let s := mk { grp with S := { grp.S with s := [0, 8, 7, 8] ++ List.replicate 60 0 } }
    let E := env s
    SReady s E ∧ FenceClear s E ∧ CounterOk s E (E.G.rS 1) { adds := false, clu := true, onlyClu := false } (.scratch 8)
    ∧ CounterReads s E (.scratch 8) ∧ CounterReads s E (.table 0 0 1016)
    ∧ (counterValue s E.w (.scratch 8) - E.G.rS 2).toNat < 2 ^ 63 ∧ 2 ^ 63 ≤ (counterValue s E.w (.scratch 8) - E.G.rS 3).toNat
    ∧ scopeCode .grp = locScope (E.G.rS 1) ∧ scopeCode .wg ≠ locScope (E.G.rS 1) ∧ (scopeCode .clu).toNat = 2
    ∧ LastWrite (onWay s (.scratch 0) 1) E (.scratch 8) 0 ∧ LastWrite (onWay s (.rows 0) 127) E (.table 0 0 1016) 0 :=
  ⟨sready_of (by decide +kernel), fence_clear _ rfl,
    ⟨by decide +kernel, .inl ⟨by decide +kernel, by decide +kernel, by decide +kernel, rfl⟩⟩, trivial,
    fun t ht => by cases ht; exact ⟨rows_open rfl rfl rfl (by decide), no_bad rfl⟩,
    by decide +kernel, by decide +kernel, by decide +kernel, by decide +kernel, by decide,
    ⟨[], _, [], rfl, rfl, rfl, rfl, by decide, fun _ h => nomatch h⟩, [], _, [], rfl, rfl, rfl, rfl, by decide, fun _ h => nomatch h⟩

/-- A group that stands at a word, with a stall. -/
def standing (x : SWord) (w : Stall) (G : Group) : State :=
  let s := mk { G with S := { G.S with pc := 0, stall := w } }
  { s with drv := { s.drv with kernels := [{ kern with scode := [x, 0, 0, 0] }] } }

/-- A target that has been reached, and one that has not. -/
theorem wit_CounterWait_wake : ∃ x, encodeS (.cwait 1 2 .acq .wg) = some x ∧
    let u := standing x (.cwait 8 7) grp
    let v := standing x (.cwait 8 8) grp
    (∃ E, envAt u 0 0 = some E ∧ E.issues = true ∧ E.G.S.stall = .cwait 8 7 ∧ E.G.T.elems = []
      ∧ decodeS (E.K.scode.getD E.G.S.pc.toNat 0) = .ok (.cwait 1 2 .acq .wg)
      ∧ CounterOk u E 8 { adds := false, clu := true, onlyClu := false } (.scratch 8)
      ∧ (counterValue u E.w (.scratch 8) - 7).toNat < 2 ^ 63)
    ∧ ∃ E, envAt v 0 0 = some E ∧ E.issues = true ∧ E.G.S.stall = .cwait 8 8
      ∧ CounterOk v E 8 { adds := false, clu := true, onlyClu := false } (.scratch 8)
      ∧ 2 ^ 63 ≤ (counterValue v E.w (.scratch 8) - 8).toNat :=
  ⟨_, rfl, ⟨_, rfl, rfl, rfl, rfl, rfl,
      ⟨by decide +kernel, .inl ⟨by decide +kernel, by decide +kernel, by decide +kernel, rfl⟩⟩, by decide +kernel⟩,
    _, rfl, rfl, rfl, ⟨by decide +kernel, .inl ⟨by decide +kernel, by decide +kernel, by decide +kernel, rfl⟩⟩, by decide +kernel⟩

/-- A job of a group that has started, and the same job complete. -/
def moving (st : JobState) : Job := { formed (.copy 3 0) [0, 0, 0, 8] (.scratch 8) with state := st }

/-- Nothing to wait for; a started job; a fence that has waited for a job which is complete. -/
theorem wit_FenceCompletes : (SReady (mk grp) (env (mk grp)) ∧ FenceClear (mk grp) (env (mk grp)) ∧ (mk grp).jobs = []
      ∧ (env (mk grp)).G.S.stall = .none)
    ∧ (let s := withJobs (mk grp) [moving .started]
       SReady s (env s) ∧ FenceClear s (env s) ∧ ∃ j ∈ s.jobs, j.wg = (env s).w ∧ j.state = .started ∧ ∃ q ∈ j.slices, q.group = (env s).g)
    ∧ let s := withJobs (mk { grp with S := { grp.S with stall := .release [0] } }) [moving .complete]
      SReady s (env s) ∧ (env s).G.S.stall = .release [0] ∧ ∀ n ∈ [0], ∀ j, s.jobs[n]? = some j → j.state = .complete := by
  refine ⟨⟨sready_of (by decide +kernel), fence_clear _ rfl, rfl, rfl⟩,
    ⟨sready_of (by decide +kernel), ⟨(fun _ hr => nomatch hr), .inr rfl⟩, _, List.mem_cons_self, rfl, rfl, _, List.mem_cons_self, rfl⟩,
    sready_of (by decide +kernel), rfl, ?_⟩
  intro n hn
  cases List.mem_singleton.mp hn
  exact fun j h => by cases h; rfl

/-- The module with three groups in the workgroup; the second has arrived at barrier 0, or not. -/
def three (arrived leaving : List Nat) (w : Stall) (G3 : Group) : State :=
  let s := mk grp
  let G := { grp with S := { grp.S with stall := w } }
  { s with wgs := s.wgs.map fun W => { W with groups := [G, grp, G3]
                                              bars := { arrived := arrived, leaving := leaving } :: W.bars.drop 1 } }

theorem wit_BarrierCompletes_last : let s := three [1, 2] [] .none grp
    let E := env s
    SReady s E ∧ FenceClear s E ∧ E.G.lanesDone = true ∧ (0 : Nat) < E.W.bars.length ∧ (E.W.bar 0).leaving = []
    ∧ E.g ∉ (E.W.bar 0).arrived ∧ (∀ h ∈ E.W.liveGroups, h ≠ E.g → h ∈ (E.W.bar 0).arrived) :=
  ⟨sready_of (by decide +kernel), ⟨(fun _ hr => nomatch hr), .inr rfl⟩, by decide +kernel, by decide +kernel, by decide +kernel, by decide +kernel,
    by decide +kernel⟩

theorem wit_BarrierCompletes_first : let s := three [1] [] .none grp
    let E := env s
    SReady s E ∧ FenceClear s E ∧ E.G.lanesDone = true ∧ (E.W.bar 0).leaving = [] ∧ E.g ∉ (E.W.bar 0).arrived
    ∧ 2 ∈ E.W.liveGroups ∧ 2 ≠ E.g ∧ 2 ∉ (E.W.bar 0).arrived ∧ ∀ b ∈ E.W.bars, 2 ∉ b.arrived :=
  ⟨sready_of (by decide +kernel), ⟨(fun _ hr => nomatch hr), .inr rfl⟩, by decide +kernel, by decide +kernel, by decide +kernel, by decide +kernel,
    by decide +kernel, by decide +kernel, by decide +kernel⟩

/-- The other groups have arrived at barrier 1. -/
theorem wit_BarrierCompletes_mismatch : let s0 := three [] [] .none grp
    let s : State := { s0 with wgs := s0.wgs.map fun W => { W with bars := W.bars.set 1 { arrived := [1, 2], leaving := [] } } }
    let E := env s
    SReady s E ∧ FenceClear s E ∧ E.G.lanesDone = true ∧ (0 : Nat) < E.W.bars.length ∧ (E.W.bar 0).leaving = [] ∧ E.g ∉ (E.W.bar 0).arrived
    ∧ 1 ∈ E.W.liveGroups ∧ 1 ≠ E.g ∧ 1 ∉ (E.W.bar 0).arrived ∧ ∀ k ∈ E.W.liveGroups, k ≠ E.g → ∃ b ∈ E.W.bars, k ∈ b.arrived :=
  ⟨sready_of (by decide +kernel), ⟨(fun _ hr => nomatch hr), .inr rfl⟩, by decide +kernel, by decide +kernel, by decide +kernel, by decide +kernel,
    by decide +kernel, by decide +kernel, by decide +kernel, by decide +kernel⟩

theorem wit_BarrierCompletes_depart : ∃ E, envAt (three [] [0, 2] (.bar 0) grp) 0 0 = some E ∧ E.issues = true ∧ E.G.S.stall = .bar 0
    ∧ 0 ∈ (E.W.bar 0).leaving := ⟨_, rfl, rfl, rfl, by decide +kernel⟩

/-! ### Traps, CSRs, and the words of SYS -/

/-- The group in its handler. -/
def handling : Group := { grp with T := { grp.T with handler := true } }

/-- The CSRs at the ends of the map's ranges, by user mode and in a handler; reserved bits clear, and one set: of TRAPBASE, and of frame
doubleword 7. -/
theorem wit_CsrAccess : let s := mk { handling with S := { grp.S with s := [0, 8, 0x4000000] ++ List.replicate 61 0 } }
    let E := env s
    SReady (mk grp) (env (mk grp)) ∧ (env (mk grp)).G.T.handler = false ∧ SReady s E ∧ E.G.T.handler = true
    ∧ (∀ n ∈ [0, 5, 8, 11, 0x400, 0x53C], n ≤ 5 ∨ (8 ≤ n ∧ n ≤ 11) ∨ (0x400 ≤ n ∧ n ≤ 0x53C))
    ∧ (∀ n ∈ [8, 11, 0x401, 0x53C], (8 ≤ n ∧ n ≤ 11) ∨ (0x401 ≤ n ∧ n ≤ 0x53C)) ∧ (E.G.rS 1).toNat < 2 ^ 26 ∧ ¬ (E.G.rS 2).toNat < 2 ^ 26
    ∧ frameRsv 1 = [] ∧ (63, 0) ∈ frameRsv 7 ∧ (E.G.rS 1).getLsbD 3 = true ∧ (63, 59) ∈ frameRsv 314 :=
  ⟨sready_of (by decide +kernel), rfl, sready_of (by decide +kernel), rfl, by decide, by decide, by decide +kernel, by decide +kernel, rfl,
    by decide, by decide +kernel, by decide⟩

theorem open_of (G : Group) (h : G.T.handler = false) (ht : G.T.trapbase ≠ 0) (hf : G.inFlight = false) : TrapOpen (env (mk G)) :=
  ⟨h, ht, hf⟩

theorem wit_TakingATrap : let E := env (mk grp)
    envAt (mk grp) 0 0 = some E ∧ TrapOpen E ∧ (∀ u, E.G.S.stall ≠ .sleep u) ∧ E.G.S.stall ≠ .kswap :=
  ⟨rfl, open_of grp rfl (by decide +kernel) (by decide +kernel), fun _ => Stall.noConfusion, Stall.noConfusion⟩

theorem wit_TakingATrap_double : (∃ E, envAt (mk handling) 0 0 = some E ∧ E.G.inFlight = false ∧ E.G.T.handler = true)
    ∧ ∃ E, envAt (mk { grp with T := { grp.T with trapbase := 0 } }) 0 0 = some E ∧ E.G.inFlight = false ∧ E.G.T.handler = false
        ∧ E.G.T.trapbase = 0 := ⟨⟨_, rfl, rfl, rfl⟩, _, rfl, rfl, rfl, rfl⟩

/-- The group in its handler with a frame of a block: its entries are those of a list, at word 9. -/
def framed (es : List (Nat × LMask)) : Group :=
  let dws := (es.mapIdx fun e p => (20 + 6 * e, (0#2 ++ BitVec.ofNat 4 p.1 ++ 9#26 ++ p.2 : W64)))
  let f := dws.foldl (fun f p => f.set p.1 p.2) (grp.T.frame.set 6 (1#64 <<< 46))
  { handling with T := { handling.T with frame := f } }

/-- A frame of zeros is in order. -/
theorem fine_of {G : Group} (h1 : (List.range 8).all (fun e => decide (frameState G.T.frame e ≤ 5) &&
      (decide (frameState G.T.frame e = 0) == decide (frameMask G.T.frame e = 0))) = true)
    (h2 : ((List.range 8).map (frameMask G.T.frame) ++ G.T.saved.ovf.map (·.mask)).Pairwise fun a b => a &&& b = 0)
    (h3 : ((List.range 8).map (frameMask G.T.frame) ++ G.T.saved.ovf.map (·.mask)).all (fun m => m &&& ~~~ G.L.alive == 0) = true)
    (h4 : bitsOf (G.T.frame.getD 6 0) 24 19 ≤ 32 ∧ bitsOf (G.T.frame.getD 6 0) 29 25 ≤ 16 ∧ bitsOf (G.T.frame.getD 6 0) 33 30 ≤ 8
      ∧ bitsOf (G.T.frame.getD 6 0) 18 16 ≤ 4)
    (h5 : (G.T.frame.getD 1 0).extractLsb' 32 32 &&& ~~~ (G.T.frame.getD 1 0).extractLsb' 0 32 = 0)
    (h6 : bitsOf (G.T.frame.getD 124 0) 6 0 ≤ 64) : FrameFine G := by
  refine ⟨fun e he => ?_, h2, fun m hm => ?_, h4, h5, h6⟩
  · have h := List.all_eq_true.mp h1 e (List.mem_range.mpr he)
    simp only [Bool.and_eq_true, decide_eq_true_eq, beq_iff_eq, decide_eq_decide] at h
    exact h
  · exact beq_iff_eq.mp (List.all_eq_true.mp h3 m hm)

/-- Outside the handler; a frame in order without a block, with a ready split, with two parked ones, and before the implied LWAIT; one
with a mask in a free entry. -/
theorem wit_ReturnFromTrap : let E := env (mk handling)
    (SReady (mk handling) E ∧ E.G.T.handler = true ∧ FrameFine E.G ∧ ¬ LanesBusy E.G ∧ (E.G.T.frame.getD 6 0).getLsbD 46 = false
      ∧ SReady (mk grp) (env (mk grp)) ∧ (env (mk grp)).G.T.handler = false)
    ∧ (let G := { handling with S := { handling.S with dq := [0] } }
       SReady (mk G) (env (mk G)) ∧ FrameFine (env (mk G)).G ∧ LanesBusy (env (mk G)).G)
    ∧ (let G := framed [(1, 3), (4, 4)]
       SReady (mk G) (env (mk G)) ∧ FrameFine (env (mk G)).G ∧ ¬ LanesBusy (env (mk G)).G ∧ ((env (mk G)).G.T.frame.getD 6 0).getLsbD 46 = true
       ∧ frameMask (env (mk G)).G.T.frame 1 ≠ 0 ∧ frameState (env (mk G)).G.T.frame 1 = 4)
    ∧ (let G := framed [(2, 3), (3, 4)]
       SReady (mk G) (env (mk G)) ∧ FrameFine (env (mk G)).G ∧ (env (mk G)).G.T.saved.ovf = [] ∧ (env (mk G)).G.T.trapbase ≠ 0
       ∧ (∀ e, e < 8 → frameMask (env (mk G)).G.T.frame e ≠ 0 → frameState (env (mk G)).G.T.frame e = 2 ∨ frameState (env (mk G)).G.T.frame e = 3)
       ∧ frameMask (env (mk G)).G.T.frame 0 ≠ 0 ∧ frameMask (env (mk G)).G.T.frame 1 ≠ 0)
    ∧ (let G := framed [(0, 3)]
       SReady (mk G) (env (mk G)) ∧ (env (mk G)).G.T.handler = true ∧ (env (mk G)).G.S.stall ≠ .implied ∧ ¬ FrameFine (env (mk G)).G) := by
  have idle : ∀ es, ¬ LanesBusy (env (mk (framed es))).G := fun _ h => h.elim (fun h => nomatch h) (fun h => h rfl)
  refine ⟨⟨sready_of (by decide +kernel), rfl, ?_, ?_, by decide +kernel, sready_of (by decide +kernel), rfl⟩,
    ⟨sready_of (by decide +kernel), ?_, .inr (by decide +kernel)⟩,
    ⟨sready_of (by decide +kernel), ?_, idle _, by decide +kernel, by decide +kernel, by decide +kernel⟩,
    ⟨sready_of (by decide +kernel), ?_, rfl, by decide +kernel, by decide +kernel, by decide +kernel, by decide +kernel⟩,
    sready_of (by decide +kernel), rfl, Stall.noConfusion, fun h => absurd ((h.states 0 (by decide)).2.mp (by decide +kernel)) (by decide +kernel)⟩
  · apply fine_of <;> decide +kernel
  · exact fun h => h.elim (fun h => nomatch h) (fun h => h rfl)
  · apply fine_of <;> decide +kernel
  · apply fine_of <;> decide +kernel
  · apply fine_of <;> decide +kernel

/-- BRK where DBGCTL.brk is set. -/
theorem wit_SystemWords : let s := { mk grp with drv := { (mk grp).drv with contexts := [{ ctxt with dbgctl := 9 }] } }
    SReady s (env s) ∧ (env s).C.dbgctl.getLsbD 3 = true ∧ (env (mk grp)).C.dbgctl.getLsbD 3 = false ∧ TrapOpen (env (mk grp))
    ∧ (env (mk grp)).C.ended = none ∧ (1 : BitVec 16) ≠ 0 ∧ (env (mk grp)).C.dbgctl.getLsbD 5 = false :=
  ⟨sready_of (by decide +kernel), by decide +kernel, by decide +kernel, open_of grp rfl (by decide +kernel) (by decide +kernel), rfl, by decide,
    by decide +kernel⟩

theorem wit_SystemWords_sleep : ∃ E, envAt (mk { grp with S := { grp.S with stall := .sleep 100 } }) 0 0 = some E ∧ E.issues = true
    ∧ E.G.S.stall = .sleep 100 ∧ 100 ≤ (mk grp).time.clk := ⟨_, rfl, rfl, rfl, by decide⟩

/-- The group whose split waits at a queue. -/
def peeking : Group :=
  let G := lgrp 1
  { G with L := { G.L with splits := G.L.splits.modify 0 fun p => { p with wait := .queue } } }

/-- A group at POPB with bq empty and nothing for its lanes to do; at LWAIT, with a split that peeks uq while it is empty; and one that
does not wait. -/
theorem wit_PendingTraps_deadlock : (∃ E x, encodeS (.popb 1) = some x ∧ envAt (standing x .queue grp) 0 0 = some E ∧ E.issues = true
      ∧ WaitsForL E ∧ StuckL E ∧ (∀ u, E.G.S.stall ≠ .sleep u) ∧ E.G.S.stall ≠ .kswap ∧ TrapOpen E)
    ∧ (∃ E x y, encodeS .lwait = some x ∧ encodeL (.mov { op with a := .uqPeek, b := .reg 0 }) = some y ∧
        let s := standing x .lwait peeking
        envAt { s with drv := { s.drv with kernels := [{ kern with scode := [x, 0, 0, 0], lcode := [y] }] } } 0 0 = some E
        ∧ E.issues = true ∧ WaitsForL E ∧ StuckL E)
    ∧ ∃ E, envAt (mk grp) 0 0 = some E ∧ E.issues = true ∧ ¬ (WaitsForL E ∧ StuckL E) := by
  refine ⟨⟨_, _, rfl, rfl, rfl, ⟨Stall.noConfusion, _, _, rfl, rfl, .inl ⟨⟨_, rfl⟩, rfl⟩⟩, .inl ?_, fun _ => Stall.noConfusion,
      Stall.noConfusion, rfl, by decide +kernel, rfl⟩,
    ⟨_, _, _, rfl, rfl, rfl, rfl, ⟨Stall.noConfusion, _, _, rfl, rfl, .inr (.inr (.inr (.inl ⟨rfl, .inl rfl⟩)))⟩, .inr ⟨rfl, rfl, ?_, 0, by decide,
      by decide +kernel, ?_⟩⟩, _, rfl, rfl, fun h => h.1.1 rfl⟩
  · exact fun h => h.elim (fun h => nomatch h) (fun h => h rfl)
  · intro e he hm
    have he' : e = 0 := by
      revert hm
      exact (by decide +kernel : ∀ e, e < 8 → (peeking.split e).mask ≠ 0 → e = 0) e he
    subst he'
    exact .inr (.inr ⟨rfl, rfl, _, _, _, _, rfl, rfl, rfl, .inl ⟨⟨_, .inl rfl, .inr rfl⟩, rfl⟩⟩)
  · exact ⟨rfl, rfl, _, _, _, _, rfl, rfl, rfl, .inl ⟨⟨_, .inl rfl, .inr rfl⟩, rfl⟩⟩

theorem wit_PendingTraps_timer :
    (∃ E, envAt (mk { grp with T := { grp.T with timer := 77 } }) 0 0 = some E ∧ E.issues = true ∧ E.G.T.timer ≠ 0
      ∧ E.G.T.timer.toNat ≤ (mk grp).time.clock.toNat)
    ∧ ∃ E, envAt (mk { grp with T := { grp.T with pending := some (.timer 77) } }) 0 0 = some E ∧ E.issues = true
      ∧ E.G.T.pending = some (.timer 77) ∧ TrapOpen E ∧ (∀ p ∈ E.G.L.splits, p.wait.trapDue = false) ∧ (∀ u, E.G.S.stall ≠ .sleep u) ∧ E.G.S.stall ≠ .kswap :=
  ⟨⟨_, rfl, rfl, by decide +kernel, by decide +kernel⟩,
    _, rfl, rfl, rfl, ⟨rfl, by decide +kernel, rfl⟩, by decide +kernel, fun _ => Stall.noConfusion, Stall.noConfusion⟩

/-- The module with n tasks queued on core 0. -/
def tasked (n : Nat) : State :=
  (mk { grp with S := { grp.S with s := [0, 3, 4] ++ List.replicate 61 0 } }).setCore 0
    { Core.reset with tasks := List.replicate n { entry := 0, arg := 0, launch := 1, idx := [] } }

/-- Entries 3 and 4 of a section of four words; 63 and 64 tasks queued. -/
theorem wit_TasksAndExit_spawn : let s := tasked 63
    let u := tasked 64
    SReady s (env s) ∧ SReady u (env u) ∧ ((env s).G.rS 1).extractLsb' 0 26 = 3 ∧ (3 : BitVec 26).toNat < (env s).K.header.ssize
    ∧ (env s).K.header.ssize ≤ (((env s).G.rS 2).extractLsb' 0 26).toNat ∧ (s.core (env s).W.coreNo).tasks.length < 64
    ∧ 64 ≤ (u.core (env u).W.coreNo).tasks.length :=
  ⟨sready_of (by decide +kernel), sready_of (by decide +kernel), by decide +kernel, by decide +kernel, by decide +kernel, by decide +kernel,
    by decide +kernel⟩

theorem wit_TasksAndExit_exit : SReady (mk grp) (env (mk grp)) ∧ (env (mk grp)).G.lanesDone = true ∧ FenceClear (mk grp) (env (mk grp)) :=
  ⟨sready_of (by decide +kernel), by decide +kernel, fence_clear _ rfl⟩

/-! ### The lane stream -/

/-- No source, no destination, type none. -/
def bare : LOp := plain .none 0 (.reg 0) (.reg 0)

theorem wit_ResultWordsComplete : LReady (mk (lgrp 1)) (.lAdd op) (word (mk (lgrp 1)) (.lAdd op))
    ∧ resultOp (word (mk (lgrp 1)) (.lAdd op)).op.toNat = true ∧ enables (word (mk (lgrp 1)) (.lAdd op)).G.L.md = 0
    ∧ inMask (word (mk (lgrp 1)) (.lAdd op)).act 0 = true ∧ inMask (word (mk (lgrp 1)) (.lAdd op)).act 1 = false :=
  ⟨lready_of (by decide +kernel), by decide +kernel, by decide +kernel, by decide +kernel, by decide +kernel⟩

theorem wit_LaneIntegerResults : (∃ f, intElem (word (mk (lgrp 1)) (.lAdd op)).op.toNat .i32 = some f) ∧ op.nw = false
    ∧ (word (mk (lgrp 1)) (.lAdd op)).o.vd.toNat < ((word (mk (lgrp 1)) (.lAdd op)).G.lane 0).regs.length ∧ 1 < tyCount .i32
    ∧ LReady (mk (lgrp 1)) (.mov { op with ty := .n64, b := .reg 0 }) (word (mk (lgrp 1)) (.mov { op with ty := .n64, b := .reg 0 }))
    ∧ (word (mk (lgrp 1)) (.mov { op with ty := .n64, b := .reg 0 })).op ∈ [0x0C, 0x0D, 0x0E, 0x0F, 0x18, 0x1A] :=
  ⟨⟨_, rfl⟩, rfl, by decide +kernel, by decide, lready_of (by decide +kernel), by decide +kernel⟩

/-- 1.5 and 2.25 as f32. -/
def halves : Group :=
  let G := lgrp 1
  { G with lanes := G.lanes.map fun L => { L with regs := [0, 0, 0x3FC00000, 0x40100000] ++ List.replicate 12 0 } }

theorem wit_LaneFloatResults : let x := word (mk halves) (.fadd { op with ty := .f32 })
    LReady (mk halves) (.fadd { op with ty := .f32 }) x ∧ (∃ f, floatElem x.op.toNat = some f) ∧ x.o.ty = .f32 ∧ x.o.nw = false
    ∧ enables x.G.L.md = 0 ∧ x.md = modePlain ∧ inMask x.act 0 = true ∧ 0 < x.G.lanes.length
    ∧ x.o.vd.toNat < (x.G.lane 0).regs.length ∧ 0 < tyCount .f32
    ∧ readF (fmtOf .f32) (subElem 32 (x.a .f32 0) 0) = .fin { neg := false, m := 0xC00000, e := -23 }
    ∧ readF (fmtOf .f32) (subElem 32 (x.b .f32 0) 0) = .fin { neg := false, m := 0x900000, e := -22 }
    ∧ readF (fmtOf .f32) (fmtOf .f32).maxMag = .fin { neg := false, m := 0xFFFFFF, e := 104 } :=
  ⟨lready_of (by decide +kernel), ⟨_, rfl⟩, rfl, rfl, by decide +kernel, by decide +kernel, by decide +kernel, by decide +kernel,
   by decide +kernel, by decide, by decide +kernel, by decide +kernel, by decide +kernel⟩

/-- R117: their sum 3.75 lies in the finite range. -/
theorem wit_LaneFloatResults_range :
    let p : Ex := { neg := false, m := 0xC00000, e := -23 }
    let q : Ex := { neg := false, m := 0x900000, e := -22 }
    let top : Ex := { neg := false, m := 0xFFFFFF, e := 104 }
    ratOf p + ratOf q ≤ ratOf top ∧ -ratOf top ≤ ratOf p + ratOf q := by decide +kernel

/-- Infinity less infinity, with and without the trap of the invalid flag. -/
def minusInf (m : BitVec 16) : Group :=
  let G := lgrp 1
  { G with lanes := G.lanes.map fun L => { L with regs := [0, 0, 0x7F800000, 0xFF800000] ++ List.replicate 12 0 }
           L := { G.L with md := m } }

/-- The flags that a word raises in group 0 where no trap is enabled. -/
def raised (s : State) (i : Instr) : BitVec 5 :=
  match exec i (quiet s 0 0) with
  | .next t => match t.group? 0 0 with
    | some G => (List.range 32).foldl (fun f k => f ||| (G.lane k).flags) 0
    | none => 0
  | _ => 0

/-- The invalid flag arises: not enabled, and enabled with no lower one; of a word that raises none. -/
theorem wit_FlagTraps : let i : Instr := .fadd { op with ty := .f32 }
    let x := word (mk (minusInf 0)) i
    let y := word (mk (minusInf 0x1F0)) i
    LReady (mk (minusInf 0)) i x ∧ resultOp x.op.toNat = true ∧ (∀ k, inMask x.act k = true → k < x.G.lanes.length)
    ∧ raised (mk (minusInf 0)) i &&& enables x.G.L.md = 0 ∧ LReady (mk (minusInf 0x1F0)) i y
    ∧ (raised (mk (minusInf 0x1F0)) i &&& enables y.G.L.md).getLsbD 0 = true ∧ y.e < 8 ∧ (∀ p ∈ y.G.L.splits, p.wait.trapDue = false)
    ∧ (let j : Instr := .cmp { op with vd := 1 }
       let z := word (mk (lgrp 1)) j
       LReady (mk (lgrp 1)) j z ∧ predOp z.op.toNat = true ∧ consOver z = 0) :=
  ⟨lready_of (by decide +kernel), by decide +kernel, lanes_all (by decide +kernel), by decide +kernel, lready_of (by decide +kernel),
    by decide +kernel, by decide +kernel, by decide +kernel, lready_of (by decide +kernel), by decide +kernel, by decide +kernel⟩

theorem wit_PredicateWords : let i : Instr := .cmp { op with vd := 1 }
    let x := word (mk (lgrp 1)) i
    LReady (mk (lgrp 1)) i x ∧ predOp x.op.toNat = true ∧ enables x.G.L.md = 0 ∧ consOver x = 0 ∧ x.o.vd.extractLsb' 0 3 ≠ 7
    ∧ inMask x.act 0 = true ∧ 0 < x.G.lanes.length :=
  ⟨lready_of (by decide +kernel), by decide +kernel, by decide +kernel, by decide +kernel, by decide +kernel, by decide +kernel, by decide +kernel⟩

/-- The group under a guard that no lane passes: p0 is false. -/
def off (o : LOp) : LOp := { o with pg := 0 }

theorem wit_UniformAndModeWords :
    LReady (mk (lgrp 1)) (.nop bare) (word (mk (lgrp 1)) (.nop bare))
    ∧ LReady (mk (lgrp 1)) (.ball { bare with vd := 4, aux := 3 }) (word (mk (lgrp 1)) (.ball { bare with vd := 4, aux := 3 }))
    ∧ LReady (mk (lgrp 1)) (.movw { bare with vd := 4, a := .reg 2 }) (word (mk (lgrp 1)) (.movw { bare with vd := 4, a := .reg 2 }))
    ∧ LReady (mk (lgrp 1)) (.pushb { bare with a := .reg 2 }) (word (mk (lgrp 1)) (.pushb { bare with a := .reg 2 }))
    ∧ (word (mk (lgrp 1)) (.pushb { bare with a := .reg 2 })).G.S.bq.length < 16
    ∧ lowestLane (word (mk (lgrp 1)) (.pushb { bare with a := .reg 2 })).act = some 0
    ∧ LReady (mk (lgrp 1)) (.pushb (off { bare with a := .reg 2 })) (word (mk (lgrp 1)) (.pushb (off { bare with a := .reg 2 })))
    ∧ (word (mk (lgrp 1)) (.pushb (off { bare with a := .reg 2 }))).act = 0
    ∧ LReady (mk (lgrp 1)) (.movw (off { bare with vd := 4, a := .reg 2 })) (word (mk (lgrp 1)) (.movw (off { bare with vd := 4, a := .reg 2 })))
    ∧ LReady (mk (lgrp 1)) (.clfl { bare with a := .reg 2 }) (word (mk (lgrp 1)) (.clfl { bare with a := .reg 2 })) :=
  ⟨lready_of (by decide +kernel), lready_of (by decide +kernel), lready_of (by decide +kernel), lready_of (by decide +kernel), by decide +kernel,
    by decide +kernel, lready_of (by decide +kernel), by decide +kernel, lready_of (by decide +kernel), lready_of (by decide +kernel)⟩

/-- SETMD of a legal value, and of one with a reserved bit. -/
theorem wit_UniformAndModeWords_setmd : let i : Instr := .setmd { bare with a := .reg 4, b := .reg 4 }
    let j : Instr := .setmd { bare with a := .imm, b := .imm, imm := 0xFFFF }
    let x := word (mk (lgrp 1)) i
    let y := word (mk (lgrp 1)) j
    LReady (mk (lgrp 1)) i x ∧ lowestLane x.act = some 0 ∧ LReady (mk (lgrp 1)) j y ∧ lowestLane y.act = some 0
    ∧ mdValid ((x.G.L.md &&& ~~~ (x.b .n16 0).setWidth 16) ||| ((x.a .n16 0).setWidth 16 &&& (x.b .n16 0).setWidth 16)) = true
    ∧ mdValid ((y.G.L.md &&& ~~~ (y.b .n16 0).setWidth 16) ||| ((y.a .n16 0).setWidth 16 &&& (y.b .n16 0).setWidth 16)) = false :=
  ⟨lready_of (by decide +kernel), by decide +kernel, lready_of (by decide +kernel), by decide +kernel, by decide +kernel, by decide +kernel⟩

/-- The group with p1 true in lane 0 only; the split has the lanes of a mask. -/
def parted (m : LMask) : Group :=
  { lgrp m with lanes := (lgrp m).lanes.modify 0 fun L => { L with preds := 2 } }

/-- A split of lanes at a word. -/
def at_ (st : SplitState) (lpc : W64) (m : LMask) : Split := { Split.freeEntry with st := st, mask := m, lpc := lpc }

/-- The group with these splits in the entries after the first, and n in the overflow area. -/
def beside (ps : List Split) (n : Nat) : Group :=
  let G := parted 3
  let free : List Split := List.replicate (7 - ps.length) Split.freeEntry
  { G with L := { G.L with splits := G.split 0 :: (ps ++ free), ovf := List.replicate n (at_ .joinPark 9 4) } }

/-- The group where every entry of the split table is in use, with n splits in the overflow area. -/
def crowded (n : Nat) : Group := beside (List.replicate 7 (at_ .joinPark 9 4)) n

/-- Every lane, no lane, and one of two lanes of the split active. -/
theorem wit_LaneBranches : let i : Instr := .bra { bare with pg := 1, imm := 2 }
    let x := word (mk (parted 1)) i
    let y := word (mk (parted 2)) i
    let z := word (mk (parted 3)) i
    (x.G.L.splits.length = 8 ∧ LReady (mk (parted 1)) (.jmp bare) (word (mk (parted 1)) (.jmp bare)))
    ∧ (LReady (mk (parted 1)) i x ∧ x.p.mask &&& ~~~ x.act = 0) ∧ (LReady (mk (parted 2)) i y ∧ y.act = 0)
    ∧ (LReady (mk (parted 3)) i z ∧ z.act ≠ 0 ∧ z.p.mask &&& ~~~ z.act ≠ 0 ∧ (z.G.split 1).st = .free
      ∧ ∀ k, k < 1 → (z.G.split k).st ≠ .free) :=
  ⟨⟨by decide +kernel, lready_of (by decide +kernel)⟩, ⟨lready_of (by decide +kernel), by decide +kernel⟩,
    ⟨lready_of (by decide +kernel), by decide +kernel⟩,
    lready_of (by decide +kernel), by decide +kernel, by decide +kernel, by decide +kernel, by decide +kernel⟩

/-- Room for one more in the overflow area, and none. -/
theorem wit_LaneBranches_overflow : let i : Instr := .bra { bare with pg := 1, imm := 2 }
    let x := word (mk (crowded 55)) i
    let y := word (mk (crowded 56)) i
    (LReady (mk (crowded 55)) i x ∧ x.G.L.splits.length = 8 ∧ x.act ≠ 0 ∧ x.p.mask &&& ~~~ x.act ≠ 0
      ∧ (∀ k, k < 8 → (x.G.split k).st ≠ .free) ∧ x.G.L.ovf.length < 56)
    ∧ LReady (mk (crowded 56)) i y ∧ y.act ≠ 0 ∧ y.p.mask &&& ~~~ y.act ≠ 0 ∧ (∀ k, k < 8 → (y.G.split k).st ≠ .free)
      ∧ 56 ≤ y.G.L.ovf.length :=
  ⟨⟨lready_of (by decide +kernel), by decide +kernel, by decide +kernel, by decide +kernel, by decide +kernel, by decide +kernel⟩,
    lready_of (by decide +kernel), by decide +kernel, by decide +kernel, by decide +kernel, by decide +kernel⟩

/-- The group with a second split, of lane 1, ready at word 1. -/
def forked : Group :=
  let G := lgrp 1
  { G with L := { G.L with splits := G.split 0 :: { Split.freeEntry with st := .ready, mask := 2, lpc := 1 } :: List.replicate 6 Split.freeEntry } }

/-- No split is parked in a state. -/
theorem none_there {x : Word} {st : SplitState} (h : ∀ k, k < 8 → k ≠ x.e → (x.G.split k).st ≠ st ∨ (x.G.split k).lpc ≠ x.p.lpc + 1) :
    NoneThere x st := by
  rintro k ⟨h1, h2, h3, h4⟩
  exact (h k h1 h2).elim (fun h => h h3) fun h => h h4

theorem wit_JoinsAndEnds : let s := mk (parted 3)
    let x := word s (.joinAll bare)
    x.G.L.splits.length = 8 ∧ x.e < 8 ∧ (∀ e, e < 8 → e ≠ x.e → (x.G.split e).mask = 0 ∧ (x.G.split e).st = .free) ∧ x.G.L.ovf = []
    ∧ LReady s (.joinAll bare) x ∧ LReady s (.joinAny { bare with var := 1 }) (word s (.joinAny { bare with var := 1 }))
    ∧ LReady s (.lend bare) (word s (.lend bare))
    ∧ (LReady s (.exitl bare) (word s (.exitl bare)) ∧ (word s (.exitl bare)).act = (word s (.exitl bare)).p.mask)
    ∧ (LReady s (.exitl { bare with pg := 1 }) (word s (.exitl { bare with pg := 1 }))
        ∧ (word s (.exitl { bare with pg := 1 })).p.mask &&& ~~~ (word s (.exitl { bare with pg := 1 })).act ≠ 0
        ∧ (word s (.exitl { bare with pg := 1 })).act ≠ 0) :=
  ⟨by decide +kernel, by decide +kernel, by decide +kernel, by decide +kernel, lready_of (by decide +kernel), lready_of (by decide +kernel),
    lready_of (by decide +kernel), ⟨lready_of (by decide +kernel), by decide +kernel⟩, lready_of (by decide +kernel), by decide +kernel,
    by decide +kernel⟩

theorem wit_JoinsAndEnds_park : let s := mk forked
    let x := word s (.joinAll bare)
    x.G.L.splits.length = 8 ∧ 1 ≠ x.e ∧ x.G.L.ovf = [] ∧ (x.G.split 1).mask ≠ 0 ∧ (x.G.split 1).st = .ready
    ∧ (∀ k, k < 8 → (x.G.split k).st ≠ .joinPark ∧ (x.G.split k).st ≠ .endPark) ∧ LReady s (.joinAll bare) x
    ∧ LReady s (.lend bare) (word s (.lend bare)) ∧ NoneThere x .joinPark ∧ NoneThere (word s (.lend bare)) .endPark :=
  ⟨by decide +kernel, by decide +kernel, by decide +kernel, by decide +kernel, by decide +kernel, by decide +kernel, lready_of (by decide +kernel),
    lready_of (by decide +kernel), none_there (by decide +kernel), none_there (by decide +kernel)⟩

/-- A sibling in entry 1 that is parked where the word would park, alone and beside a ready one. -/
theorem wit_JoinsAndEnds_merge : ∀ q ∈ [(Instr.joinAll bare, SplitState.joinPark), (.lend bare, .endPark)],
    let s := mk (beside [at_ q.2 1 4] 0)
    let u := mk (beside [at_ q.2 1 4, at_ .ready 5 8] 0)
    let x := word s q.1
    let y := word u q.1
    (LReady s q.1 x ∧ ParkedThere x q.2 1 ∧ x.G.L.ovf = [] ∧ x.e = 0
      ∧ ∀ k, k < 8 → k ≠ 0 → k ≠ 1 → (x.G.split k).mask = 0 ∧ (x.G.split k).st = .free)
    ∧ LReady u q.1 y ∧ ParkedThere y q.2 1 ∧ y.e = 0 ∧ (y.G.split 2).mask ≠ 0 ∧ ¬ Parked y.G 2 := by
  intro q hq
  have parked : ∀ x : Word, x.e = 0 → (x.G.split 1).st = q.2 → (x.G.split 1).lpc = x.p.lpc + 1 → ParkedThere x q.2 1 :=
    fun x he h1 h2 => ⟨⟨by decide, by rw [he]; decide, h1, h2⟩, fun k hk h => h.2.1 (by rw [he]; omega)⟩
  have hq' : q = (Instr.joinAll bare, SplitState.joinPark) ∨ q = (Instr.lend bare, SplitState.endPark) := by
    rcases List.mem_cons.mp hq with h | h
    · exact .inl h
    · exact .inr (List.mem_singleton.mp h)
  rcases hq' with h | h <;> subst h <;>
    exact ⟨⟨lready_of (by decide +kernel), parked _ (by decide +kernel) (by decide +kernel) (by decide +kernel), by decide +kernel, by decide +kernel,
        by decide +kernel⟩, lready_of (by decide +kernel), parked _ (by decide +kernel) (by decide +kernel) (by decide +kernel), by decide +kernel,
      by decide +kernel, fun h => h.elim (by decide +kernel) (by decide +kernel)⟩

/-- Siblings that are parked elsewhere: one, and a full table with one more in the overflow area. -/
theorem wit_JoinsAndEnds_traps : let s := mk (beside [at_ .endPark 9 4] 0)
    let u := mk (crowded 1)
    let x := word s (.joinAll bare)
    let y := word u (.lend bare)
    (LReady s (.joinAll bare) x ∧ NoneThere x .joinPark ∧ TrapOpen x.E ∧ (∀ k, k < 8 → (x.G.split k).stamp ≤ x.G.S.stamp) ∧ x.G.L.ovf = []
      ∧ (∃ k, k < 8 ∧ k ≠ x.e ∧ (x.G.split k).mask ≠ 0) ∧ ∀ k, k < 8 → k ≠ x.e → (x.G.split k).mask ≠ 0 → Parked x.G k)
    ∧ LReady u (.lend bare) y ∧ NoneThere y .endPark ∧ TrapOpen y.E ∧ (∀ k, k < 8 → (y.G.split k).stamp ≤ y.G.S.stamp) ∧ y.G.L.ovf ≠ []
      ∧ ∀ k, k < 8 → k ≠ y.e → Parked y.G k := by
  refine ⟨⟨lready_of (by decide +kernel), none_there (by decide +kernel), ⟨by decide +kernel, by decide +kernel, by decide +kernel⟩, by decide +kernel,
      by decide +kernel, ⟨1, by decide +kernel⟩, ?_⟩, lready_of (by decide +kernel), none_there (by decide +kernel),
    ⟨by decide +kernel, by decide +kernel, by decide +kernel⟩, by decide +kernel, by decide +kernel, ?_⟩
  · intro k hk h1 h2
    exact .inr ((by decide +kernel : ∀ k, k < 8 → k ≠ (word (mk (beside [at_ .endPark 9 4] 0)) (.joinAll bare)).e →
      ((word (mk (beside [at_ .endPark 9 4] 0)) (.joinAll bare)).G.split k).mask ≠ 0 →
      ((word (mk (beside [at_ .endPark 9 4] 0)) (.joinAll bare)).G.split k).st = .endPark) k hk h1 h2)
  · intro k hk h1
    exact .inl ((by decide +kernel : ∀ k, k < 8 → k ≠ (word (mk (crowded 1)) (.lend bare)).e →
      ((word (mk (crowded 1)) (.lend bare)).G.split k).st = .joinPark) k hk h1)

/-- JOIN_ANY with a sibling at its word; EXITL of a whole split beside a parked one; EXITL of no lane. -/
theorem wit_JoinsAndEnds_any : let s := mk (beside [at_ .ready 0 4] 0)
    let i : Instr := .joinAny { bare with var := 1 }
    let u := mk (beside [at_ .joinPark 9 4] 0)
    let x := word s i
    let y := word u (.exitl bare)
    let z := word u (.exitl (off bare))
    (LReady s i x ∧ x.e = 0 ∧ JoinsHere x 0 ∧ JoinsHere x 1 ∧ ¬ JoinsHere x 2)
    ∧ (LReady u (.exitl bare) y ∧ y.e = 0 ∧ y.G.L.ovf = [] ∧ (∀ k, k < 8 → k ≠ 0 → k ≠ 1 → (y.G.split k).mask = 0 ∧ (y.G.split k).st = .free)
      ∧ (y.G.split 1).mask ≠ 0 ∧ (y.G.split 1).st = .joinPark ∧ y.act = y.p.mask)
    ∧ LReady u (.exitl (off bare)) z ∧ z.act = 0 :=
  ⟨⟨lready_of (by decide +kernel), by decide +kernel, .inl (by decide +kernel), .inr (by decide +kernel),
      fun h => h.elim (by decide +kernel) fun h => absurd h.1 (by decide +kernel)⟩,
    ⟨lready_of (by decide +kernel), by decide +kernel, by decide +kernel, by decide +kernel, by decide +kernel, by decide +kernel, by decide +kernel⟩,
    lready_of (by decide +kernel), by decide +kernel⟩

/-- The group whose split has yielded, to the entries of a mask; entry 1 holds another. -/
def yielded (m : BitVec 8) : Group :=
  { lgrp 1 with L := { (lgrp 1).L with splits := [{ (lgrp 1).split 0 with st := .yielded, yield := m }, at_ .ready 0 2] } }

/-- The group with a split in its overflow area. -/
def spilled : Group := { lgrp 1 with L := { (lgrp 1).L with ovf := [{ Split.freeEntry with st := .joinPark, mask := 2, lpc := 7 }] } }

theorem wit_YieldAndReload :
    (LReady (mk (lgrp 1)) (.yld bare) (word (mk (lgrp 1)) (.yld bare))
      ∧ ∀ k, k < 8 → ¬ Sibling (word (mk (lgrp 1)) (.yld bare)) k)
    ∧ (LReady (mk forked) (.yld bare) (word (mk forked) (.yld bare))
      ∧ Sibling (word (mk forked) (.yld bare)) 1
      ∧ (word (mk forked) (.yld bare)).e < (word (mk forked) (.yld bare)).G.L.splits.length)
    ∧ (∃ E, envAt (mk (yielded 0)) 0 0 = some E ∧ E.issues = true ∧ (E.G.split 0).st = .yielded ∧ (E.G.split 0).yield = 0)
    ∧ (∃ E, envAt (mk (yielded 2)) 0 0 = some E ∧ E.issues = true ∧ (E.G.split 0).st = .yielded ∧ (E.G.split 0).yield.getLsbD 1 = true
        ∧ (E.G.split 1).st = .ready)
    ∧ ∃ E e p rest, envAt (mk spilled) 0 0 = some E ∧ E.issues = true ∧ e < 8 ∧ (E.G.split e).st = .free ∧ (∀ k, k < e → (E.G.split k).st ≠ .free)
        ∧ E.G.L.ovf = p :: rest ∧ e < E.G.L.splits.length := by
  refine ⟨⟨lready_of (by decide +kernel), fun k hk h => ?_⟩, ⟨lready_of (by decide +kernel), by show _ ∧ _; decide +kernel, by decide +kernel⟩,
    ⟨_, rfl, rfl, rfl, rfl⟩, ⟨_, rfl, rfl, rfl, by decide +kernel, rfl⟩, _, 1, _, _, rfl, rfl, by decide, by decide +kernel, by decide +kernel, rfl,
    by decide +kernel⟩
  exact (by decide +kernel : ∀ k, k < 8 → k ≠ 0 → ((lgrp 1).split k).mask = 0) k hk h.1 |> h.2.1

/-! ### Scratchpad and table words -/

/-- A word of lane 0, or of lanes 0 and 1, ready to issue. -/
abbrev Rdy (G : Group) (i : Instr) : Prop := LReady (mk G) i (word (mk G) i)

/-- A memory word of the address in v2 with an offset. -/
def mem (ty : Ty) (imm : BitVec 32) : LOp := { plain ty 1 (.reg 2) (.reg 0) with imm := imm }

/-- The module with lanes 0 and 1 of a group at addresses. -/
def lanesAt (a b : W64) : Group :=
  let G := lgrp 3
  { G with lanes := (G.lanes.modify 0 fun L => { L with regs := L.regs.set 2 a }).modify 1 fun L => { L with regs := L.regs.set 2 b } }

/-- A lane past the end; a lane off its alignment; a `.cas128` of which one lane is 8 modulo 16, and one with another lane that is 4. -/
theorem wit_ScratchWords_traps : let o : LOp := mem .n64 0
    let c : LOp := { mem .n64 0 with vd := 4, var := 9, b := .reg 6, c := .reg 8 }
    (scrForm (.lds o) = some (o, 8, 8, false) ∧ Rdy (lanesAt 8 1017) (.lds o)
      ∧ ((word (mk (lanesAt 8 1017)) (.lds o)).E.W.size : Int) < scrAddr (word (mk (lanesAt 8 1017)) (.lds o)) 1 + 8)
    ∧ (Rdy (lanesAt 8 12) (.ats o) ∧ scrForm (.ats o) = some (o, 8, 8, false) ∧ scrAddr (word (mk (lanesAt 8 12)) (.ats o)) 1 % 8 ≠ 0)
    ∧ (Rdy (lanesAt 16 24) (.ats c) ∧ scrForm (.ats c) = some (c, 16, 16, true) ∧ scrAddr (word (mk (lanesAt 16 24)) (.ats c)) 0 % 16 = 0
      ∧ scrAddr (word (mk (lanesAt 16 24)) (.ats c)) 1 % 16 = 8)
    ∧ Rdy (lanesAt 4 24) (.ats c) ∧ scrAddr (word (mk (lanesAt 4 24)) (.ats c)) 0 % 16 ≠ 8 := by
  refine ⟨⟨rfl, lready_of (by decide +kernel), by decide +kernel⟩, ⟨lready_of (by decide +kernel), rfl, by decide +kernel⟩,
    ⟨lready_of (by decide +kernel), rfl, by decide +kernel, by decide +kernel⟩, lready_of (by decide +kernel), by decide +kernel⟩

/-- Two floats that a `.fadd` adds: 1.5 and 2.25. -/
theorem wit_ScratchWords_fadd : ∃ p q top, readF (fmtOf .f32) 0x3FC00000 = .fin p ∧ readF (fmtOf .f32) 0x40100000 = .fin q
    ∧ readF (fmtOf .f32) (fmtOf .f32).maxMag = .fin top ∧ ratOf p + ratOf q ≤ ratOf top ∧ -ratOf top ≤ ratOf p + ratOf q :=
  ⟨_, _, _, rfl, rfl, rfl, by decide +kernel, by decide +kernel⟩

/-- The last doubleword of the allotment, and one byte past it. -/
theorem wit_ScratchWords_lds : let i : Instr := .lds (mem .n64 1008)
    let j : Instr := .lds (mem .n32 0)
    let k : Instr := .lds (mem .n64 1009)
    Rdy (lgrp 1) i ∧ ScratchOk (word (mk (lgrp 1)) i) (accBytes (mem .n64 1008)) (tyBytes .n64)
    ∧ Rdy (lgrp 1) j ∧ ScratchOk (word (mk (lgrp 1)) j) (accBytes (mem .n32 0)) (tyBytes .n32) ∧ tyBytes .n32 < 8
    ∧ Rdy (lgrp 1) k ∧ inMask (word (mk (lgrp 1)) k).act 0 = true
    ∧ ((word (mk (lgrp 1)) k).E.W.size : Int) < scrAddr (word (mk (lgrp 1)) k) 0 + accBytes (mem .n64 1009) := by
  refine ⟨lready_of (by decide +kernel), lanes_all (by decide +kernel), lready_of (by decide +kernel), lanes_all (by decide +kernel),
    by decide, lready_of (by decide +kernel), by decide +kernel, by decide +kernel⟩

theorem wit_ScratchWords_settled : Settled (mk (lgrp 1)) (.scratch 0) := settled rfl

theorem wit_ScratchWords_sts : let o : LOp := { mem .n32 0 with vd := 0, b := .reg 3 }
    Rdy (lgrp 1) (.sts o) ∧ ScratchOk (word (mk (lgrp 1)) (.sts o)) (accBytes o) (tyBytes o.ty)
    ∧ lanesOf (word (mk (lgrp 1)) (.sts o)).act = [0] ∧ memWf (word (mk (lgrp 1)) (.sts o)).E.W.scratch = true :=
  ⟨lready_of (by decide +kernel), lanes_all (by decide +kernel), by decide +kernel, by decide +kernel⟩

theorem wit_ScratchWords_ats : let o : LOp := { mem .n64 0 with b := .reg 3 }
    Rdy (lgrp 1) (.ats o) ∧ o.var = 0 ∧ ScratchOk (word (mk (lgrp 1)) (.ats o)) (atomBytes o) (atomBytes o)
    ∧ lanesOf (word (mk (lgrp 1)) (.ats o)).act = [0] ∧ 0 < (word (mk (lgrp 1)) (.ats o)).G.lanes.length
    ∧ memWf (word (mk (lgrp 1)) (.ats o)).E.W.scratch = true
    ∧ Rdy (lanesAt 16 16) (.ats o) ∧ ScratchOk (word (mk (lanesAt 16 16)) (.ats o)) (atomBytes o) (atomBytes o)
    ∧ lanesOf (word (mk (lanesAt 16 16)) (.ats o)).act = [0, 1] :=
  ⟨lready_of (by decide +kernel), rfl, lanes_all (by decide +kernel), by decide +kernel, by decide +kernel, by decide +kernel,
    lready_of (by decide +kernel), lanes_all (by decide +kernel), by decide +kernel⟩

/-- The doubleword at 8 is 7: a bound of 5, and a bound of 8. -/
theorem wit_WaitOnValue : let i : Instr := .waitge { mem .n64 0 with b := .reg 3 }
    let j : Instr := .waitge { mem .n64 0 with b := .reg 2 }
    let x := word (mk (lgrp 1)) i
    let y := word (mk (lgrp 1)) j
    (Rdy (lgrp 1) i ∧ ScratchOk x 8 8 ∧ ∀ k, inMask x.act k = true → (looked 0 x.E.W.scratch (waitOf x k)).seen.isSome = true)
    ∧ Rdy (lgrp 1) j ∧ ScratchOk y 8 8 ∧ inMask y.act 0 = true ∧ (looked 0 y.E.W.scratch (waitOf y 0)).seen = none
    ∧ y.e < y.G.L.splits.length ∧ (mk (lgrp 1)).ctl.writes = 0 ∧ LastWrite (onWay (mk (lgrp 1)) (.scratch 0) 1) x.E (.scratch 8) 0 :=
  ⟨⟨lready_of (by decide +kernel), lanes_all (by decide +kernel), lanes_all (by decide +kernel)⟩, lready_of (by decide +kernel),
    lanes_all (by decide +kernel), by decide +kernel, by decide +kernel, by decide +kernel, rfl,
    [], _, [], rfl, rfl, rfl, rfl, by decide, fun _ h => nomatch h⟩

/-- The module with an L word at the split's PC, and the split waiting. -/
def held (i : Instr) (w : SplitWait) (G : Group) : State :=
  let s := mk { G with L := { G.L with splits := G.L.splits.modify 0 fun p => { p with wait := w } } }
  { s with drv := { s.drv with kernels := [{ kern with lcode := [(encodeL i).getD 0] }] } }

/-- A lane that has seen its value. -/
def sight : List WaitLane := [{ lane := 0, addr := 8, bytes := 8, signed := false, bound := 5, seen := some 7, after := 0 }]

theorem wit_WaitOnValue_recheck : let o : LOp := { mem .n64 0 with b := .reg 3 }
    let s := held (.waitge o) (.waitge sight none) (lgrp 1)
    ∃ E, envAt s 0 0 = some E ∧ E.issues = true ∧ E.G.L.running = true ∧ (E.G.split 0).st = .ready
      ∧ (E.G.split 0).wait = .waitge sight none ∧ (∀ q ∈ sight, q.seen.isSome = true)
      ∧ decodeL E.K.header.lregs (E.K.lcode.getD (E.G.split 0).lpc.toNat 0) = .ok (.waitge o) ∧ 0 < E.G.lanes.length
      ∧ sight.find? (fun q => q.lane == 0) = sight.head? ∧ ∃ G, E.W.groups[0]? = some G ∧ (G.split 0).wait = .waitge sight none :=
  ⟨_, rfl, rfl, rfl, rfl, rfl, by decide, rfl, by decide +kernel, rfl, _, rfl, rfl⟩

/-- A table word on slot n: the key in v3 (5), or the row id that v5 holds. -/
def tab (ty : Ty) (n : Nat) (off : Nat) : LOp := { plain ty 1 (.reg 3) (.reg 0) with imm := BitVec.ofNat 32 (65536 * n + off) }

/-- The group with v5 holding the row id of table 2's row. -/
def named : Group := { lgrp 1 with lanes := (lgrp 1).lanes.map fun L => { L with regs := L.regs.set 5 (rid 2) } }

/-- A table word on a slot whose table has no pairs for keys. -/
theorem table_ok {x : Word} {s : State} {write : Bool} {k : Bound → Bool} {n al : Nat} {b : Bound}
    (h : slotOf s x.E.La (tabSlot x.o) = .bound b) (hw : write = true → b.ro = false) (hk : k b = true) (h1 : b.t.desc.k128 = false)
    (h2 : tabOff x.o + n ≤ b.t.desc.width) (h3 : tabOff x.o % al = 0) : TableOk x s write k n al b :=
  ⟨h, hw, hk, (fun hk => by rw [h1] at hk; cases hk), h2, h3⟩

/-- The key 8 is in v2: absent from every index. -/
theorem wit_TableReads_kfind : let o : LOp := { tab .none 1 0 with aux := 3 }
    let a : LOp := { o with a := .reg 2 }
    let s := mk (lgrp 1)
    let x := word s (.kfind o)
    let y := word s (.kfind a)
    let b := bnd s 1 1 false
    (LReady s (.kfind o) x ∧ TableOk x s false (fun _ => true) 0 1 b ∧ x.act = 1 ∧ 0 < x.G.lanes.length
      ∧ b.t.rowOf false (tabKey x b.t.desc.k128 0) = .ok { rid := rid 2, slot := 3, addr := 192 }
      ∧ RowsOpen s b.v b.t x.E.world .rd 192 1)
    ∧ LReady s (.kfind a) y ∧ TableOk y s false (fun _ => true) 0 1 b
      ∧ b.t.rowOf false (tabKey y b.t.desc.k128 0) = .error .keyAbsent :=
  ⟨⟨lready_of (by decide +kernel), table_ok rfl (by decide) rfl rfl (by decide +kernel) (by decide +kernel), by decide +kernel,
      by decide +kernel, rfl, rows_open rfl rfl rfl (by decide +kernel)⟩,
    lready_of (by decide +kernel), table_ok rfl (by decide) rfl rfl (by decide +kernel) (by decide +kernel), rfl⟩

/-- The last doubleword of a row, by key; the last 32 bytes of it. -/
theorem wit_TableReads_kld : let s := mk (lgrp 1)
    let o : LOp := { tab .b64 0 32 with var := 3 }
    let x := word s (.kld (tab .n64 0 56))
    let y := word s (.kld o)
    let b := bnd s 0 0 false
    let row : Row := { rid := 5, slot := 5, addr := 320 }
    (LReady s (.kld (tab .n64 0 56)) x ∧ TableOk x s false (fun _ => true) (tabBytes x.o) (tabAlign x.o) b ∧ x.o.var ≠ 4
      ∧ (∀ i, inMask x.act i = true → LaneRow x s b (tabOff x.o) (tabBytes x.o) .rd true i row)
      ∧ (s.core x.E.W.coreNo).cache = [] ∧ Settled s (.rows b.v) ∧ 0 < tabBytes x.o ∧ tabBytes x.o ≤ 8)
    ∧ LReady s (.kld o) y ∧ TableOk y s false (fun _ => true) (tabBytes y.o) (tabAlign y.o) b ∧ y.o.var ≠ 4
      ∧ (∀ i, inMask y.act i = true → LaneRow y s b (tabOff y.o) (tabBytes y.o) .rd true i row) ∧ 8 < tabBytes y.o ∧ 0 < y.G.lanes.length :=
  ⟨⟨lready_of (by decide +kernel), table_ok rfl (by decide) rfl rfl (by decide +kernel) (by decide +kernel), by decide +kernel,
      lane0 (by decide +kernel) (lane_row rfl rfl rfl rfl (by decide +kernel) rfl), by decide +kernel, settled rfl, by decide +kernel, by decide +kernel⟩,
    lready_of (by decide +kernel), table_ok rfl (by decide) rfl rfl (by decide +kernel) (by decide +kernel), by decide +kernel,
    lane0 (by decide +kernel) (lane_row rfl rfl rfl rfl (by decide +kernel) rfl), by decide +kernel, by decide +kernel⟩

/-- The module where table 1 has an exact cell at the start of its rows. -/
def celled (G : Group) : State :=
  let s := mk G
  { s with mem := { s.mem with tables := { blankTable { desc 1 0 with nranges := 1, ranges := [2#2 ++ 0#14 ++ 1#1 ++ 10#15] } 0 with rows := [(0, 9)] }
                                         :: tabs.drop 1 } }

/-- Cells: read by KLD.xc, added to by KAT. -/
theorem wit_TableReads_cell : let o : LOp := { tab .b64 0 0 with var := 4 }
    let x := word (celled (lgrp 1)) (.kld o)
    let b := bnd (celled (lgrp 1)) 0 0 false
    LReady (celled (lgrp 1)) (.kld o) x ∧ x.o.var = 4
    ∧ TableOk x (celled (lgrp 1)) false (fun b => b.t.desc.isCell (tabOff x.o)) 40 1 b
    ∧ ∀ i, inMask x.act i = true → LaneRow x (celled (lgrp 1)) b (tabOff x.o) 40 .rd true i { rid := 5, slot := 5, addr := 320 } :=
  ⟨lready_of (by decide +kernel), by decide +kernel, table_ok rfl (by decide) (by decide +kernel) rfl (by decide +kernel) (by decide +kernel),
    lane0 (by decide +kernel) (lane_row rfl rfl rfl rfl (by decide +kernel) rfl)⟩

theorem wit_TableStore : let o : LOp := { tab .n64 0 56 with vd := 0, b := .reg 2 }
    let s := mk (lgrp 1)
    let x := word s (.kst o)
    let b := bnd s 0 0 false
    LReady s (.kst o) x ∧ TableOk x s true (fun _ => true) (tabBytes x.o) (tabAlign x.o) b ∧ x.o.ty ≠ .none
    ∧ (∀ i, inMask x.act i = true → LaneRow x s b (tabOff x.o) (tabBytes x.o) .wr false i { rid := 5, slot := 5, addr := 320 })
    ∧ memWf b.t.rows = true :=
  ⟨lready_of (by decide +kernel), table_ok rfl (fun _ => rfl) rfl rfl (by decide +kernel) (by decide +kernel), by decide +kernel,
    lane0 (by decide +kernel) (lane_row rfl rfl rfl rfl (by decide +kernel) rfl), by decide +kernel⟩

/-- An index slab of a world's own is open to it. -/
theorem slab_open {s : State} {v : Nat} {t : Table} {x y : BitVec 16} {r : Right} {lo hi : Nat} (h : y = x) (hx : x ≠ 0) :
    SlabOpen s v t x r y lo hi := .inl ⟨h, hx⟩

/-- A property of every member of a list, checked member by member. -/
theorem all_of {α : Type} {p : α → Prop} [DecidablePred p] {l : List α} (h : (l.all fun a => decide (p a)) = true) : ∀ a ∈ l, p a := by
  simpa using h

/-- Inserts into table 2: the key 8 of v2 is new, and the key 5 of v3 is there. -/
theorem wit_InsertAndDelete_kins : let o : LOp := { tab .none 1 0 with a := .reg 2 }
    let p : LOp := { tab .none 1 0 with aux := 11 }
    let s := mk (lgrp 1)
    let x := word s (.kins o)
    let y := word s (.kins (Tests.off o))
    let z := word s (.kins p)
    let b := bnd s 1 1 false
    (LReady s (.kins (Tests.off o)) y ∧ TableOk y s true indexed (tabBytes y.o) (tabAlign y.o) b
      ∧ SlabOpen s b.v b.t y.E.world .wr b.t.desc.owner 0 (2 ^ 64 - 1) ∧ y.act = 0)
    ∧ (LReady s (.kins o) x ∧ TableOk x s true indexed (tabBytes x.o) (tabAlign x.o) b
      ∧ SlabOpen s b.v b.t x.E.world .wr b.t.desc.owner 0 (2 ^ 64 - 1) ∧ lanesOf x.act = [0] ∧ 0 < x.G.lanes.length
      ∧ (∀ e ∈ b.t.entries, e.1 ≠ tabKey x b.t.desc.k128 0) ∧ Room b.t ∧ IndexSound b.t ∧ memWf b.t.rows = true)
    ∧ LReady s (.kins p) z ∧ TableOk z s true indexed (tabBytes z.o) (tabAlign z.o) b ∧ lanesOf z.act = [0] ∧ b.t.desc.unique = true
      ∧ z.o.aux.getLsbD 3 = true ∧ b.t.entries.find? (fun e => e.1 == tabKey z b.t.desc.k128 0) = some (5, rid 2) := by
  refine ⟨⟨lready_of (by decide +kernel), table_ok rfl (fun _ => rfl) rfl rfl (by decide +kernel) (by decide +kernel),
      slab_open (by decide +kernel) (by decide +kernel), by decide +kernel⟩,
    ⟨lready_of (by decide +kernel), table_ok rfl (fun _ => rfl) rfl rfl (by decide +kernel) (by decide +kernel),
      slab_open (by decide +kernel) (by decide +kernel), by decide +kernel, by decide +kernel, all_of (by decide +kernel), ?_, ?_, by decide +kernel⟩,
    lready_of (by decide +kernel), table_ok rfl (fun _ => rfl) rfl rfl (by decide +kernel) (by decide +kernel), by decide +kernel,
    by decide +kernel, by decide +kernel, by decide +kernel⟩
  · show _ ∧ _; decide +kernel
  · show _ ∧ _; decide +kernel

/-- Deletes from table 2: no lane; the key 8, which is absent; the key 5; the row id of its row. -/
theorem wit_InsertAndDelete_kdel : let o : LOp := { tab .none 1 0 with vd := 0 }
    let a : LOp := { o with a := .reg 2 }
    let r : LOp := { tab .none 65 0 with vd := 0, a := .reg 5 }
    let s := mk (lgrp 1)
    let u := mk named
    let x := word s (.kdel o)
    let y := word s (.kdel a)
    let z := word s (.kdel (Tests.off o))
    let v := word u (.kdel r)
    let b := bnd s 1 1 false
    let row : Row := { rid := rid 2, slot := 3, addr := 192 }
    (LReady s (.kdel (Tests.off o)) z ∧ TableOk z s true indexed 0 1 b ∧ z.act = 0)
    ∧ (LReady s (.kdel a) y ∧ TableOk y s true indexed 0 1 b ∧ lanesOf y.act = [0] ∧ tabRid y.o = false
        ∧ ∀ e ∈ b.t.entries, e.1 ≠ tabKey y b.t.desc.k128 0)
    ∧ (LReady s (.kdel o) x ∧ TableOk x s true indexed 0 1 b ∧ lanesOf x.act = [0] ∧ tabRid x.o = false
        ∧ b.t.entries.find? (fun e => e.1 == tabKey x b.t.desc.k128 0) = some (5, rid 2) ∧ b.t.liveRow (rid 2) = some row
        ∧ RowsOpen s b.v b.t x.E.world .wr row.addr 1 ∧ b.t.entries.Nodup)
    ∧ LReady u (.kdel r) v ∧ TableOk v u true indexed 0 1 b ∧ lanesOf v.act = [0] ∧ tabRid v.o = true
        ∧ b.t.liveRow ((tabKey v b.t.desc.k128 0).setWidth 64) = some row ∧ b.t.entries.find? (fun e => e.2 == row.rid) = some (5, rid 2) :=
  ⟨⟨lready_of (by decide +kernel), table_ok rfl (fun _ => rfl) rfl rfl (by decide +kernel) (by decide +kernel), by decide +kernel⟩,
    ⟨lready_of (by decide +kernel), table_ok rfl (fun _ => rfl) rfl rfl (by decide +kernel) (by decide +kernel), by decide +kernel,
      by decide +kernel, all_of (by decide +kernel)⟩,
    ⟨lready_of (by decide +kernel), table_ok rfl (fun _ => rfl) rfl rfl (by decide +kernel) (by decide +kernel), by decide +kernel,
      by decide +kernel, by decide +kernel, by decide +kernel, rows_open rfl rfl rfl (by decide +kernel), by decide +kernel⟩,
    lready_of (by decide +kernel), table_ok rfl (fun _ => rfl) rfl rfl (by decide +kernel) (by decide +kernel), by decide +kernel,
    by decide +kernel, by decide +kernel, by decide +kernel⟩

/-- The cursor 0 of a lane on table 3, before its one entry or after it. -/
def curs (last : Option (Key × W64)) : Cursor := { slot := 2, version := 2, lo := 0, hi := 9, last := last }

/-- The group with that cursor open in lane 0. -/
def scanning (last : Option (Key × W64)) : Group :=
  { lgrp 1 with lanes := (lgrp 1).lanes.map fun L => { L with cur := [some (curs last), none, none, none] } }

theorem wit_Cursors_kseek : let o : LOp := { tab .none 2 0 with vd := 0, b := .reg 2 }
    let s := mk (lgrp 1)
    let x := word s (.kseek o)
    let b := bnd s 2 2 false
    LReady s (.kseek o) x ∧ TableOk x s false (seekOk x) 0 1 b ∧ (b.t.desc.k128 = true → isPair x x.o.b = true)
    ∧ SlabOpen s b.v b.t x.E.world .rd b.t.desc.owner 0 (2 ^ 64 - 1)
    ∧ (∀ i, inMask x.act i = true → (x.G.lane i).cursor (curNo x.o) = none)
    ∧ (x.G.lane 0).cur.length = 4 ∧ inMask x.act 0 = true ∧ 0 < x.G.lanes.length :=
  ⟨lready_of (by decide +kernel), table_ok rfl (by decide) (by decide +kernel) rfl (by decide +kernel) (by decide +kernel),
    by decide +kernel, slab_open (by decide +kernel) (by decide +kernel), lanes_all (by decide +kernel), by decide +kernel, by decide +kernel,
    by decide +kernel⟩

/-- A cursor before the entry 5 of table 3, and one past it; the forms without and with the key. -/
theorem wit_Cursors_knext : let o : LOp := { bare with vd := 1 }
    let k : LOp := { o with var := 1 }
    let s := mk (scanning none)
    let u := mk (scanning (some (5, rid 3)))
    let x := word s (.knext k)
    let y := word u (.knext o)
    let T := (bnd s 2 2 false).t
    (LReady s (.knext k) x ∧ (∀ i, inMask x.act i = true → (x.G.lane i).cursor (curNo x.o) = some (curs none) ∧ s.table? 2 = some T)
      ∧ (x.o.var = 1 → x.o.vd.toNat + 3 ≤ x.E.K.header.lregs) ∧ IsNext T (curs none) (5, rid 3)
      ∧ (∀ r, T.liveRow (rid 3) = some r → RowsOpen s 2 T x.E.world .rd r.addr 1) ∧ 0 < x.G.lanes.length ∧ (x.G.lane 0).cur.length = 4)
    ∧ LReady u (.knext o) y ∧ (∀ i, inMask y.act i = true → (y.G.lane i).cursor (curNo y.o) = some (curs (some (5, rid 3))) ∧ u.table? 2 = some T)
      ∧ (∀ e ∈ T.entries, ¬ InReach T (curs (some (5, rid 3))) e) ∧ y.o.aux.extractLsb' 2 3 ≠ 7 := by
  refine ⟨⟨lready_of (by decide +kernel), lane0 (by decide +kernel) ⟨by decide +kernel, rfl⟩, by decide +kernel, ⟨[], [], rfl, ?_, ?_⟩,
      fun _ _ => rows_open rfl rfl rfl (by decide +kernel), by decide +kernel, by decide +kernel⟩,
    lready_of (by decide +kernel), lane0 (by decide +kernel) ⟨by decide +kernel, rfl⟩, ?_, by decide +kernel⟩
  · show _ ∧ _; exact ⟨by decide, by show _ ≤ _; decide⟩
  · intro d hd; cases hd
  · intro e he
    have : e = (5, rid 3) := List.mem_singleton.mp he
    subst this
    rintro ⟨-, h⟩
    rcases h with h | h
    · revert h; decide
    · exact absurd h.1 (by decide +kernel)

theorem wit_Cursors_kclose : Rdy (scanning none) (.kclose bare) := lready_of (by decide +kernel)

/-- KAT of kind add on the last doubleword of a row, and on an exact cell; SCAT. -/
theorem wit_RowAtomics : let o : LOp := { tab .n64 0 56 with b := .reg 2 }
    let q : LOp := { tab .f32 0 0 with b := .reg 2, vd := 0, var := 11 }
    let c : LOp := { o with vd := 0, var := 1, imm := 0, c := .reg 2 }
    let s := mk (lgrp 1)
    let u := celled (lgrp 1)
    let x := word s (.kat o)
    let z := word u (.kat q)
    let y := word s (.scat c)
    let b := bnd s 0 0 false
    let d := bnd u 0 0 false
    let row : Row := { rid := 5, slot := 5, addr := 320 }
    (LReady s (.kat o) x ∧ TableOk x s true (fun b => !(x.o.var == 11) || b.t.desc.isCell (tabOff x.o)) (katBytes x.o) (if x.o.var = 11 then 1 else katBytes x.o) b
      ∧ (∀ i, inMask x.act i = true → LaneRow x s b (tabOff x.o) (katBytes x.o) .at_ true i row) ∧ memWf b.t.rows = true ∧ lanesOf x.act = [0]
      ∧ x.o.var ≠ 11)
    ∧ (LReady u (.kat q) z ∧ TableOk z u true (fun b => !(z.o.var == 11) || b.t.desc.isCell (tabOff z.o)) (katBytes z.o) (if z.o.var = 11 then 1 else katBytes z.o) d
      ∧ (∀ i, inMask z.act i = true → LaneRow z u d (tabOff z.o) (katBytes z.o) .at_ true i row) ∧ memWf d.t.rows = true ∧ z.o.var = 11)
    ∧ LReady s (.scat c) y ∧ slotOf s y.E.La (tabSlot y.o) = .bound b ∧ b.ro = false ∧ b.t.desc.k128 = false :=
  ⟨⟨lready_of (by decide +kernel), table_ok rfl (fun _ => rfl) (by decide +kernel) rfl (by decide +kernel) (by decide +kernel),
      lane0 (by decide +kernel) (lane_row rfl rfl rfl rfl (by decide +kernel) rfl), by decide +kernel, by decide +kernel, by decide +kernel⟩,
    ⟨lready_of (by decide +kernel), table_ok rfl (fun _ => rfl) (by decide +kernel) rfl (by decide +kernel) (by decide +kernel),
      lane0 (by decide +kernel) (lane_row rfl rfl rfl rfl (by decide +kernel) rfl), by decide +kernel, by decide +kernel⟩,
    lready_of (by decide +kernel), rfl, rfl, rfl⟩

/-- KAT on the row of lanes 0 and 1, and off its alignment; a SCAT `.xadd` on an exact cell. -/
theorem wit_RowAtomics_forms : let o : LOp := { tab .n64 0 56 with b := .reg 2 }
    let p : LOp := { tab .n64 0 52 with b := .reg 2 }
    let q : LOp := { tab .f32 0 0 with b := .reg 2, vd := 0, var := 4, imm := 0, c := .reg 0 }
    let s := mk (lgrp 3)
    let u := celled (lgrp 1)
    let x := word s (.kat o)
    let y := word s (.kat p)
    let z := word u (.scat q)
    let b := bnd s 0 0 false
    let d := bnd u 0 0 false
    (LReady s (.kat o) x ∧ TableOk x s true (fun b => !(x.o.var == 11) || b.t.desc.isCell (tabOff x.o)) (katBytes x.o) (if x.o.var = 11 then 1 else katBytes x.o) b
      ∧ (∀ i, inMask x.act i = true → LaneRow x s b (tabOff x.o) (katBytes x.o) .at_ true i { rid := 5, slot := 5, addr := 320 })
      ∧ lanesOf x.act = [0, 1] ∧ 1 < x.G.lanes.length)
    ∧ (LReady s (.kat p) y ∧ slotOf s y.E.La (tabSlot y.o) = .bound b ∧ b.ro = false ∧ y.o.var ≠ 11 ∧ b.t.desc.k128 = false
      ∧ tabOff y.o + katBytes y.o ≤ b.t.desc.width ∧ tabOff y.o % katBytes y.o ≠ 0)
    ∧ LReady u (.scat q) z ∧ slotOf u z.E.La (tabSlot z.o) = .bound d ∧ d.ro = false ∧ z.o.var = 4 ∧ InExact z d ∧ lanesOf z.act = [0] := by
  refine ⟨⟨lready_of (by decide +kernel), table_ok rfl (fun _ => rfl) (by decide +kernel) rfl (by decide +kernel) (by decide +kernel), ?_,
      by decide +kernel, by decide +kernel⟩,
    ⟨lready_of (by decide +kernel), rfl, rfl, by decide +kernel, rfl, by decide +kernel, by decide +kernel⟩,
    lready_of (by decide +kernel), rfl, rfl, by decide +kernel, ⟨⟨_, List.mem_cons_self, by decide +kernel⟩, lane0 (by decide +kernel) ?_⟩,
    by decide +kernel⟩
  · refine lanes_all fun i hi hm => lane_row ?_ rfl rfl rfl (by decide +kernel) rfl
    have h : ∀ i, i < 32 → inMask (word (mk (lgrp 3)) (.kat { tab .n64 0 56 with b := .reg 2 })).act i = true → i = 0 ∨ i = 1 := by decide +kernel
    rcases h i hi hm with h | h <;> subst h <;> rfl
  · exact fun _ => ⟨_, List.mem_cons_self, by decide +kernel, by decide +kernel, by decide +kernel⟩

/-- A reduction on table 1: an add of 3 to the doubleword at an offset of row 5. -/
def red (off : Nat) : Reduction :=
  { wg := 0, group := 0, blockSeq := 1, lanes := 1, issuer := 1, split := 0, leader := 0, lpc := 0, slot := 0, byRid := false, version := 0
    key := 5, off := off, kind := 1, ty := .n64, value := [3, 0, 0, 0, 0, 0, 0, 0] }

/-- The last doubleword of the row, and one past it. -/
theorem wit_RowAtomics_apply : ∀ off ∈ [56, 57], ∃ E T, let s : State := { mk (lgrp 1) with reds := [red off] }
    s.reds[0]? = some (red off) ∧ envAt s 0 0 = some E ∧ s.table? 0 = some T
    ∧ (∀ q ∈ s.reds.take 0, q.wg = 0 → q.group = 0 → sameElement s q (red off) = false)
    ∧ (off = 56 → off + tyBytes .n64 ≤ T.desc.width ∧ off % tyBytes .n64 = 0
        ∧ T.rowOf false 5 = .ok { rid := 5, slot := 5, addr := 320 } ∧ RowsOpen s 0 T E.world .at_ (320 + off) 8
        ∧ NoBad T (320 + off) 8 ∧ memWf T.rows = true)
    ∧ (off = 57 → redCheck s (red off) T E.world = .fault .colRange) ∧ E.G.T.elems.length < 64 := by
  intro off _
  refine ⟨_, _, rfl, rfl, rfl, (fun _ h => nomatch h), fun h => ?_, fun h => ?_, by decide⟩ <;> subst h
  · exact ⟨by decide, by decide, rfl, rows_open rfl rfl rfl (by decide), no_bad rfl, by decide +kernel⟩
  · rfl

/-! ### Atomic regions and the array -/

/-- The group with an open region in its lanes of a mask, with buffered stores. -/
def inRegion (m : LMask) (st : List RegionStore) : Group :=
  let f := fun (i : Nat) (L : Lane) => if inMask m i then { L with region := some { Region.fresh 3 with stores := st } } else L
  { lgrp m with lanes := (lgrp m).lanes.mapIdx f }

theorem wit_RegionWords : Rdy (lgrp 3) (.abeg bare) ∧ inMask (word (mk (lgrp 3)) (.abeg bare)).p.mask 1 = true
    ∧ (Rdy (inRegion 3 []) (.aabt bare) ∧ (word (mk (inRegion 3 [])) (.aabt bare)).act = (word (mk (inRegion 3 [])) (.aabt bare)).p.mask)
    ∧ (Rdy (inRegion 3 []) (.aabt (off bare)) ∧ (word (mk (inRegion 3 [])) (.aabt (off bare))).act = 0)
    ∧ Rdy (lgrp 3) (.astat { bare with vd := 1 }) :=
  ⟨lready_of (by decide +kernel), by decide +kernel, ⟨lready_of (by decide +kernel), by decide +kernel⟩,
    ⟨lready_of (by decide +kernel), by decide +kernel⟩, lready_of (by decide +kernel)⟩

/-- An input of the doubleword at 8, which holds 7: with a recorded value. -/
def input (v : W64) : RegionIn := { loc := .scratch 8, bytes := 8, signed := false, value := v }

/-- The group with a region of lane 0 that has recorded the input, pinned or not, and buffered a store of it plus 2 at 16. -/
def reading (v : W64) (pins : BitVec 8) : Group :=
  let r : Region := { Region.fresh 3 with inputs := [input v], pins := pins, stores := [{ loc := .scratch 16, bytes := 8, tag := some 0, value := 2 }] }
  { lgrp 1 with lanes := (lgrp 1).lanes.modify 0 fun L => { L with region := some r } }

/-- `ALD` of a new place and of the recorded one, at 8 as both; `AST` by a region with 15 stores. -/
theorem wit_RegionWords_access : let i : Instr := .ald { mem .n64 0 with var := 1 }
    let j : Instr := .ast { mem .n64 0 with var := 1, vd := 0, b := .reg 3 }
    let s := mk (inRegion 1 [])
    let v := mk (reading 7 0)
    let u := mk (inRegion 1 (List.replicate 15 { loc := .scratch 0, bytes := 8, tag := none, value := 0 }))
    let x := word s i
    let y := word u j
    let z := word v i
    let locs : Nat → Loc := fun _ => .scratch 8
    (LReady s i x ∧ AreaOk x s false locs ∧ (∀ i, inMask x.act i = true → ∃ r, (x.G.lane i).region = some r
        ∧ (∀ q ∈ r.stores, Apart (locs i) 8 q.loc q.bytes) ∧ r.inputs.length < 8 ∧ ∀ q ∈ r.inputs, Apart (locs i) 8 q.loc q.bytes)
      ∧ PlaceSettled s x.E (locs 0))
    ∧ (LReady v i z ∧ AreaOk z v false locs ∧ ∀ i, inMask z.act i = true → ∃ r, (z.G.lane i).region = some r
        ∧ (∀ q ∈ r.stores, Apart (locs i) 8 q.loc q.bytes) ∧ ∃ q ∈ r.inputs, SameAccess (locs i) 8 q.loc q.bytes)
    ∧ LReady u j y ∧ AreaOk y u true locs ∧ ∀ i, inMask y.act i = true → ∃ r, (y.G.lane i).region = some r ∧ r.stores.length < 16 := by
  refine ⟨⟨lready_of (by decide +kernel), .inl ⟨by decide +kernel, lanes_all (by decide +kernel), lanes_all (by decide +kernel)⟩,
      lane0 (by decide +kernel) ⟨_, rfl, (fun _ h => nomatch h), by decide, fun _ h => nomatch h⟩, settled rfl⟩,
    ⟨lready_of (by decide +kernel), .inl ⟨by decide +kernel, lanes_all (by decide +kernel), lanes_all (by decide +kernel)⟩,
      lane0 (by decide +kernel) ⟨_, rfl, ?_, input 7, List.mem_cons_self, rfl, rfl⟩⟩,
    lready_of (by decide +kernel), .inl ⟨by decide +kernel, lanes_all (by decide +kernel), lanes_all (by decide +kernel)⟩,
    lane0 (by decide +kernel) ⟨_, rfl, by decide⟩⟩
  intro q hq
  cases List.mem_singleton.mp hq
  exact .inr (.inl (by decide))

/-- One buffered store of the value 6 to the doubleword at 16. -/
def buffered (m : LMask) : Group := inRegion m [{ loc := .scratch 16, bytes := 8, tag := none, value := 6 }]

/-- The small module keeps its memories in order. -/
theorem mem_ok (G : Group) : (mk G).memOk := by
  refine ⟨all_of ?_, all_of ?_, fun _ h => (nomatch h), fun _ h => (nomatch h), fun _ h => (nomatch h)⟩
  · rfl
  · show (tabs.all fun a => decide a.memOk) = true
    decide +kernel

/-- The places of lane 0's region are known: at hand, or gone. -/
def Known0 (s : State) (x : Word) : Prop :=
  ∀ k, inMask x.p.mask k = true → k < x.G.lanes.length ∧ ∃ r, (x.G.lane k).region = some r ∧ RegionKnown s x.E r ∧ (r.rtags.map (·.1)).Nodup

/-- An ACOM of the group in order: no earlier one is open. -/
def commits (G : Group) : Bool :=
  let x := word (mk G) (.acom bare)
  lready (mk G) (.acom bare) && x.G.canPlace && ((mk G).core x.E.W.coreNo).acoms.isEmpty && decide (x.e < x.G.L.splits.length)
    && x.G.L.splits.length == 8

theorem commits_of {G : Group} (h : commits G = true) : let x := word (mk G) (.acom bare)
    LReady (mk G) (.acom bare) x ∧ x.G.canPlace = true ∧ ((mk G).core x.E.W.coreNo).acoms = [] ∧ (mk G).memOk ∧ x.e < x.G.L.splits.length
      ∧ x.G.L.splits.length = 8 := by
  simp only [commits, Bool.and_eq_true, List.isEmpty_iff, decide_eq_true_eq, beq_iff_eq] at h
  exact ⟨lready_of h.1.1.1.1, h.1.1.1.2, h.1.1.2, mem_ok G, h.1.2, h.2⟩

/-- Lane 0 of the group has a region that has recorded the doubleword at 8, with a constraint that it is not 7. -/
def constrained (v : W64) : Group :=
  let c : Constraint := { input := 0, offset := 0, cond := 0, signed := false, tagLeft := true, other := 7, outcome := false }
  { reading v 0 with lanes := (reading v 0).lanes.modify 0 fun L => { L with region := L.region.map fun r => { r with cons := [c] } } }

/-- A lane's region whose places are all in the allotment is known. -/
theorem known_scratch {s : State} {E : Env} {r : Region} (h : (∀ q ∈ r.inputs, ∃ a, q.loc = .scratch a) ∧ ∀ q ∈ r.stores, ∃ a, q.loc = .scratch a) :
    RegionKnown s E r :=
  ⟨fun q hq => .inl (by obtain ⟨a, ha⟩ := h.1 q hq; rw [ha]; trivial), fun q hq => .inl (by obtain ⟨a, ha⟩ := h.2 q hq; rw [ha]; trivial)⟩

/-- Regions of two lanes, with a store of data each; of an input that reads as recorded; of one that has changed, unpinned, pinned, and
with a constraint that fails now. -/
theorem wit_Commits : (commits (buffered 3) = true ∧ Known0 (mk (buffered 3)) (word (mk (buffered 3)) (.acom bare))
      ∧ lanesOf (word (mk (buffered 3)) (.acom bare)).p.mask = [0, 1])
    ∧ ∀ G ∈ [reading 7 1, reading 6 0, reading 6 1, constrained 6], commits G = true ∧ Known0 (mk G) (word (mk G) (.acom bare)) := by
  refine ⟨⟨by decide +kernel, ?_, by decide +kernel⟩, ?_⟩
  · refine lanes_all fun k hk hm => ?_
    have h : ∀ i, i < 32 → inMask (word (mk (buffered 3)) (.acom bare)).p.mask i = true → i = 0 ∨ i = 1 := by decide +kernel
    rcases h k hk hm with h | h <;> subst h <;>
      exact ⟨by decide +kernel, _, rfl, known_scratch ⟨fun _ h => (nomatch h), fun q hq => ⟨16, by cases List.mem_singleton.mp hq; rfl⟩⟩, List.nodup_nil⟩
  · have one_ : ∀ G : Group, commits G = true → (word (mk G) (.acom bare)).p.mask = 1 → 0 < (word (mk G) (.acom bare)).G.lanes.length →
        (∃ r, ((word (mk G) (.acom bare)).G.lane 0).region = some r ∧ r.inputs.map (·.loc) = [.scratch 8] ∧ r.stores.map (·.loc) = [.scratch 16]
          ∧ r.rtags = []) → commits G = true ∧ Known0 (mk G) (word (mk G) (.acom bare)) := by
      rintro G hc hm hl ⟨r, hr, h1, h2, h3⟩
      refine ⟨hc, lane0 hm ⟨hl, r, hr, known_scratch ⟨fun q hq => ⟨8, ?_⟩, fun q hq => ⟨16, ?_⟩⟩, by rw [h3]; exact List.nodup_nil⟩⟩
      · exact List.mem_singleton.mp (h1 ▸ List.mem_map_of_mem hq)
      · exact List.mem_singleton.mp (h2 ▸ List.mem_map_of_mem hq)
    intro G hG
    simp only [List.mem_cons, List.not_mem_nil, or_false] at hG
    rcases hG with h | h | h | h <;> subst h <;>
      exact one_ _ (by decide +kernel) (by decide +kernel) (by decide +kernel) ⟨_, rfl, rfl, rfl, rfl⟩

/-- What those regions find: the input as recorded; changed; with pin 0; with the constraint failing. A lane's fallback. -/
theorem wit_Commits_cases : let E := env (mk (reading 7 1))
    (valueAt E.W.scratch 8 8 false = 7) ∧ (input 6).value ≠ 7 ∧ (1 : BitVec 8).getLsbD 0 = true
    ∧ ¬ Holds { input := 0, offset := 0, cond := 0, signed := false, tagLeft := true, other := 7, outcome := false } (fun _ => 7)
    ∧ ((word (mk (reading 6 1)) (.acom bare)).G.lane 0).region.map (·.fallback) = some 3 := by
  refine ⟨by decide +kernel, by decide, by decide, fun h => ?_, by decide +kernel⟩
  exact absurd (h.mp (by show ((7 : W64).toNat : Int) = _; decide)) Bool.noConfusion

/-- A region whose store is to a row through slot 9, which names no table, and one whose store is to row 5 of table 1. -/
theorem wit_Commits_tables : ∀ n ∈ [(9 : BitVec 6), 0], let q : RegionStore := { loc := .table n 0 5 320, bytes := 8, tag := none, value := 6 }
    commits (inRegion 1 [q]) = true ∧ Known0 (mk (inRegion 1 [q])) (word (mk (inRegion 1 [q])) (.acom bare)) := by
  intro n hn
  simp only [List.mem_cons, List.not_mem_nil, or_false] at hn
  rcases hn with h | h <;> subst h
  · refine ⟨by decide +kernel, lane0 (by decide +kernel) ⟨by decide +kernel, _, rfl, ⟨fun _ h => (nomatch h), fun q hq => .inr ?_⟩, List.nodup_nil⟩⟩
    cases List.mem_singleton.mp hq
    exact .inl rfl
  · refine ⟨by decide +kernel, lane0 (by decide +kernel) ⟨by decide +kernel, _, rfl, ⟨fun _ h => (nomatch h), fun q hq => .inl ?_⟩, List.nodup_nil⟩⟩
    cases List.mem_singleton.mp hq
    exact ⟨bnd (mk (lgrp 1)) 0 0 false, rfl, (fun h => nomatch h), by decide +kernel, rows_open rfl rfl rfl (by decide +kernel)⟩

/-- A region that has a store to row 5 of table 1. -/
def rowStore : RegionStore := { loc := .table 0 0 5 320, bytes := 8, tag := none, value := 6 }

/-- The module where slab 0 of table 1 is absent, and a region of lane 0 stores to it. -/
def absent : State :=
  let s := mk (inRegion 1 [rowStore])
  { s with mem := { s.mem with tables := { blankTable (desc 1 0) 0 with absent := [0] } :: tabs.drop 1 } }

/-- ACOM behind another, and where a place waits for its slab. -/
theorem wit_Commits_waits : let s := (mk (buffered 1)).setCore 0 { Core.reset with acoms := [(0, 0, 3)] }
    let x := word s (.acom bare)
    let y := word absent (.acom bare)
    (LReady s (.acom bare) x ∧ x.e < x.G.L.splits.length ∧ x.G.canPlace = true ∧ (s.core x.E.W.coreNo).acoms ≠ [])
    ∧ LReady absent (.acom bare) y ∧ y.e < y.G.L.splits.length ∧ y.G.canPlace = true ∧ lanesOf y.p.mask = [0]
      ∧ ∃ r, (y.G.lane 0).region = some r ∧ rowStore ∈ r.stores ∧ StoreWaits absent y.E rowStore :=
  ⟨⟨lready_of (by decide +kernel), by decide +kernel, by decide +kernel, by decide +kernel⟩, lready_of (by decide +kernel), by decide +kernel,
    by decide +kernel, by decide +kernel, _, rfl, List.mem_cons_self, bnd absent 0 0 false, rfl, by decide, by decide +kernel, 0,
    by decide +kernel, by decide, by decide⟩

/-- A region where no split can be placed. -/
def stuck : Group := { crowded 56 with lanes := (inRegion 3 []).lanes }

/-- ACOM where no split can be placed; ACOM resumed. -/
theorem wit_Commits_other : let o := bare
    let s := (held (.acom o) .commit (buffered 1)).setCore 0 { Core.reset with acoms := [(0, 0, 0)] }
    (Rdy stuck (.acom o) ∧ (word (mk stuck) (.acom o)).G.canPlace = false)
    ∧ ∃ x, wordAt s 0 0 0 = some x ∧ x.G.fin = .running ∧ x.G.L.running = true ∧ x.p.wait = .commit
        ∧ (s.core x.E.W.coreNo).acoms.head? = some (0, 0, 0) ∧ s.memOk ∧ 0 < x.G.L.splits.length ∧ x.G.L.splits.length = 8
        ∧ ∀ k, inMask x.p.mask k = true → k < x.G.lanes.length ∧ ∀ r, (x.G.lane k).region = some r → RegionKnown s x.E r ∧ (r.rtags.map (·.1)).Nodup := by
  refine ⟨⟨lready_of (by decide +kernel), by decide +kernel⟩, _, rfl, rfl, rfl, rfl, rfl,
    ⟨all_of rfl, all_of (by decide +kernel), fun _ h => (nomatch h), fun _ h => (nomatch h), fun _ h => (nomatch h)⟩, by decide +kernel,
    by decide +kernel, ?_⟩
  refine lane0 (by decide +kernel) ⟨by decide +kernel, fun r hr => ?_⟩
  cases hr
  exact ⟨known_scratch ⟨fun _ h => (nomatch h), fun q hq => ⟨16, by cases List.mem_singleton.mp hq; rfl⟩⟩, List.nodup_nil⟩

/-- An operation of the group on a tile. -/
def qop (tile : Nat) : Quarter :=
  { wg := 0, group := 0, split := 0, lpc := 0, stamp := 0, clk := 0, tile := tile, q := 0, fa := 0, fb := 0, ow := false, line := 0, rows := [] }

/-- The module with its core's B-lines 0 to 15 loaded for world 1, n operations in the matrix queue, and some in the array. -/
def arrayed (n : Nat) (arr : List Quarter) (G : Group) : State :=
  (mk G).setCore 0 { Core.reset with lines := (List.range 16).map fun k => { line := k, world := 1, bytes := [] }
                                     mq := List.replicate n (qop 1), arr := arr }

/-- An MMA of f32 by f32 with A at v0 and B at the line in v0, on tile 0. -/
def mmaOp : LOp := plain .i8 0 (.reg 0) (.reg 0)

/-- 63 operations queued, and 64. -/
theorem wit_MatrixOperations : let i : Instr := .mma mmaOp
    let s := arrayed 63 [] (lgrp 1)
    let u := arrayed 64 [] (lgrp 1)
    let x := word s i
    let y := word u i
    LReady s i x ∧ x.quarters ≠ [] ∧ Legal (mmaA x.o) (mmaB x.o) ∧ TilesIn x ∧ mmaOw x.o = false
    ∧ (∀ q ∈ x.quarters, (x.tile (tileBase x.o + q)).tag = .clear)
    ∧ (∀ q ∈ x.quarters, mmaLine x q + bLines (mmaB x.o) ≤ 8192 ∧ ∀ j, j < bLines (mmaB x.o) →
        LineOf (s.core x.E.W.coreNo) x.E.world (mmaLine x q + j))
    ∧ SpanOk x x.act (matAddr x) (aBytes (mmaA x.o)) (aAlign (mmaA x.o))
    ∧ (s.core x.E.W.coreNo).mq.length + x.quarters.length ≤ 64
    ∧ LReady u i y ∧ 64 < (u.core y.E.W.coreNo).mq.length + y.quarters.length := by
  have hl : ∀ q ∈ (word (arrayed 63 [] (lgrp 1)) (.mma mmaOp)).quarters,
      mmaLine (word (arrayed 63 [] (lgrp 1)) (.mma mmaOp)) q + bLines (mmaB (word (arrayed 63 [] (lgrp 1)) (.mma mmaOp)).o) ≤ 8192
      ∧ ∀ j, j < bLines (mmaB (word (arrayed 63 [] (lgrp 1)) (.mma mmaOp)).o) → (((arrayed 63 [] (lgrp 1)).core 0).lines.find?
        fun l => l.line == mmaLine (word (arrayed 63 [] (lgrp 1)) (.mma mmaOp)) q + j).any (fun l => l.world == 1) = true := by
    decide +kernel
  refine ⟨lready_of (by decide +kernel), by decide +kernel, ?_, ?_, by decide +kernel, by decide +kernel, fun q hq => ⟨(hl q hq).1, fun j hj => ?_⟩,
    lanes_all (by decide +kernel), by decide +kernel, lready_of (by decide +kernel), by decide +kernel⟩
  · show _ ∨ _; decide +kernel
  · show ∀ q ∈ _, _; decide +kernel
  · have h := (hl q hq).2 j hj
    obtain ⟨l, h1⟩ : ∃ l, ((arrayed 63 [] (lgrp 1)).core 0).lines.find?
        (fun l => l.line == mmaLine (word (arrayed 63 [] (lgrp 1)) (.mma mmaOp)) q + j) = some l :=
      Option.isSome_iff_exists.mp (by revert h; cases List.find? _ _ <;> simp)
    rw [h1] at h
    exact ⟨l, h1, beq_iff_eq.mp h⟩

/-- An MMA of no lane, and one of the `.ow` form on an idle tile. -/
theorem wit_MatrixOperations_forms : let s := arrayed 0 [] (lgrp 1)
    let i : Instr := .mma (off mmaOp)
    let j : Instr := .mma { mmaOp with aux := 8 }
    (LReady s i (word s i) ∧ (word s i).quarters = []) ∧ LReady s j (word s j) ∧ mmaOw (word s j).o = true ∧ TilesIdle (word s j) s := by
  refine ⟨⟨lready_of (by decide +kernel), by decide +kernel⟩, lready_of (by decide +kernel), by decide +kernel, ?_⟩
  show ∀ q ∈ _, ∀ p ∈ _, _
  decide +kernel

/-- An i8 operation whose one active row, the first, is of 128 zeros. -/
def qi8 : Quarter := { qop 1 with fa := 5, fb := 5, rows := some { addr := 128, exp := 0 } :: List.replicate 7 none }

/-- The head of the queue; an operation behind it on another tile that fuses with the pass, and one past the pass's 16. -/
theorem wit_MatrixOperations_array :
    let u := (mk (lgrp 1)).setCore 0 { Core.reset with mq := [qi8, qop 2], pass := some { line := 0, fb := 0, clk := 0, count := 15 }, arr := [qop 3] }
    let v := (mk (lgrp 1)).setCore 0 { Core.reset with mq := [qop 2], pass := some { line := 0, fb := 0, clk := 0, count := 16 } }
    (Enters (u.core 0) 0 qi8 ∧ ∃ G old W, u.group? 0 0 = some G ∧ G.tiles[1]? = some old ∧ old.cells.length = 1024 ∧ u.wgs[0]? = some W
      ∧ qi8.fa = 5 ∧ qi8.fb = 5 ∧ Settled u (.lines 0) ∧ Settled u (.scratch 0) ∧ qi8.rows.getD 1 none = none
      ∧ qi8.rows.getD 0 none = some { addr := 128, exp := 0 })
    ∧ (Enters (u.core 0) 1 (qop 2) ∧ ∃ p, (u.core 0).pass = some p ∧ MayFuse p (qop 2))
    ∧ (Enters (v.core 0) 0 (qop 2) ∧ ∀ p, (v.core 0).pass = some p → ¬ MayFuse p (qop 2))
    ∧ ((u.core 0).arr)[0]? = some (qop 3) := by
  have hf : MayFuse { line := 0, fb := 0, clk := 0, count := 15 } (qop 2) := ⟨rfl, rfl, by decide, by decide, by decide⟩
  refine ⟨⟨⟨rfl, .inl rfl, fun j _ h => absurd h (Nat.not_lt_zero j)⟩, _, _, _, rfl, rfl, rfl, rfl, rfl, rfl, settled rfl, settled rfl,
      rfl, rfl⟩,
    ⟨⟨rfl, .inr ⟨_, rfl, hf⟩, fun j p h hp => ?_⟩, _, rfl, hf⟩, ⟨⟨rfl, .inl rfl, fun j _ h => absurd h (Nat.not_lt_zero j)⟩, fun p hp => ?_⟩, rfl⟩
  · cases Nat.lt_one_iff.mp h
    cases hp
    decide
  · cases hp
    exact fun h => absurd h.2.2.2.2 (by decide)

theorem wit_TileWords : let s := mk (lgrp 1)
    let z : Instr := .mzero bare
    let r : Instr := .mrd { bare with ty := .f32, vd := 1 }
    let d : Instr := .mdrn { bare with ty := .f32 }
    (LReady s z (word s z) ∧ TilesIn (word s z) ∧ TilesIdle (word s z) s)
    ∧ (LReady s r (word s r) ∧ TilesIn (word s r) ∧ TilesIdle (word s r) s ∧ ∀ q ∈ (word s r).quarters, ((word s r).tile (tileBase (word s r).o + q)).tag = .clear)
    ∧ LReady s d (word s d) ∧ TilesIn (word s d) ∧ TilesIdle (word s d) s ∧ enables (word s d).G.L.md = 0
      ∧ SpanOk (word s d) (word s d).act (matAddr (word s d)) (128 * tyBytes .f32) (tyBytes .f32) := by
  refine ⟨⟨lready_of (by decide +kernel), ?_, ?_⟩, ⟨lready_of (by decide +kernel), ?_, ?_, by decide +kernel⟩, lready_of (by decide +kernel), ?_, ?_,
    by decide +kernel, lanes_all (by decide +kernel)⟩ <;> (show ∀ q ∈ _, _) <;> decide +kernel

/-- A column scale at address 0 of the allotment, and what the first element stored is nearest to. -/
theorem wit_TileWords_scale : let s := mk (lgrp 1)
    let d : Instr := .mdrn { bare with ty := .f32 }
    let x := word s d
    (∃ v, x.o.c = .reg v ∧ ∀ q ∈ x.quarters, (((x.G.lane (x.quarterLead q)).r v.toNat).toNat + 512 ≤ x.E.W.size)
      ∧ ((x.G.lane (x.quarterLead q)).r v.toNat).toNat % 4 = 0) ∧ memWf x.E.W.scratch = true
    ∧ x.md.rnd = .rne ∧ x.md.fluIn = false ∧ x.md.fluRes = false ∧ inMask x.act 0 = true
    ∧ CellIs (x.tile (tileBase x.o + 0)) 0 0 ∧ ScaleIs x 0 0 0 ∧ ∃ r top, readF (fmtOf .f32) (subElem 32 (x.b .f32 0) 0) = .fin r
      ∧ readF (fmtOf .f32) (fmtOf .f32).maxMag = .fin top ∧ (0 : Rat) * ratOf r * 0 ≤ ratOf top ∧ -ratOf top ≤ (0 : Rat) * ratOf r * 0 := by
  refine ⟨⟨0, rfl, by decide +kernel⟩, by decide +kernel, by decide +kernel, by decide +kernel, by decide +kernel, by decide +kernel, ?_, ?_, _, _,
    rfl, rfl, by decide +kernel, by decide +kernel⟩
  · show _ = _; rfl
  · exact ⟨_, rfl, by decide +kernel⟩

/-- Rows that are stored from 512 on, and column scales from 0 on. -/
theorem wit_TileWords_stays : let s := mk (lanesAt 512 512)
    let d : Instr := .mdrn { bare with ty := .f32, a := .reg 2 }
    let x := word s d
    LReady s d x ∧ SpanOk x x.act (matAddr x) (128 * tyBytes x.o.ty) (tyBytes x.o.ty) ∧ x.o.c = .reg 0 ∧ inMask x.act 0 = true
    ∧ ScaleStays s x 0 0 := by
  refine ⟨lready_of (by decide +kernel), lanes_all (by decide +kernel), by decide +kernel, by decide +kernel, fun v hv => ⟨settled rfl, ?_⟩⟩
  cases (show Src.reg 0 = Src.reg v from hv)
  exact lanes_all (by decide +kernel)

/-- MWT with nothing left, and with an operation of its group in the queue. -/
theorem wit_TileWords_mwt : let s := mk (lgrp 1)
    let u := arrayed 1 [] (lgrp 1)
    let i : Instr := .mwt bare
    LReady s i (word s i) ∧ (∀ q ∈ (s.core 0).mq ++ (s.core 0).arr, ¬ (q.wg = 0 ∧ q.group = 0))
    ∧ LReady u i (word u i) ∧ ∃ q ∈ (u.core (word u i).E.W.coreNo).mq, q.wg = (word u i).E.w ∧ q.group = (word u i).E.g
        ∧ q.stamp ≤ (word u i).G.S.stamp :=
  ⟨lready_of (by decide +kernel), by decide +kernel, lready_of (by decide +kernel), qop 1, by decide +kernel, rfl, rfl, by decide +kernel⟩

theorem wit_LaneSystemWords : let s := mk (lgrp 1)
    let i : Instr := .fencel { bare with aux := 7 }
    let j : Instr := .trapl { bare with imm := 9 }
    let k : Instr := .trapl { off bare with imm := 9 }
    let m : Instr := .markl { bare with imm := 5 }
    (LReady s i (word s i) ∧ FenceClear s (word s i).E ∧ (word s i).G.T.elems = [] ∧ s.reds = []) ∧ (LReady s k (word s k) ∧ (word s k).act = 0)
    ∧ (LReady s j (word s j) ∧ (word s j).act ≠ 0 ∧ TrapOpen (word s j).E ∧ (∀ u, (word s j).G.S.stall ≠ .sleep u) ∧ (word s j).G.S.stall ≠ .kswap)
    ∧ LReady s m (word s m) :=
  ⟨⟨lready_of (by decide +kernel), ⟨(fun _ hr => nomatch hr), .inr (by decide +kernel)⟩, by decide +kernel, rfl⟩,
    ⟨lready_of (by decide +kernel), by decide +kernel⟩, ⟨lready_of (by decide +kernel), by decide +kernel, ⟨by decide +kernel, by decide +kernel, by decide +kernel⟩,
      fun _ => Stall.noConfusion, Stall.noConfusion⟩, lready_of (by decide +kernel)⟩

/-! ### Engines at work, dispatch and the Dusk bank -/

/-- A started job. -/
def begunJob (kind : JobKind) (d : List W64) (v : Option Nat) (owed : List Owed) (done : List JobUnit) : Job :=
  { formed kind d (.scratch 8) with state := .started, version := v, keys := [5], owed := owed, done := done }

/-- The module with one job. -/
def one (j : Job) : State := withJobs (mk grp) [j]

/-- A COPY of one sector from table 1 to the scratchpad (mode 0), back (mode 1), and within the scratchpad (mode 2). -/
def copyDesc (mode : Nat) : List W64 := if mode = 2 then [2, 64, 0, 8] else [BitVec.ofNat 64 mode, 0, 0, 8]

theorem wit_JobsRun_start : let j := formed (.copy 3 0) (copyDesc 0) (.scratch 8)
    let s := one j
    s.jobs[0]? = some j ∧ j.kind.isCopy = true ∧ j.state = .forming ∧ Gathered s j ∧ NoneAhead s 0 j
    ∧ ∃ q E, j.slices.head? = some q ∧ envAt s j.wg q.group = some E ∧ ∀ slot ∈ j.tabSlots, ∀ id, slotOf s E.La slot ≠ .absent id := by
  refine ⟨rfl, rfl, rfl, fun g G hG _ => ?_, fun k a hk ha => ?_, _, _, rfl, rfl, fun slot hs id h => ?_⟩
  · match g, hG with
    | 0, _ => exact ⟨_, List.mem_cons_self, rfl⟩
    | _ + 1, hG => cases hG
  · match k, hk, ha with
    | 0, hk, _ => exact absurd rfl hk
    | _ + 1, _, ha => cases ha
  · cases List.mem_singleton.mp hs
    cases h

/-- A started job that has brought one slice. -/
theorem job_ready (kind : JobKind) (d : List W64) (v : Option Nat) (o : List Owed) (u : List JobUnit) :
    JobReady (one (begunJob kind d v o u)) 0 0 (begunJob kind d v o u) { group := 0, seq := 0, d := d, ctr := .scratch 8 } (env (mk grp)) :=
  ⟨rfl, rfl, rfl, rfl⟩

/-- A sector of each mode, of table 1 and of the allotment; one past the table's 1024 bytes, where the table offset is 1024. -/
theorem wit_JobsRun_sector : ∀ mode ∈ [0, 1, 2], let j := begunJob (.copy 3 0) (copyDesc mode) (some 0) [] []
    let s := one j
    let c := copyD (copyDesc mode)
    let E := env (mk grp)
    let T := (bnd (mk grp) 0 0 false).t
    c.mode = mode ∧ 0 < c.receivers ∧ 0 < c.rowsPer ∧ 0 < c.rbytes / 32 ∧ c.mc = false ∧ Takes s E c 0 0 ∧ memWf E.W.scratch = true
    ∧ s.wgs[0]? = some E.W ∧ s.table? 0 = some T ∧ memWf T.rows = true
    ∧ (mode ≠ 2 → c.tableAt T.desc.width 0 0 0 + 32 ≤ T.desc.rows * T.desc.width ∧ c.tableAt T.desc.width 0 0 0 % 32 = 0)
    ∧ RowsOpen s 0 T E.world (if c.mode = 1 then .wr else .rd) (c.tableAt T.desc.width 0 0 0) 32 ∧ NoBad T (c.tableAt T.desc.width 0 0 0) 32
    ∧ (s.core j.core).cache = [] ∧ Settled s (.rows 0) ∧ Settled s (.scratch 0) := by
  intro mode hm j s c E T
  have h : (c.mode = mode ∧ 0 < c.receivers ∧ 0 < c.rowsPer ∧ 0 < c.rbytes / 32 ∧ c.mc = false ∧ memWf E.W.scratch = true
      ∧ memWf T.rows = true ∧ (mode ≠ 2 → c.tableAt T.desc.width 0 0 0 + 32 ≤ T.desc.rows * T.desc.width ∧ c.tableAt T.desc.width 0 0 0 % 32 = 0)) := by
    revert mode
    decide +kernel
  obtain ⟨h1, h2, h3, h4, h5, h6, h7, h8⟩ := h
  refine ⟨h1, h2, h3, h4, h5, ?_, h6, rfl, rfl, h7, h8, rows_open rfl rfl rfl (by decide), no_bad rfl, rfl, settled rfl, settled rfl⟩
  unfold Takes
  rw [h5]
  rfl

/-- A sector past the table, and one of a multicast, whose one receiver is the workgroup itself. -/
theorem wit_JobsRun_far : let c := copyD [0, 1024, 0, 8]
    let m := copyD [0x1000, 0, 0, 8]
    let s := one (begunJob (.copy 3 0) [0x1000, 0, 0, 8] (some 0) [] [])
    let T := (bnd (mk grp) 0 0 false).t
    (T.desc.rows * T.desc.width < c.tableAt T.desc.width 0 0 0 + 32 ∧ 0 < c.receivers ∧ 0 < c.rowsPer ∧ 0 < c.rbytes / 32 ∧ c.mode ≠ 2)
    ∧ m.mc = true ∧ m.mode = 0 ∧ Takes s (env (mk grp)) m 0 0 := by
  refine ⟨by decide +kernel, by decide, by decide, ?_⟩
  show _ ∧ (∃ V, _ ∧ _ ∧ _) ∧ _
  exact ⟨by decide +kernel, ⟨_, rfl, ⟨by decide +kernel, by decide +kernel, by decide +kernel⟩, .inl rfl⟩, fun k _ h => absurd h (Nat.not_lt_zero k)⟩

/-- A GATHER of one element of 32 bytes: of table 1, where the key 5 is there and the key 16 is out of range, and of table 2 for the key
8, which is absent. -/
theorem wit_JobsRun_gather : let d : List W64 := [0, 0, 31#64 <<< 32, 8]
    let j := begunJob (.gather 3) d (some 0) [] []
    let s := one j
    let c := gatherD d
    let T := (bnd (mk grp) 0 0 false).t
    let U := (bnd (mk grp) 1 0 false).t
    0 < c.count ∧ c.mode = 0 ∧ memWf (env (mk grp)).W.scratch = true
    ∧ (T.rowOf (c.rids && !T.desc.isArray) (j.keys.getD 0 0) = .ok { rid := 5, slot := 5, addr := 320 }
        ∧ RowsOpen s 0 T (env (mk grp)).world .rd (320 + c.off) c.n ∧ NoBad T (320 + c.off) c.n)
    ∧ U.rowOf (c.rids && !U.desc.isArray) 8 = .error .keyAbsent
    ∧ T.rowOf (c.rids && !T.desc.isArray) 16 = .error .keyRange ∧ Cause.keyRange ≠ .keyAbsent :=
  ⟨by decide +kernel, by decide +kernel, by decide +kernel, ⟨rfl, rows_open rfl rfl rfl (by decide), no_bad rfl⟩, rfl, rfl, by decide⟩

/-- A row of 64 bytes with eight codes of 8 bits after their scale and offset. -/
def coded : Desc := { desc 1 0 with nranges := 1, ranges := [0#2 ++ 0#14 ++ 1#1 ++ 3#15] }

/-- Elements of mode 1: the eight codes at the start of the row; nine of them; and codes where no range of codes starts. -/
theorem wit_JobsRun_codes : let c := gatherD [0x40, 0, 7#64 <<< 32, 8]
    let T := blankTable coded 0
    (c.mode = 1 ∧ c.n = 8 ∧ c.out = 16 ∧ T.sealed = none ∧ (∃ q, T.desc.codedAt c.off = some q ∧ c.first + c.n ≤ q.2) ∧ memNat T.rows 0 2 = 0)
    ∧ (∀ q, T.desc.codedAt 0 = some q → q.2 < (gatherD [0x40, 0, 8#64 <<< 32, 8]).first + (gatherD [0x40, 0, 8#64 <<< 32, 8]).n)
    ∧ ∀ q, T.desc.codedAt 4 = some q → q.2 < c.first + c.n := by
  refine ⟨⟨by decide +kernel, by decide +kernel, by decide +kernel, rfl, ⟨(0, 8), by decide +kernel, by decide +kernel⟩, by decide +kernel⟩,
    by decide +kernel, ?_⟩
  have : (blankTable coded 0).desc.codedAt 4 = none := by decide +kernel
  exact fun q h => by rw [this] at h; cases h

/-- What a code of zero delivers, its scale and offset being zero. -/
theorem wit_JobsRun_delivers : ∃ p top, readF (fmtOf .f16) 0 = .fin p ∧ readF (fmtOf .bf16) (fmtOf .bf16).maxMag = .fin top
    ∧ (0 : Rat) * ratOf p + ratOf p ≤ ratOf top ∧ -ratOf top ≤ (0 : Rat) * ratOf p + ratOf p :=
  ⟨_, _, rfl, rfl, by decide +kernel, by decide +kernel⟩

theorem wit_JobsRun_bload : let d : List W64 := [0, 0, 0, 8]
    let s := one (begunJob .bload d (some 0) [] [])
    let T := (bnd (mk grp) 0 0 false).t
    Settled s (.rows 0) ∧ 0 < (bloadD d).lines ∧ LineFree s 0 ((bloadD d).line0 + 0) (env (mk grp)).world ∧ s.table? 0 = some T ∧ T.sealed = none
    ∧ ∀ z, z < 32 → RowsOpen s 0 T (env (mk grp)).world .rd ((bloadD d).tofs + 1024 * 0 + 32 * z) 32
        ∧ NoBad T ((bloadD d).tofs + 1024 * 0 + 32 * z) 32 :=
  ⟨settled rfl, by decide +kernel, (fun _ h => nomatch h), rfl, rfl, fun _ _ => ⟨rows_open rfl rfl rfl (by decide), no_bad rfl⟩⟩

/-- Two sectors owed, of which one is added; nothing owed and the one sector moved; a counter in a table. -/
theorem wit_JobsRun_count : let j := begunJob (.copy 3 0) (copyDesc 0) (some 0) [{ slice := 0, recv := 0, n := 2 }] []
    let k := begunJob (.copy 3 0) (copyDesc 0) (some 0) [] [{ slice := 0, recv := 0, row := 0, sec := 0 }]
    let T := (bnd (mk grp) 0 0 false).t
    ((∃ o, j.owed.find? (fun o => o.slice == 0 && o.recv == 0) = some o ∧ 1 ≤ o.n) ∧ Takes (one j) (env (mk grp)) (copyD (copyDesc 0)) 0 0
      ∧ (one j).wgs[0]? = some (env (mk grp)).W ∧ memWf (env (mk grp)).W.scratch = true)
    ∧ ((one k).jobs[0]? = some k ∧ k.state = .started ∧ k.done.length = k.units ∧ k.owed = [])
    ∧ (one j).table? 0 = some T ∧ memWf T.rows = true ∧ RowsOpen (one j) 0 T (env (mk grp)).world .at_ 1016 8 ∧ NoBad T 1016 8 :=
  ⟨⟨⟨_, rfl, by decide⟩, rfl, rfl, by decide +kernel⟩, ⟨rfl, rfl, by decide +kernel, rfl⟩, rfl, by decide +kernel,
    rows_open rfl rfl rfl (by decide), no_bad rfl⟩

/-- The module with a bind record at core 0, its workgroup at a place, and a launch that has begun what it says. -/
def binding (d : List W64) (place : Place) (begun : List Nat) (n : Nat) : State :=
  let s := (mk grp).setCore 0 { Core.reset with slots := [d] }
  { s with drv := { s.drv with launches := [{ lnch with begun := begun }] }
           wgs := (s.wgs.map fun W => { W with place := place }).take n }

/-- The record of an op for workgroup 0 of launch 1 in group slot 0. -/
def bindD (op : BitVec 4) : List W64 := [op ++ 0#28 ++ 1#32, 1, 0, 0, 0, 0, 0, 0]

/-- The record at the head of core 0. -/
theorem head_of {s : State} {d : List W64} (h1 : (s.core 0).swapReq = false) (h2 : (s.core 0).slotStop = false)
    (h3 : (s.core 0).slots.head? = some d) : Head s 0 (bindRec d) := ⟨h1, h2, d, h3, rfl⟩

/-- A start record that is due; one whose launch waits for another that does not exist; one of a workgroup that has begun; one of op 5;
one of a launch that has ended. -/
theorem wit_BindRecords_start : let s := binding (bindD 1) .active [] 0
    let w : State := { s with drv := { s.drv with launches := [{ lnch with begun := [], deps := [{ producer := 9, tile := false, cshift := 0, base := 0 }] }] } }
    let b := binding (bindD 1) .active [0] 0
    let e : State := { s with drv := { s.drv with launches := [{ lnch with status := some { frame := 0, err := false, inner := 0, cause := 0 } }] } }
    (∃ La, Head s 0 (bindRec (bindD 1)) ∧ s.launch? 1 = some La ∧ La.status = none ∧ s.kernel? La.kernel = some kern
      ∧ StartOk s 0 La kern (bindRec (bindD 1)) ∧ StartDue s La 0)
    ∧ (∃ La, w.launch? 1 = some La ∧ StartOk w 0 La kern (bindRec (bindD 1)) ∧ ¬ StartDue w La 0)
    ∧ (∃ La, b.launch? 1 = some La ∧ ¬ StartOk b 0 La kern (bindRec (bindD 1)))
    ∧ 4 < (bindRec (bindD 5)).op ∧ Head (binding (bindD 5) .active [] 0) 0 (bindRec (bindD 5))
    ∧ ∃ La, e.launch? (bindRec (bindD 1)).launch = some La ∧ La.status ≠ none ∧ (bindRec (bindD 1)).resv = false := by
  have room : ∀ s : State, s.wgs = [] → FitsIn (bankHeld s 0 .active) ⟨0, [0], 16, 4, 0, 1024⟩ := by
    intro s hs
    have : bankHeld s 0 .active = [] := by simp [bankHeld, hs]
    rw [this]
    unfold FitsIn
    decide
  have ok : ∀ s ds, s.wgs = [] → StartOk s 0 { lnch with begun := [], deps := ds } kern (bindRec (bindD 1)) := by
    intro s ds hw
    refine ⟨by decide, by decide, ?_, rfl, List.not_mem_nil, ?_, room s hw⟩
    · show ∀ k, k < 7 → if k + 1 < [1, 1].length then _ < [1, 1].getD (k + 1) 0 else _
      decide
    · intro l h2 h3
      exact absurd (show l < 2 from h3) (by omega)
  refine ⟨⟨_, head_of rfl rfl rfl, rfl, rfl, rfl, ok _ [] rfl, ⟨(fun _ h => nomatch h), .inl (by decide), fun _ h => nomatch h⟩⟩,
    ⟨_, rfl, ok _ _ rfl, fun h => ?_⟩, ⟨_, rfl, fun h => h.fresh (by decide)⟩, by decide, head_of rfl rfl rfl,
    _, rfl, by decide, by decide⟩
  rcases h.deps _ List.mem_cons_self with ⟨-, h, -⟩ | ⟨P, hP, -⟩
  · cases h
  · cases hP

/-- Workgroup 0 needs tile 0 of a launch: one that has completed, one whose tile is done, one of another module whose tile was ready
when the consumer left it. -/
theorem wit_BindRecords_dependence : let d : Dependence := { producer := 1, tile := true, cshift := 0, base := 0 }
    let s := fun (La : Launch) => let s := mk grp; ({ s with drv := { s.drv with launches := [La] } } : State)
    DepMet (s { lnch with status := some { frame := 0, err := false, inner := 0, cause := 0 } }) 0 { d with tile := false }
    ∧ DepMet (s { lnch with done := [0] }) 0 d ∧ DepMet (mk grp) 0 { d with producer := 9, known := some (0, [0]) } := by
  refine ⟨.inr ⟨_, rfl, .inl (by decide)⟩, .inr ⟨_, rfl, .inr ⟨rfl, ?_⟩⟩, .inl ⟨rfl, rfl, (0, [0]), rfl, ?_⟩⟩
  · show ∀ k, k < 2 ^ 0 → _ < 1 → _ ∈ [0]
    decide +kernel
  · exact List.mem_singleton.mpr rfl

/-- A resume and a fill that are in order; one whose record names another workgroup; one that waits; one that has completed; a swap. -/
theorem wit_BindRecords_resume : let s := binding (bindD 2) .resumable [0] 1
    let u := binding (bindD 3) .resumable [0] 1
    let v := binding [(4#4 ++ 0#60), 0, 0, 0, 0, 0, 0, 0] .resumable [0] 1
    let x : List W64 := [2#4 ++ 0#28 ++ 1#32, 1, 7, 0, 0, 0, 0, 0]
    let sw := binding (bindD 2) .shadow [0] 1
    let cm := binding (bindD 2) .completed [0] 1
    (∃ W, Head s 0 (bindRec (bindD 2)) ∧ s.wgs[0]? = some W ∧ W.place = .resumable ∧ ResumeFits s 0 (bindRec (bindD 2)) W .active
      ∧ WholeImage s 0 W ∧ ∀ G ∈ W.groups, G.fin = .running → G.stopped = none → Restorable s G)
    ∧ (∃ W, Head u 0 (bindRec (bindD 3)) ∧ u.wgs[0]? = some W ∧ (u.core 0).shadow ≠ .draining ∧ ResumeFits u 0 (bindRec (bindD 3)) W .incoming
      ∧ WholeImage u 0 W)
    ∧ (∃ W, (binding x .resumable [0] 1).wgs[0]? = some W ∧ (bindRec x).image = 0 ∧ ¬ ResumeFits (binding x .resumable [0] 1) 0 (bindRec x) W .active)
    ∧ (∃ W, sw.wgs[0]? = some W ∧ W.place = .shadow ∧ (bindRec (bindD 2)).w = W.w ∧ W.die = 0
        ∧ (slotBits (bindRec (bindD 2)).gslots).length = W.groups.length)
    ∧ (∃ W, cm.wgs[0]? = some W ∧ W.place = .completed)
    ∧ Head v 0 (bindRec [(4#4 ++ 0#60), 0, 0, 0, 0, 0, 0, 0]) ∧ (bindRec [(4#4 ++ 0#60), 0, 0, 0, 0, 0, 0, 0]).resv = false := by
  refine ⟨⟨_, head_of rfl rfl rfl, rfl, rfl, ?_, ?_, ?_⟩, ⟨_, head_of rfl rfl rfl, rfl, by decide, ?_, ?_⟩, ⟨_, rfl, by decide, ?_⟩,
    ⟨_, rfl, rfl, by decide, rfl, by decide +kernel⟩, ⟨_, rfl, rfl⟩, head_of rfl rfl rfl, by decide⟩
  · unfold ResumeFits FitsIn; decide +kernel
  · unfold WholeImage; decide +kernel
  · exact fun G hG _ _ => by cases List.mem_singleton.mp hG; exact .inl ⟨rfl, by decide⟩
  · unfold ResumeFits FitsIn; decide +kernel
  · unfold WholeImage; decide +kernel
  · unfold ResumeFits FitsIn; decide +kernel

/-- The module with its shadow bank in a state, and a swap requested. -/
def shaded (st : ShadowState) (place : Place) : State :=
  let s := binding [] place [0] 1
  s.setCore 0 { s.core 0 with shadow := st, swapReq := true, slots := [] }

/-- A swap with the workgroup active, and with it incoming; a drain; a fill. -/
theorem wit_DuskBank : let s := shaded .empty .active
    let r := shaded .ready .incoming
    let d := shaded .draining .shadow
    ((s.core 0).swapReq = true ∧ (s.core 0).shadow = .empty ∧ ∀ W ∈ s.wgs, W.place ≠ .incoming)
    ∧ ((r.core 0).swapReq = true ∧ (r.core 0).shadow = .ready ∧ ∀ W ∈ r.wgs, W.coreNo = 0 → W.place = .incoming → ∀ G ∈ W.groups,
        G.fin = .running → G.stopped = none → Restorable r G ∧ G.inFlight = false)
    ∧ ((d.core 0).shadow = .draining ∧ ∃ W, d.wgs = [W] ∧ W.place = .shadow ∧ WholeImage d 0 W ∧ W.faults = [])
    ∧ ((shaded .filling .active).core 0).shadow = .filling := by
  refine ⟨⟨rfl, rfl, by decide +kernel⟩, ⟨rfl, rfl, fun W hW _ _ G hG _ _ => ?_⟩, ⟨rfl, _, rfl, rfl, ?_, rfl⟩, rfl⟩
  · cases List.mem_singleton.mp hW
    cases List.mem_singleton.mp hG
    exact ⟨.inl ⟨rfl, by decide⟩, by decide +kernel⟩
  · unfold WholeImage; decide +kernel

theorem wit_WorkgroupLife_child : let s := tasked 1
    ∃ x rest La K, (s.core 0).tasks = x :: rest ∧ s.launch? x.launch = some La ∧ s.kernel? La.kernel = some K ∧ TaskRoom s 0 La K :=
  ⟨_, _, _, _, rfl, rfl, rfl, by decide +kernel, by decide +kernel, by decide +kernel, by decide +kernel, fun _ _ _ h => nomatch h⟩

theorem wit_WorkgroupLife_end : let s := mk { grp with fin := .exited }
    ∃ W, s.wgs[0]? = some W ∧ AllOver s 0 W := by
  refine ⟨_, rfl, ?_⟩
  unfold AllOver
  decide +kernel

/-- A workgroup in its image, whose service needs slab 0 of table 1. -/
def imaged : State :=
  let s := mk grp
  { s with wgs := s.wgs.map fun W => { W with place := .image, faults := [{ group := 0, split := none, pc := 0, cause := .rowAbsent, needs := [.slab 0 0] }] } }

theorem wit_WorkgroupLife_service : ∃ W La C, imaged.wgs[0]? = some W ∧ W.place = .image ∧ Need.slab 0 0 ∈ W.faults.flatMap (·.needs)
    ∧ imaged.launch? W.launch = some La ∧ imaged.context? La.ctx = some C ∧ C.ended = none :=
  ⟨_, _, _, rfl, rfl, by decide +kernel, rfl, rfl, rfl⟩

/-- CLOCK at the limit of 1 ms. -/
theorem wit_WorkgroupLife_limit : let s0 := mk grp
    let s : State := { s0 with time := { s0.time with clock := 1000000 }
                               drv := { s0.drv with launches := [{ lnch with tlimit := 1 }] } }
    ∃ La C from_, s.launch? 1 = some La ∧ La.status = none ∧ La.tlimit ≠ 0 ∧ La.started = some from_
      ∧ from_.toNat + 1000000 * La.tlimit ≤ s.time.clock.toNat ∧ s.context? La.ctx = some C ∧ C.ended = none :=
  ⟨_, _, _, rfl, rfl, by decide, rfl, by decide, rfl, rfl⟩

/-! ### Clients and debugging -/

/-- The doublewords of a body. -/
def dws (l : List Nat) : List Byte := l.flatMap (natToBytes 8)

theorem asks (code : BitVec 16) (body : List Byte) (G : Group) (hc : closesSession (msg code body) = false) (hl : body.length < 2 ^ 32) :
    AsksIn (mk G) (msg code body) 7 ctxt := by
  refine ⟨⟨rfl, ⟨_, rfl, rfl⟩, rfl, hc, rfl, ?_⟩, rfl, rfl, rfl⟩
  show body.length = (BitVec.ofNat 32 body.length).toNat
  rw [BitVec.toNat_ofNat, Nat.mod_eq_of_lt hl]

/-- CONTEXT_CREATE of a fresh world, of world 1, and of world 2, which the tenant does not hold; CONTEXT_END. -/
theorem wit_ContextRequests_context :
    (Asks (mk grp) (msg 1 [0, 0]) 7 ∧ le (msg 1 [0, 0]).body 0 2 = 0 ∧ WorldOpen (mk grp) 7 0)
    ∧ (Asks (mk grp) (msg 1 [1, 0]) 7 ∧ le (msg 1 [1, 0]).body 0 2 = 1 ∧ WorldOpen (mk grp) 7 1)
    ∧ (Asks (mk grp) (msg 1 [2, 0]) 7 ∧ le (msg 1 [2, 0]).body 0 2 = 2 ∧ ¬ WorldOpen (mk grp) 7 2)
    ∧ AsksIn (mk grp) (msg 2 []) 7 ctxt ∧ (msg 2 []).body = [] :=
  ⟨⟨(asks _ _ _ (by decide) (by decide)).1, by decide, (by decide +kernel : _ < _)⟩,
    ⟨(asks _ _ _ (by decide) (by decide)).1, by decide, (by decide +kernel : holdsWorld (mk grp) 7 1 = true)⟩,
    ⟨(asks _ _ _ (by decide) (by decide)).1, by decide, (by decide +kernel : ¬ holdsWorld (mk grp) 7 2 = true)⟩,
    asks _ _ _ (by decide) (by decide), rfl⟩

/-- A container without sections. -/
def emptyFile : List Byte := [0x4F, 0x42, 0x47, 0x31, 1, 0, 0, 0, 16, 0, 0, 0, 0, 0, 0, 0]

theorem wit_ContextRequests_load : AsksIn (mk grp) (msg 0x10 emptyFile) 7 ctxt
    ∧ (∃ ss, readContainer (msg 0x10 emptyFile).body = some ss
        ∧ (kernelIndices ss).mapM (readKernel ((kernelIndices ss).foldl (Finals.add ss) (mk grp).drv.finals) ss 1 7) = some [])
    ∧ AsksIn (mk grp) (msg 0x11 [1, 0, 0, 0]) 7 ctxt
    ∧ OwnKernel (mk grp) 7 (BitVec.ofNat 32 (le (msg 0x11 [1, 0, 0, 0]).body 0 4)) kern :=
  ⟨asks _ _ _ (by decide) (by decide), ⟨_, rfl, rfl⟩, asks _ _ _ (by decide) (by decide), rfl, rfl, (by decide +kernel : holdsWorld (mk grp) 7 1 = true)⟩

/-- The module where the rows of table 1 have 128 bytes. -/
def broad : State :=
  let s := mk grp
  { s with mem := { s.mem with tables := blankTable { desc 1 0 with width := 128 } 0 :: tabs.drop 1 } }

/-- A LAUNCH of kernel 1 in world 1 with one workgroup, table 1 in slot 0, and its counter at the start of that table. -/
def launchBody : List Byte :=
  [0] ++ dws [2 ^ 32 + 2 ^ 16 + 16, 0xC000000000000000, 0, 0, 2 ^ 56, 2 ^ 32 + 1, 0, 0, 0, 0, 0, 0, 0, 0, 0, 0, 2 ^ 32]

theorem wit_ContextRequests_launch : ∃ r, AsksIn broad (msg 0x40 launchBody) 7 ctxt ∧ readLaunch (msg 0x40 launchBody).body = some r
    ∧ OwnKernel broad 7 r.kernel kern ∧ LaunchOk broad 7 ctxt kern r := by
  refine ⟨_, ⟨⟨rfl, ⟨_, rfl, rfl⟩, rfl, by decide, rfl, by decide⟩, rfl, rfl, rfl⟩, rfl, ⟨rfl, rfl, (by decide +kernel : holdsWorld (mk grp) 7 1 = true)⟩,
    ⟨by decide, fun p q h => nomatch h⟩, by decide, ⟨by decide, by decide, by decide, ?_⟩, (fun _ h => nomatch h), (fun _ h => nomatch h), ?_,
    by decide, .inl (by decide), ?_⟩
  · intro i h2 h3; exact absurd (show i < 2 from h3) (by omega)
  · intro b hb
    have hb : b = ⟨0, 1, false⟩ := by revert b; decide +kernel
    subst hb
    exact ⟨0, _, rfl, rfl, (fun _ h => nomatch h), .inl rfl, .inl rfl⟩
  · exact ⟨by decide, by decide, by decide, ⟨0, 1, false⟩, 0, _, rfl, rfl, rfl, rfl, rfl, by decide, by decide, granted rfl rfl (by decide),
      granted rfl rfl (by decide)⟩

theorem wit_ContextRequests_wait : AsksIn (mk grp) (msg 0x41 [1, 0, 0, 0]) 7 ctxt
    ∧ (mk grp).launch? (BitVec.ofNat 32 (le (msg 0x41 [1, 0, 0, 0]).body 0 4)) = some lnch ∧ holdsWorld (mk grp) 7 lnch.world = true
    ∧ AsksIn (mk grp) (msg 0x60 (List.replicate 32 5)) 7 ctxt ∧ ((mk grp).tenant? 7).isSome = true
    ∧ (∀ p ∈ (mk grp).drv.pend, p.2.ctx ≠ 1 ∨ (1 : BitVec 32) = 0) ∧ replyDue (mk grp) .ready = true
    ∧ replyDue (mk grp) (.launchDone 1) = false :=
  ⟨asks _ _ _ (by decide) (by decide), rfl, by decide +kernel, asks _ _ _ (by decide) (by decide), rfl, by decide +kernel, rfl, by decide +kernel⟩

/-- A kernel with a level template of one workgroup, and a module without contexts. -/
def tested : Kernel := { kern with levels := dws [16, 0, 2 ^ 32 + 1, 0, 0, 0] }

/-- See `tested`. -/
def testing : State :=
  let s := mk grp
  { s with drv := { s.drv with kernels := [tested], contexts := [] }, mem := State.reset.mem }

theorem wit_ContextRequests_test : let lv : Levels := { extents := [1, 1], doms := [0, 0, 0, 0, 0, 0] }
    testing.time.boot = .running ∧ (testing.tenant? 7).isSome = true ∧ testing.kernel? 1 = some tested
    ∧ tested.tenant = 7 ∧ tested.unloaded = false ∧ WorldOpen testing 7 0 ∧ tested.test = [] ∧ templateLevels tested.levels = some lv
    ∧ widening lv.doms = true ∧ LevelsOk tested.header lv ∧ tested.temps = [] ∧ tested.header.psize ≤ 0 := by
  refine ⟨rfl, rfl, rfl, rfl, rfl, (by decide +kernel : _ < _), rfl, by decide +kernel, by decide, ⟨rfl, by decide, by decide, ?_⟩, rfl, by decide⟩
  intro i h2 h3
  exact absurd (show i < 2 from h3) (by omega)

/-- A test launch that starts. -/
theorem wit_ContextRequests_testLaunch : ∃ s1, testLaunch testing 7 0 tested = some s1 := by
  refine Option.isSome_iff_exists.mp ?_
  have hl : templateLevels tested.levels = some { extents := [1, 1], doms := [0, 0, 0, 0, 0, 0] } := by decide +kernel
  have hp : ∃ w s, pickWorld testing 7 0 = .ok (w, s) ∧ s.drv.contexts = [] := ⟨_, _, rfl, rfl⟩
  obtain ⟨w, s, hp, hc⟩ := hp
  have ht : tested.test.isEmpty = true := rfl
  have hk : levelChk tested.header { extents := [1, 1], doms := [0, 0, 0, 0, 0, 0] } = none := by decide +kernel
  have hd : ∀ (s : State) l a b, (s.drawUnused l a b).2.drv = s.drv := fun _ _ _ _ => rfl
  have h1 : tested.temps = [] := rfl
  have h2 : tested.header.psize = 0 := rfl
  simp only [testLaunch, hl, hp, ht]
  simp [newContext, State.context?, State.giveWorld, hd, hc, buildTables, firstRefusal, must, widening, hk, mergedBinds, h1, h2, guard]

/-- TABLE_CREATE of a HASH table of 32-byte rows: slabs from 0 on are free. -/
theorem wit_TableRequests_create : let m := msg 0x20 (dws [2 ^ 29, 7, 0, 0, 0, 0])
    AsksIn (mk grp) m 7 ctxt ∧ ∃ d, readDesc m.body ctxt.world = some d ∧ TableRoom (mk grp) d := by
  refine ⟨asks _ _ _ (by decide) (by decide), _, rfl, ?_⟩
  unfold TableRoom
  refine ⟨by decide +kernel, ⟨0, .inl rfl, by decide, by decide +kernel⟩, by decide +kernel⟩

/-- The tenant holds the owner world of tables 1 and 2. -/
theorem own (n : Nat) (h : n = 0 ∨ n = 1) : ∃ T, OwnTable (mk grp) 7 (BitVec.ofNat 32 (n + 1)) n T ∧ T.desc.owner = 1 := by
  rcases h with rfl | rfl <;> exact ⟨_, ⟨rfl, rfl, rfl, rfl⟩, rfl⟩

/-- ROWS_WRITE of eight bytes to row 15 of table 1, and ROWS_READ of them. -/
theorem wit_TableRequests_rows : let w := msg 0x22 ([1, 0, 0, 0] ++ dws [8 * 2 ^ 32, 15, 0, 9])
    let r := msg 0x23 ([1, 0, 0, 0, 56, 0, 0, 0, 8, 0, 0, 0, 0, 0, 0, 0] ++ dws [15])
    let T := (bnd (mk grp) 0 0 false).t
    let row : Row := { rid := 15, slot := 15, addr := 960 }
    OwnTable (mk grp) 7 1 0 T
    ∧ (AsksIn (mk grp) w 7 ctxt ∧ 4 ≤ w.body.length ∧ BitVec.ofNat 32 (le w.body 0 4) = 1 ∧ T.desc.unique = true ∧ memWf T.rows = true
      ∧ ∃ rs, readRows (countRows (w.body.drop 4).length (w.body.drop 4)) (w.body.drop 4) = some rs
          ∧ (∃ s1, putRecords (mk grp) 0 (mayTouch (mk grp) 7 1 T .wr) rs = .ok s1)
          ∧ ∀ r ∈ rs, r.data.length ≤ T.desc.width ∧ (T.desc.k128 = true ∨ r.key.toNat < 2 ^ 64) ∧ T.rowOf false r.key = .ok row)
    ∧ AsksIn (mk grp) r 7 ctxt ∧ 16 ≤ r.body.length ∧ BitVec.ofNat 32 (le r.body 0 4) = 1
      ∧ le r.body 4 4 + le r.body 8 4 ≤ T.desc.width
      ∧ ∃ ks, readKeys T.desc.k128 (le r.body 12 4 == 1) (r.body.drop 16) = some ks ∧ (∀ k ∈ ks, T.rowOf (le r.body 12 4 == 1) k = .ok row)
        ∧ NoBad T (row.addr + le r.body 4 4) (le r.body 8 4) := by
  refine ⟨⟨rfl, rfl, rfl, rfl⟩, ⟨asks _ _ _ (by decide) (by decide), by decide, by decide, rfl, by decide +kernel, _, rfl, ⟨_, rfl⟩, ?_⟩,
    asks _ _ _ (by decide) (by decide), by decide, by decide, by decide +kernel, _, rfl, ?_, no_bad rfl⟩
  · intro r hr
    cases List.mem_singleton.mp hr
    exact ⟨by decide, .inr (by decide), rfl⟩
  · intro k hk
    cases List.mem_singleton.mp hk
    rfl

theorem wit_TableRequests_swap : let m := msg 0x24 [1, 0, 0, 0, 4, 0, 0, 0]
    let s := swappable grp
    AsksIn s m 7 ctxt ∧ m.body.length = 8 ∧ (1 : BitVec 32) = BitVec.ofNat 32 (le m.body 0 4) ∧ (4 : BitVec 32) = BitVec.ofNat 32 (le m.body 4 4)
    ∧ ∃ tx ty, OwnTable s 7 1 0 tx ∧ OwnTable s 7 4 3 ty ∧ tx.desc.owner = ty.desc.owner ∧ tx.desc.kind = ty.desc.kind
        ∧ tx.desc.k128 = ty.desc.k128 ∧ tx.desc.width = ty.desc.width :=
  ⟨⟨⟨rfl, ⟨_, rfl, rfl⟩, rfl, by decide, rfl, by decide⟩, rfl, rfl, rfl⟩, by decide, by decide, by decide, _, _, ⟨rfl, rfl, rfl, rfl⟩,
    ⟨rfl, rfl, rfl, rfl⟩, rfl, rfl, rfl, rfl⟩

/-- The window entry of world 1 for world 2 over table 1. -/
def wind (st : WinState) : Window := { owner := 1, grantee := 2, table := 1, st := st, at_ := false, wr := false, rd := true, lo := 0, hi := 64 }

/-- The module with a context of tenant 8 in world 2, and windows. -/
def neighbours (ws : List (Nat × Window)) : State :=
  let s := mk grp
  { s with drv := { s.drv with contexts := [ctxt, { ctxt with handle := 2, tenant := 8, world := 2 }], worlds := [(1, 7), (2, 8)]
                               notices := [{ id := 5, window := 3, link := 0, lane := 0, acked := false }] }
           mem := { s.mem with windows := ws } }

/-- A tenant's request to the module with neighbours. -/
theorem asksNear (ws : List (Nat × Window)) (code : BitVec 16) (body : List Byte) (hc : closesSession (msg code body) = false)
    (hl : body.length < 2 ^ 32) : AsksIn (neighbours ws) (msg code body) 7 ctxt := by
  refine ⟨⟨rfl, ⟨_, rfl, rfl⟩, rfl, hc, rfl, ?_⟩, rfl, rfl, rfl⟩
  show body.length = (BitVec.ofNat 32 body.length).toNat
  rw [BitVec.toNat_ofNat, Nat.mod_eq_of_lt hl]

/-- WINDOW_SET to a world of the tenant's own and to another tenant's; with every index in use; WINDOW_REVOKE of window 3. -/
theorem wit_TableRequests_window : let s := neighbours [(3, wind .active)]
    let full := neighbours ((List.range 4096).map fun k => (k, wind .active))
    let own := msg 0x30 (dws [2 ^ 48 + 2 ^ 32 + 1, 1, 0, 64])
    let other := msg 0x30 (dws [2 ^ 48 + 2 ^ 33 + 1, 1, 0, 64])
    let m := msg 0x31 [3, 0, 0, 0]
    (∃ w T, AsksIn s own 7 ctxt ∧ readWindow own.body = some w ∧ OwnTable s 7 w.table 0 T ∧ T.desc.owner = w.owner ∧ T.desc.isArray = true
      ∧ worldHolder s w.grantee = some 7 ∧ (usedWindows s).length < 4096)
    ∧ (AsksIn full own 7 ctxt ∧ 4096 ≤ (usedWindows full).length)
    ∧ (∃ w T, AsksIn s other 7 ctxt ∧ readWindow other.body = some w ∧ OwnTable s 7 w.table 0 T ∧ T.desc.owner = w.owner ∧ T.desc.isArray = true
      ∧ worldHolder s w.grantee = some 8 ∧ (8, w.owner, w.grantee, w.table) ∉ s.drv.grants)
    ∧ AsksIn s m 7 ctxt ∧ m.body.length = 4 ∧ 3 = le m.body 0 4 ∧ lookupNat 3 s.mem.windows = some (wind .active) ∧ holdsWorld s 7 1 = true :=
  ⟨⟨_, _, asksNear _ _ _ (by decide) (by decide), rfl, ⟨rfl, rfl, rfl, rfl⟩, rfl, rfl, rfl, by decide +kernel⟩,
    ⟨asksNear _ _ _ (by decide) (by decide), by decide +kernel⟩,
    ⟨_, _, asksNear _ _ _ (by decide) (by decide), rfl, ⟨rfl, rfl, rfl, rfl⟩, rfl, rfl, rfl, (fun h => nomatch h)⟩,
    asksNear _ _ _ (by decide) (by decide), by decide, by decide, rfl, by decide +kernel⟩

/-- A request to retire table 1 of module 1, and one to read rows of it. -/
theorem wit_TableRequests_forward : let id : BitVec 32 := 2 ^ 19 + 1
    let r := msg 0x21 [1, 0, 8, 0]
    let q := msg 0x23 [1, 0, 8, 0, 0, 0, 0, 0, 8, 0, 0, 0, 0, 0, 0, 0]
    Asks (mk grp) r 7 ∧ Forwards r (.tableRetire r) id ∧ Asks (mk grp) q 7 ∧ Forwards q (.rowsRead q) id
    ∧ idModule id ≠ (mk grp).drv.module ∧ (idModule id).toNat < 6144 :=
  ⟨(asks _ _ _ (by decide) (by decide)).1, .inl ⟨rfl, by decide, by decide⟩, (asks _ _ _ (by decide) (by decide)).1,
    .inr (.inr (.inl ⟨rfl, by decide, by decide⟩)), by decide, by decide⟩

/-- A read of table 1 of 8 bytes that waits for its reply, under the window entry of another module. -/
theorem wit_TableRequests_pending : let w := wind .active
    let q : Ask := { id := 0, owner := 8, world := 2, who := .nobody, lane := 0, ver := 0, addr := 8
                     a := { table := 1, row := none, at_ := 8, len := 8, op := .load }, reply := none }
    let s := (neighbours [(8195, w)]).setLink 0 { Link.reset with asks := [q] }
    lookupNat 8195 s.mem.windows = some w ∧ q ∈ (s.link 0).asks ∧ q.a.table = w.table ∧ q.world = w.grantee ∧ w.has q.a.op.right = true
    ∧ (let r := ((s.table? q.ver).map fun t => t.winRange q.addr q.a.len).getD (q.addr, q.addr + q.a.len)
       w.lo.toNat ≤ r.1 ∧ r.2 ≤ w.hi.toNat) := by
  refine ⟨rfl, List.mem_singleton.mpr rfl, rfl, rfl, rfl, ?_⟩
  decide +kernel

/-- A notice that has not been acknowledged; a grant that a held request waits for. -/
theorem wit_TableRequests_notice : let s := neighbours [(3, wind .active)]
    let u : State := { s with drv := { s.drv with tenants := s.drv.tenants ++ [{ id := 8, record := [], period := 0, fabric := none, transfer := none, retired := false }]
                                                  pend := [(.grant (wind .active), { session := 1, op := 0x30, status := 0, req := 9, ctx := 1, body := [] })] } }
    lookupNat 3 s.mem.windows = some (wind .active) ∧ (∃ x ∈ s.drv.notices, x.id = 5 ∧ x.acked = false)
    ∧ (u.tenant? 8).isSome = true ∧ ((8, 1, 2, 1) : BitVec 64 × BitVec 16 × BitVec 16 × BitVec 32) ∉ u.drv.grants
    ∧ worldHolder u 2 = some 8 ∧ (usedWindows u).length < 4096
    ∧ ∃ r, u.drv.pend = [(.grant (wind .active), r)] ∧ ∀ x ∈ u.drv.sessions, x.id = r.session → x.caller = none :=
  ⟨rfl, ⟨_, List.mem_cons_self, rfl, rfl⟩, rfl, by decide +kernel, by decide +kernel, by decide +kernel, _, rfl, by decide +kernel⟩

/-- The module where session 1 holds the debug right, with group 0 stopped or not. -/
def debugged (stop : Option Cause) : State :=
  let s := mk { grp with stopped := stop }
  { s with drv := { s.drv with contexts := [{ ctxt with right := some 1, dbgctl := 1 }] } }

theorem asksDebug (body : List Byte) (stop : Option Cause) (hl : body.length ≤ 2 ^ 30) :
    AsksDebug (debugged stop) (msg 0x50 body) 7 { ctxt with right := some 1, dbgctl := 1 } := by
  refine ⟨⟨⟨rfl, ⟨_, rfl, rfl⟩, rfl, ?_, rfl, ?_⟩, rfl, rfl, rfl⟩, rfl⟩
  · have : body.length % 2 ^ 32 ≤ 2 ^ 30 := Nat.le_trans (Nat.mod_le _ _) hl
    simpa [closesSession, msg] using this
  · simp [msg, Nat.mod_eq_of_lt (show body.length < 4294967296 by omega)]

theorem wit_DebugRequests_right : AsksIn (mk grp) (msg 0x50 [1]) 7 ctxt ∧ (msg 0x50 [1]).body.length = 1 ∧ ctxt.handle = 1 :=
  ⟨asks _ _ _ (by decide) (by decide), rfl, rfl⟩

/-- The context under a debug right. -/
def righted : Context := { ctxt with right := some 1, dbgctl := 1 }

/-- Group 0 of workgroup 0, named from a place of a body. -/
theorem named_of {stop : Option Cause} {bs : List Byte} {at_ : Nat} (h : BitVec.ofNat 32 (le bs at_ 4) = 1) (hn : le bs (at_ + 4) 4 = 0)
    (hb : le bs (at_ + 8) 1 = 0) : Named (debugged stop) righted bs at_ 0 0 { grp with stopped := stop } := by
  refine ⟨⟨_, by rw [h]; rfl, rfl⟩, by rw [hb], rfl, ?_⟩
  rw [hb]
  refine ⟨⟨_, rfl, by rw [h]; rfl, by rw [hn]; rfl, rfl⟩, fun k _ hk => absurd hk (Nat.not_lt_zero k)⟩

/-- One body of each shape: DBGCTL, breakpoint 7, watch 11, a stop and a hold of group 0 of workgroup 0. -/
theorem wit_DebugRequests_control : let s := debugged (some .debugStop)
    let ctl := msg 0x50 [3, 30, 0, 0, 0, 0, 0, 0, 0]
    let brk := msg 0x50 [4, 7, 0, 0, 0, 0, 0, 0, 0, 0x20]
    let wat := msg 0x50 [4, 11, 0, 0, 0, 0, 0, 0, 0, 0x20, 0, 0, 0, 0, 0, 0, 0, 0]
    let stop := msg 0x50 [5, 0, 1, 0, 0, 0, 0, 0, 0, 0, 0, 0]
    let hold := msg 0x50 [5, 1, 1, 0, 0, 0, 0, 0, 0, 0, 0, 7]
    AsksDebug s ctl 7 righted ∧ (ctl.body.length = 9 ∧ bitsOf (leW ctl.body 1) 63 6 = 0 ∧ (leW ctl.body 1).getLsbD 5 = false)
    ∧ AsksDebug s brk 7 righted ∧ (le brk.body 1 1 < 8 ∧ brk.body.length = 10 ∧ bitsOf (leW brk.body 2) 60 26 = 0)
    ∧ AsksDebug s wat 7 righted ∧ (8 ≤ le wat.body 1 1 ∧ le wat.body 1 1 < 12 ∧ wat.body.length = 18 ∧ bitsOf (leW wat.body 2) 53 32 = 0)
    ∧ AsksDebug s stop 7 righted ∧ stop.body.length = 12 ∧ le stop.body 1 1 = 0 ∧ Named s righted stop.body 2 0 0 { grp with stopped := some .debugStop }
    ∧ AsksDebug s hold 7 righted ∧ hold.body.length = 12 ∧ le hold.body 1 1 = 1 ∧ le hold.body 11 1 < 8
      ∧ Named s righted hold.body 2 0 0 { grp with stopped := some .debugStop } :=
  ⟨asksDebug _ _ (by decide), by decide, asksDebug _ _ (by decide), by decide, asksDebug _ _ (by decide), by decide,
    asksDebug _ _ (by decide), by decide, by decide, named_of (by decide) (by decide) (by decide),
    asksDebug _ _ (by decide), by decide, by decide, by decide, named_of (by decide) (by decide) (by decide)⟩

/-- A held split to release, of a child task: group 0 of the first. -/
def taskHeld : State :=
  let s := mk { lgrp 1 with L := { (lgrp 1).L with splits := (lgrp 1).L.splits.modify 0 fun p => { p with st := .held } } }
  { s with drv := { s.drv with contexts := [righted] }, wgs := s.wgs.map fun W => { W with child := true } }

theorem wit_DebugRequests_release : let rel := msg 0x50 [5, 2, 1, 0, 0, 0, 0, 0, 0, 0, 0x80, 0]
    ∃ G, AsksDebug taskHeld rel 7 righted ∧ rel.body.length = 12 ∧ le rel.body 1 1 = 2 ∧ le rel.body 11 1 < 8
      ∧ Named taskHeld righted rel.body 2 0 0 G ∧ (G.split (le rel.body 11 1)).st = .held :=
  ⟨_, ⟨⟨⟨rfl, ⟨_, rfl, rfl⟩, rfl, by decide, rfl, by decide⟩, rfl, rfl, rfl⟩, rfl⟩, by decide, by decide, by decide,
    ⟨⟨_, rfl, rfl⟩, by decide, rfl, (by decide +kernel : (childrenOf taskHeld 1)[0]? = some 0)⟩, rfl⟩

/-- The scalar register 1 (0), a lane register (1), predicates (2), a uniform register (3), the split table (4), the last doubleword of
the frame (5) and the cause of the stop (6); a write of 7 to predicates, and of a frame doubleword that has no reserved bits. -/
theorem wit_DebugRequests_state : let s := debugged (some .debugStop)
    let G : Group := { grp with stopped := some .debugStop }
    let read := msg 0x50 [6, 0, 1, 0, 0, 0, 0, 0, 0, 0, 0, 0, 0, 1, 0]
    let write := msg 0x50 ([6, 1, 1, 0, 0, 0, 0, 0, 0, 0, 0, 2, 31, 0, 0] ++ dws [7])
    AsksDebug s read 7 righted ∧ read.body.length = 15 ∧ le read.body 1 1 ≠ 1 ∧ Named s righted read.body 2 0 0 G
    ∧ ReadsState G (le read.body 11 1) (le read.body 12 1) (le read.body 13 2) 8
    ∧ (∃ v, ReadsState G 1 31 15 v) ∧ (∃ v, ReadsState G 3 0 7 v) ∧ (∃ v, ReadsState G 4 0 47 v) ∧ (∃ v, ReadsState G 5 0 316 v)
    ∧ ReadsState G 6 0 8 ((causeCode .debugStop).setWidth 64)
    ∧ AsksDebug s write 7 righted ∧ write.body.length = 23 ∧ le write.body 1 1 = 1 ∧ le write.body 11 1 = 2 ∧ Named s righted write.body 2 0 0 G
    ∧ ReadsState G 2 31 0 0 ∧ bitsOf (leW write.body 15) 63 7 = 0 ∧ frameRsv 1 = [] := by
  refine ⟨asksDebug _ _ (by decide), by decide, by decide, named_of (by decide) (by decide) (by decide), ⟨.inl rfl, ?_⟩, ⟨_, .inl rfl, ?_, rfl⟩,
    ⟨_, .inl rfl, rfl⟩, ⟨_, .inl rfl, rfl⟩, ⟨_, .inl rfl, rfl⟩, ⟨.inl rfl, .inr ⟨rfl, rfl⟩⟩, asksDebug _ _ (by decide), by decide, by decide,
    by decide, named_of (by decide) (by decide) (by decide), ⟨.inl rfl, by decide, rfl⟩, by decide, rfl⟩
  · show _ ∧ _
    decide +kernel
  · decide

/-- Trace channel 31 of 2^30 bytes; a rule, unbinding, reading and freeing of channel 0, which is bound; Noon before its 1000 ns are over
and after. -/
theorem wit_DebugRequests_trace : let s := debugged (some .debugStop)
    let u := s.setDie 0 { Die.reset with tr := { Trace.reset with world := 1 } }
    let chan := msg 0x50 [7, 0, 31, 30]
    let rule := msg 0x50 ([7, 1, 0, 15] ++ dws [0, 0])
    let free := msg 0x50 [7, 4, 0, 255, 0, 0, 0]
    AsksDebug s chan 7 righted ∧ (chan.body.length = 4 ∧ le chan.body 1 1 = 0 ∧ le chan.body 2 1 < 32 ∧ 8 ≤ le chan.body 3 1 ∧ le chan.body 3 1 ≤ 30
        ∧ (s.die (le chan.body 2 1)).tr.world = 0)
    ∧ (u.die 0).tr.world = righted.world
    ∧ (rule.body.length = 20 ∧ le rule.body 1 1 = 1 ∧ le rule.body 2 1 = 0 ∧ le rule.body 3 1 < 16 ∧ bitsOf (leW rule.body 4) 33 26 = 0
        ∧ bitsOf (leW rule.body 12) 63 58 = 0)
    ∧ (free.body.length = 7 ∧ le free.body 1 1 = 4 ∧ le free.body 3 4 < 2 ^ (u.die 0).tr.lg.toNat)
    ∧ AsksDebug s (msg 0x50 [8]) 7 righted ∧ s.drv.noon = none ∧ s.time.clock.toNat < (0 : W64).toNat + 1000 :=
  ⟨asksDebug _ _ (by decide), by decide +kernel, by decide +kernel, by decide, by decide +kernel, asksDebug _ _ (by decide), rfl, by decide +kernel⟩

/-- What core 0 has counted for a context, for a tenant, and for another context. -/
theorem wit_DebugRequests_noon : let l : List (MeterOf × Meter) := [(.ctx 1, ⟨5, 1, 2⟩), (.tenant 7, ⟨3, 0, 1⟩), (.ctx 2, ⟨9, 9, 9⟩)]
    let s : State := { debugged none with meters := [(0, l)] }
    AsksDebug s (msg 0x50 [8]) 7 righted ∧ lookupNat 0 s.meters = some l ∧ (∀ n, s.drv.noon = some n → n.toNat + 1000 ≤ s.time.clock.toNat)
    ∧ (l.filter fun p => decide (p.1 = .ctx righted.handle ∨ p.1 = .tenant righted.tenant)).map (·.2) = [⟨5, 1, 2⟩, ⟨3, 0, 1⟩] :=
  ⟨⟨⟨⟨rfl, ⟨_, rfl, rfl⟩, rfl, by decide, rfl, by decide⟩, rfl, rfl, rfl⟩, rfl⟩, rfl, (fun _ h => nomatch h), by decide +kernel⟩

/-- A stop asked for, and a hold, under a debug right. -/
def asked (i : Instr) : State :=
  let s := mk (lgrp 1)
  { s with drv := { s.drv with contexts := [{ ctxt with right := some 1, dbgctl := 1 }] }, ctl := { s.ctl with asked := [i] } }

theorem wit_StopsAndSyncs_stop :
    (∃ E, envAt (asked (.debugStop 0 0)) 0 0 = some E ∧ .debugStop 0 0 ∈ (asked (.debugStop 0 0)).ctl.asked ∧ E.C.dbgctl.getLsbD 0 = true
      ∧ E.issues = true)
    ∧ ∃ E, envAt (asked (.splitHold 0 0 0)) 0 0 = some E ∧ .splitHold 0 0 0 ∈ (asked (.splitHold 0 0 0)).ctl.asked
        ∧ E.C.dbgctl.getLsbD 0 = true ∧ E.issues = true ∧ atBoundary E.G 0 = true ∧ 0 < E.G.L.splits.length
        ∧ E.G.regionOf (E.G.split 0).mask = none :=
  ⟨⟨_, rfl, List.mem_singleton_self _, rfl, rfl⟩, _, rfl, List.mem_singleton_self _, rfl, rfl, rfl, by decide +kernel, rfl⟩

/-- A trace channel bound to world 1 whose 256th packet is next, or that has dropped packets, with a read point. -/
def traced (since dropped : Nat) (rd : BitVec 32) : State :=
  (mk grp).setDie 0 { Die.reset with tr := { Trace.reset with world := 1, since := since, dropped := dropped, rd := rd } }

/-- A ring of 256 bytes with room, and one with 7 bytes of it left. -/
theorem wit_StopsAndSyncs_trace : let s := traced 255 0 0
    let u := traced 0 3 0
    let sync := fun (s : State) => natToBytes 8 s.time.clk ++ natToBytes 8 s.time.clock.toNat ++ natToBytes 1 (syncGroups s 0).length
        ++ (syncGroups s 0).flatMap fun p => natToBytes 2 p.1 ++ natToBytes 1 (p.2.foldl (fun a e => a + 2 ^ e.1) 0)
            ++ p.2.flatMap fun e => natToBytes 4 e.2.1.toNat ++ natToBytes 4 e.2.2.toNat
    ((s.die 0).tr.world ≠ 0 ∧ (s.die 0).tr.dropped = 0 ∧ 255 ≤ (s.die 0).tr.since ∧ memWf (s.die 0).tr.buf = true
      ∧ (headerOf 5 (s.time.clk - (s.die 0).tr.last) ++ sync s).length ≤ (s.die 0).tr.free)
    ∧ ((traced 255 0 8).die 0).tr.free < (sync (traced 255 0 8)).length
    ∧ ((u.die 0).tr.world ≠ 0 ∧ (u.die 0).tr.dropped ≠ 0
      ∧ (headerOf 6 (u.time.clk - (u.die 0).tr.last) ++ natToBytes 4 (min (u.die 0).tr.dropped 0xFFFFFFFF) ++ headerOf 5 0 ++ sync u).length ≤ (u.die 0).tr.free)
    ∧ ((traced 0 3 8).die 0).tr.free < (sync (traced 0 3 8)).length :=
  ⟨by decide +kernel, by decide +kernel, by decide +kernel, by decide +kernel⟩

/-- A group that is traced: its block runs, trc is set, and its world has the channel of its die. -/
theorem wit_StopsAndSyncs_traces : let s0 := mk (lgrp 1)
    let s := ({ s0 with drv := { s0.drv with contexts := [{ ctxt with dbgctl := 0x20 }] } } : State).setDie 0
      { Die.reset with tr := { Trace.reset with world := 1 } }
    ∃ E, envAt s 0 0 = some E ∧ Traces s E 0 ∧ (s.die 0).tr.pend = [] := by
  exact ⟨_, rfl, ⟨rfl, rfl, rfl, by decide, rfl, by decide +kernel⟩, rfl⟩

/-! ### Links, tenants, power -/

/-- Owner 7's traffic: flit 3 is not acknowledged. -/
def owner7 (send : W64) : LinkOwner :=
  { owner := 7, send := send, expect := 4, retry := [⟨7, 3, Vector.replicate 240 1, Vector.replicate 256 2, 0⟩] }

/-- The module with owner 7's fabric secret, and its traffic on link 0. -/
def linked (secret : Option (List Byte)) : State :=
  let s := (mk grp).setLink 0 { Link.reset with owners := [owner7 (2 ^ 40)], sent := 1 }
  { s with drv := { s.drv with tenants := [{ id := 7, record := [], period := 0, fabric := secret, transfer := none, retired := false }] } }

/-- A flit of the owner with a counter. -/
def flit (c : W64) : Flit := { owner := 7, counter := c, bytes := Vector.replicate 256 0 }

/-- What the key opens of a flit is a free value: if it opens, it is accepted with counter 4 and dropped with counter 3; without a
secret nothing opens. -/
theorem wit_LinkEvents_flit : (0 < Config.links ∧ ((linked none).link 0).failed = false)
    ∧ (∀ c p, Config.flitOpen (deriveKey [] 7 0 .fabric 0) (flitNonce 0 (!Config.linkSide 0) c) (Vector.replicate 256 0) = some p →
        ((fabricKey (linked (some [])) 0 ((linked (some [])).link 0).period (flit c).owner).bind fun key =>
          Config.flitOpen key (flitNonce 0 (!Config.linkSide 0) (flit c).counter) (flit c).bytes) = some p)
    ∧ (flit 4).counter = (((linked (some [])).link 0).owner (flit 4).owner).expect
    ∧ (flit 3).counter ≠ (((linked (some [])).link 0).owner (flit 3).owner).expect
    ∧ ((fabricKey (linked none) 0 ((linked none).link 0).period (flit 4).owner).bind fun key =>
          Config.flitOpen key (flitNonce 0 (!Config.linkSide 0) (flit 4).counter) (flit 4).bytes) = none :=
  ⟨⟨by decide, by decide +kernel⟩, fun _ _ h => h, by decide +kernel, by decide +kernel, rfl⟩

theorem wit_LinkEvents_owner : (∃ y ∈ ((linked none).link 0).owners, y.owner = 7)
    ∧ (∃ x ∈ ((linked none).link 0).owners, 2 ^ 40 ≤ x.send.toNat ∨ 2 ^ 40 ≤ x.expect.toNat)
    ∧ (∃ v T, (mk grp).versionOf 1 = some v ∧ (mk grp).table? v = some T ∧ 0 < T.desc.nslabs ∧ 0 ∉ T.absent
        ∧ ∀ W ∈ (mk grp).wgs, Need.slab v 0 ∉ W.holds ∧ ∀ f ∈ W.faults, Need.slab v 0 ∉ f.needs)
    ∧ (∀ W ∈ (mk grp).wgs, Need.window 3 ∉ W.holds ∧ ∀ f ∈ W.faults, Need.window 3 ∉ f.needs)
    ∧ ((((linked none).link 0).owners.flatMap (·.retry)).map (·.place)).Nodup :=
  ⟨⟨_, List.mem_cons_self, rfl⟩, ⟨owner7 (2 ^ 40), List.mem_cons_self, .inl (by decide)⟩,
    ⟨0, _, rfl, rfl, by decide, by decide, by decide +kernel⟩, by decide +kernel, by decide +kernel⟩

/-- A message of owner 7 that waits for its first transmission on virtual lane 0. -/
theorem wit_LinkEvents_transmit : let s0 := linked (some [])
    let s := s0.setLink 0 { s0.link 0 with queue := [(7, 0, .ack 3)], owners := [owner7 5] }
    (s.link 0).queue.head? = some (7, 0, .ack 3) ∧ ((s.link 0).owner 7).send.toNat < 2 ^ 40 ∧ (s.link 0).retrain = false ∧ (s.link 0).stopped.getLsbD (0 % 8) = false
    ∧ (fabricKey s 0 (s.link 0).period 7).isSome = true := by decide +kernel

/-- A SKLD of row 3 of table 1, at word 0. -/
def skldWord : SWord := (encodeS (.skld 4 2 0 0)).getD 0

/-- The module as module 5, to which table 1 of module 0 is another's, at that word, with accesses under way. -/
def afar (as : List Ask) : State :=
  let s := standing skldWord .none grp
  { s.setLink 0 { Link.reset with asks := as } with drv := { s.drv with module := 5 }, mem := { s.mem with held := [1] } }

/-- The access that the word needs, and what has gone out for it. -/
def far3 : Far := { lane := 0, slot := 0, ver := 0, addr := 192, a := { table := 1, row := some (true, 3), at_ := 0, len := 8, op := .load } }

/-- See `far3`. -/
def ask3 (r : Option (BitVec 8 × List Byte)) : Ask :=
  { id := 0, owner := 7, world := 1, who := .stream 0 0 0, lane := 0, ver := 0, addr := 192, a := far3.a, reply := r }

/-- The word finds its row; it has not asked. -/
theorem wit_LinkEvents_word : let s := afar []
    ∃ E T G', envOf (s.turnTo 0 0 0) = some E ∧ beforeWord s E none = none ∧ E.G.S.stall.holds = false
      ∧ breakAt E.C false E.G.S.pc = none ∧ E.K.scode[E.G.S.pc.toNat]? = some skldWord ∧ decodeS skldWord = .ok (.skld 4 2 0 0)
      ∧ E.tagMiss (scalarUses E (.skld 4 2 0 0)) = none
      ∧ (∃ b r, slotOf (s.turnTo 0 0 0) E.La 0 = .bound b ∧ b.t.rowOf true ((E.G.rS 2).setWidth 128) = .ok r)
      ∧ farS (s.turnTo 0 0 0) E (.skld 4 2 0 0) = [far3] ∧ (∀ q, ¬ AskedFor s (.stream 0 0 E.G.S.pc) far3 q)
      ∧ exec (.skld 4 2 0 0) (s.turnTo 0 0 0) = .next T ∧ (afterS E (firstTrap (s.turnTo 0 0 0) E T)).group? 0 0 = some G' ∧ G'.fin = .running
      ∧ G'.T.traps = E.G.T.traps ∧ G'.S.pc ≠ E.G.S.pc := by
  refine ⟨(envOf ((afar []).turnTo 0 0 0)).getD (env (mk grp)), _, _, rfl, rfl, rfl, rfl, rfl, rfl, rfl, ⟨_, _, rfl, rfl⟩, rfl, ?_, rfl, rfl, rfl, rfl, ?_⟩
  · rintro q ⟨⟨l, hl, hq⟩, -⟩
    cases List.mem_singleton.mp hl
    cases hq
  · decide +kernel

/-- It has asked; it has its answer: the bytes, or a window fault. -/
theorem wit_LinkEvents_asked : ∀ r ∈ [none, some (0, [7, 0, 0, 0, 0, 0, 0, 0]), some (causeCode .windowRevoked, [])],
    AskedFor (afar [ask3 r]) (.stream 0 0 0) far3 (ask3 r) ∧ (afar [ask3 r]).asksOf (.stream 0 0 0) = [ask3 r] := by
  intro r _
  refine ⟨⟨⟨(0, _), List.mem_singleton.mpr rfl, List.mem_singleton.mpr rfl⟩, rfl, rfl, rfl, rfl, rfl, rfl, rfl, rfl⟩, ?_⟩
  show [ask3 r].filter (fun q => q.who == .stream 0 0 0) = _
  rfl

/-- What the wrap key opens is a free value. -/
theorem wit_TenantEvents : (mk grp).time.boot = .running ∧ (mk grp).tenant? 8 = none ∧ ((mk grp).tenant? 7).isSome = true
    ∧ (∀ x ∈ (mk grp).drv.sessions, x.id ≠ 2) ∧ (∃ C, (mk grp).context? 1 = some C ∧ C.tenant = 7 ∧ C.ended = none)
    ∧ ∀ wrapped, ∃ o, Config.unwrap (rootKey 7 0 .wrap 0) wrapped = o :=
  ⟨rfl, by decide +kernel, rfl, by decide +kernel, ⟨_, rfl, rfl, rfl⟩, fun _ => ⟨_, rfl⟩⟩

/-- A context whose one workgroup's image is whole leaves; one with a reduction on its way, or with a workgroup in its service, stays. -/
theorem wit_TenantEvents_leave : let s := mk grp
    let u : State := { s with reds := [red 56] }
    let ws := fun (s : State) => (wgsOf s 1).filter fun w => (s.wgs[w]?).any fun W => W.place != .completed
    (∃ C T secret, s.context? 1 = some C ∧ C.tenant = 7 ∧ C.ended = none ∧ s.tenant? 7 = some T ∧ T.transfer = some secret)
    ∧ ws s = [0] ∧ (∀ w ∈ ws s, ∀ W, s.wgs[w]? = some W → W.place ≠ .image ∧ W.place ≠ .leaving ∧ WholeImage s w W) ∧ s.reds = []
    ∧ (∃ r ∈ u.reds, r.wg ∈ ws u) ∧ ∃ w ∈ ws imaged, ∃ W, imaged.wgs[w]? = some W ∧ W.place = .image := by
  refine ⟨⟨_, _, _, rfl, rfl, rfl, rfl, rfl⟩, by decide +kernel, fun w hw W hW => ?_, rfl, ⟨_, List.mem_cons_self, by decide +kernel⟩,
    0, by decide +kernel, _, rfl, rfl⟩
  have h0 : ∀ w ∈ (wgsOf (mk grp) 1).filter (fun w => ((mk grp).wgs[w]?).any fun W => W.place != .completed), w = 0 := by decide +kernel
  cases h0 w hw
  cases hW
  refine ⟨by decide, by decide, ?_⟩
  unfold WholeImage
  decide +kernel

/-- An image that has arrived under the key that both ends derive is taken in where its handle is free. -/
theorem wit_TenantEvents_arrive : let s0 := mk grp
    let x : Transit := ⟨1, 5, false, Config.gcmSeal (deriveKey [] 7 0 .transfer (1 + 2 ^ 32 * 5)) [] (natToBytes 4 1 ++ natToBytes 4 5), ctxt, [], [],
      s0.wgs, [], [], false⟩
    let u : State := { s0 with wgs := [], drv := { s0.drv with contexts := [], launches := [], transit := [x] } }
    ∃ T secret, u.drv.transit = [x] ∧ x.ctx = 1 ∧ x.handover = 5 ∧ x.confirmed = false ∧ x.sent = false ∧ x.context.handle = 1
      ∧ x.context.tenant = 7 ∧ worldHolder u x.context.world = some 7
      ∧ u.tenant? 7 = some T ∧ T.transfer = some secret
      ∧ x.sealing = Config.gcmSeal (deriveKey secret T.id T.period .transfer ((1 : BitVec 32).toNat + 2 ^ 32 * (5 : BitVec 32).toNat)) []
          (natToBytes 4 (1 : BitVec 32).toNat ++ natToBytes 4 (5 : BitVec 32).toNat)
      ∧ u.context? 1 = none ∧ (∀ l ∈ x.launches, u.launch? l.handle = none) ∧ ∀ k ∈ x.kernels, ∀ K, u.kernel? k.handle = some K → K = k :=
  ⟨_, _, rfl, rfl, rfl, rfl, rfl, rfl, rfl, rfl, rfl, rfl, rfl, rfl, (fun _ h => nomatch h), fun _ h => nomatch h⟩

/-- Whether an image verifies is a free value. The last die that a shutdown names, with the clock lowered and not. -/
theorem wit_PowerEvents : State.reset.time.boot = .powerOn
    ∧ (Config.slhVerify Config.skovganKey Config.firmware = true ∨ Config.slhVerify Config.skovganKey Config.firmware = false)
    ∧ ({ State.reset with time := { State.reset.time with boot := .refused } } : State).time.boot = .refused ∧ (67 : Nat) < 68
    ∧ ({ mk grp with time := { (mk grp).time with slow := true } } : State).time.slow = true ∧ (mk grp).time.slow = false
    ∧ ∃ C, (mk grp).context? 1 = some C ∧ C.ended = none :=
  ⟨rfl, Bool.eq_false_or_eq_true _, rfl, by decide, rfl, rfl, _, rfl, rfl⟩

end Sys2Proof.Tests
end

section
/-! PROOF. The scalar stream: what a ready S word that writes one register answers, division and remainder by the rule's own
formula, and what LBRK makes of the loop stack (R89, R91, R98). -/

namespace Sys2Proof.Proofs

open Sys2Proof.Machine Sys2Proof.Claims

/-! ### S words that change their group alone -/

/-- Whatever a change of one group makes of it, everything else stays. -/
theorem onlyGroup_modGroup (s : State) (w g : Nat) (f : Group → Group) : OnlyGroup s (s.modGroup w g f) w g where
  meters := rfl
  time := rfl
  mem := rfl
  drv := rfl
  cores := rfl
  dies := rfl
  jobs := rfl
  reds := rfl
  late := rfl
  links := rfl
  ctl := rfl
  others := fun w' g' h => State.group?_modGroup_ne s w g w' g' f h
  wgs := fun w' W hW => by
    rw [State.wgs_modGroup, hW]
    refine ⟨_, rfl, ?_⟩
    split <;> rfl

/-- The group of a ready S word after a change of it. -/
theorem group?_modGroup_ready {s : State} {E : Env} (h : SReady s E) (f : Group → Group) :
    (s.modGroup E.w E.g f).group? E.w E.g = some (f E.G) := by
  obtain ⟨hE, -⟩ := h
  rw [State.group?_modGroup, envOf_group hE, Option.map_some]

/-- A ready S word whose result writes register d retires with that write. -/
theorem sWord_write {s : State} {E : Env} (h : SReady s E) {f : Env → SRes} {d : BitVec 6} {v : W64}
    (hf : f E = .group s E fun G => G.wS d v) : sWord s f = .next (afterWrite s E d v) := by
  rw [sWord_ready h, hf, applyS_group, afterWrite]

/-- A ready S word whose result is a trap takes it. -/
theorem sWord_fail {s : State} {E : Env} (h : SReady s E) {f : Env → SRes} {c : Cause} {d0 d1 : W64}
    (hf : f E = .fail c d0 d1) :
    sWord s f = .next (takeTrap s E.w E.g { cause := c, kind := .word, d0 := d0, d1 := d1 }) := by
  rw [sWord_ready h, hf]
  rfl

/-- R88: a ready two-operand form writes its result to sd. -/
theorem sBinary_ready {s : State} {E : Env} (h : SReady s E) (d a b : BitVec 6) (f : W64 → W64 → W64) :
    sBinary d a b f s = .next (afterWrite s E d (f (E.G.rS a) (E.G.rS b))) :=
  sWord_write h rfl

/-! ### Constants -/

/-- R91: of 24 bits over 20 over 20, each field is read back at its place. -/
theorem extractLsb'_fields (x : BitVec 24) (y z : BitVec 20) :
    (x ++ y ++ z).extractLsb' 20 20 = y ∧ (x ++ y ++ z).extractLsb' 40 24 = x ∧ (x ++ y ++ z).extractLsb' 0 20 = z := by
  refine ⟨?_, ?_, BitVec.extractLsb'_append_eq_right⟩
  · rw [BitVec.extractLsb'_append_eq_of_le (by decide)]
    exact BitVec.extractLsb'_append_eq_right
  · rw [BitVec.extractLsb'_append_eq_of_le (by decide)]
    exact BitVec.extractLsb'_append_eq_left

/-- Settles O9: MOVI writes the sign-extended immediate, and MOVH the three fields that R91 names. -/
theorem moveImmediate : Obligations.MoveImmediate := by
  intro s E d i h
  obtain ⟨himm, hhigh, hlow⟩ := extractLsb'_fields ((E.G.rS d).extractLsb' 40 24) i ((E.G.rS d).extractLsb' 0 20)
  exact ⟨sWord_write h rfl, _, sWord_write h rfl, himm, hhigh, hlow⟩

/-! ### Division -/

/-- R89: a `.t` division by zero traps with INT_DIVZERO. -/
theorem sDivTrap_zero {s : State} {E : Env} (h : SReady s E) (d a b : BitVec 6) (f : W64 → W64 → W64)
    (hb : E.G.rS b = 0) :
    sDivTrap d a b f s = .next (takeTrap s E.w E.g { cause := .intDivzero, kind := .word }) :=
  sWord_fail h (if_pos hb)

/-- R89: a `.t` division by any other number writes its result. -/
theorem sDivTrap_ne_zero {s : State} {E : Env} (h : SReady s E) (d a b : BitVec 6) (f : W64 → W64 → W64)
    (hb : E.G.rS b ≠ 0) : sDivTrap d a b f s = .next (afterWrite s E d (f (E.G.rS a) (E.G.rS b))) :=
  sWord_write h (if_neg hb)

/-- R89: sa = q × sb + r on signed numbers, solved for the remainder. -/
theorem remSigned_eq (x y : W64) :
    remSigned x y = if y = 0 then x else x - y * BitVec.ofInt 64 (x.toInt.tdiv y.toInt) := by
  have dividend : BitVec.ofInt 64 (x.toInt.tmod y.toInt) + y * BitVec.ofInt 64 (x.toInt.tdiv y.toInt) = x := by
    calc
      _ = BitVec.ofInt 64 (y.toInt * x.toInt.tdiv y.toInt + x.toInt.tmod y.toInt) := by
        rw [BitVec.ofInt_add, BitVec.ofInt_mul, BitVec.ofInt_toInt, BitVec.add_comm]
      _ = x := by rw [Int.mul_tdiv_add_tmod, BitVec.ofInt_toInt]
  rw [remSigned, BitVec.eq_sub_iff_add_eq.mpr dividend]

/-- R89: sa = q × sb + r on unsigned numbers, solved for the remainder. -/
theorem remUnsigned_eq (x y : W64) :
    remUnsigned x y = if y = 0 then x else x - y * BitVec.ofNat 64 (x.toNat / y.toNat) := by
  have dividend : BitVec.ofNat 64 (x.toNat % y.toNat) + y * BitVec.ofNat 64 (x.toNat / y.toNat) = x := by
    calc
      _ = BitVec.ofNat 64 (y.toNat * (x.toNat / y.toNat) + x.toNat % y.toNat) := by
        rw [BitVec.ofNat_add, BitVec.ofNat_mul, BitVec.ofNat_toNat, BitVec.setWidth_eq, BitVec.add_comm]
      _ = x := by rw [Nat.div_add_mod, BitVec.ofNat_toNat, BitVec.setWidth_eq]
  rw [remUnsigned, BitVec.eq_sub_iff_add_eq.mpr dividend]

/-- What a word of the table of divisions runs: the trapping or the plain form of an operation of the model, which gives the
table's result wherever the word does not trap. -/
theorem exec_of_divWord {i : Instr} {d a b : BitVec 6} {t : Bool} {f : Alu} (h : divWord i = some (d, a, b, t, f)) :
    ∃ op : Alu, (∀ s, exec i s = if t then sDivTrap d a b op s else sBinary d a b op s)
      ∧ ∀ x y, ¬ (t = true ∧ y = 0) → op x y = f x y := by
  unfold divWord at h
  split at h <;> cases h
  case h_1 => exact ⟨divSigned, fun _ => rfl, fun _ _ _ => rfl⟩
  case h_2 => exact ⟨divUnsigned, fun _ => rfl, fun _ _ _ => rfl⟩
  case h_3 => exact ⟨remSigned, fun _ => rfl, fun x y _ => remSigned_eq x y⟩
  case h_4 => exact ⟨remUnsigned, fun _ => rfl, fun x y _ => remUnsigned_eq x y⟩
  case h_5 => exact ⟨divSigned, fun _ => rfl, fun _ _ hy => if_neg (not_and.mp hy rfl)⟩
  case h_6 => exact ⟨divUnsigned, fun _ => rfl, fun _ _ hy => if_neg (not_and.mp hy rfl)⟩
  case h_7 => exact ⟨remSigned, fun _ => rfl, fun x y hy => (remSigned_eq x y).trans (if_neg (not_and.mp hy rfl))⟩
  case h_8 => exact ⟨remUnsigned, fun _ => rfl, fun x y hy => (remUnsigned_eq x y).trans (if_neg (not_and.mp hy rfl))⟩

/-- Settles O10: a trapping form with a zero divisor traps, and every other case writes the table's result. -/
theorem division : Obligations.Division := by
  intro i s E d a b t f h hi
  obtain ⟨op, hexec, hop⟩ := exec_of_divWord hi
  rw [hexec]
  refine ⟨fun ht hb => ?_, fun hn => ?_⟩
  · rw [if_pos ht, sDivTrap_zero h d a b op hb]
  · rw [← hop _ _ hn]
    cases t with
    | false => exact sBinary_ready h d a b op
    | true => exact sDivTrap_ne_zero h d a b op fun hb => hn ⟨rfl, hb⟩

/-! ### Leaving a loop -/

/-- The innermost entry of the loop stack is of the current call depth. -/
theorem loopHere_iff (G : Group) : G.loopHere = true ↔ ∃ e ∈ G.S.loops.head?, e.depth = G.S.depth := by
  simp [Group.loopHere, Option.any_eq_true]

/-- R98: a ready LBRK in a loop of its call depth leaves the group behind that loop's end, without its entry. -/
theorem execLbrk_cons {s : State} {E : Env} (h : SReady s E) {e : LoopEntry} {es : List LoopEntry}
    (hl : E.G.S.loops = e :: es) (hd : e.depth = E.G.S.depth) :
    execLbrk s = .next (s.modGroup E.w E.g fun G =>
      Group.jump { G with S := { G.S with loops := G.S.loops.drop 1 } } (e.stop + 1) false) := by
  have here : E.G.loopHere = true := (loopHere_iff E.G).mpr ⟨e, by simp [hl], hd⟩
  rw [execLbrk, sWord_ready h, if_pos here]
  simp only [hl, List.head?_cons, Option.map_some, Option.getD_some, applyS, State.modGroup_modGroup]

/-- Settles O15: LBRK changes its own group alone, or takes the trap of R98. -/
theorem loopBreak : Obligations.LoopBreak := by
  intro s E h
  refine ⟨fun e es hl hd => ?_, fun hn => ?_⟩
  · refine ⟨_, _, execLbrk_cons h hl hd, onlyGroup_modGroup .., group?_modGroup_ready h _, ?_⟩
    simp [Group.jump, hl]
  · have outside : ¬ E.G.loopHere = true := fun hh =>
      let ⟨e, he, hd⟩ := (loopHere_iff E.G).mp hh
      hn e he hd
    exact sWord_fail h (if_neg outside)

end Sys2Proof.Proofs
end
